-- ==== Sys2Proof/Word.lean ====
section
/-! DEFINITION. The word types of the Wortus W9 and the index types of its repeated units (R3, R34). -/

namespace Sys2Proof

/-- A 64-bit register, command or message word (R35, R526). -/
abbrev Word := BitVec 64

/-- One byte of memory. -/
abbrev Byte := BitVec 8

/-- A core, 0–127 (R3). -/
abbrev CoreId := Fin 128

/-- A die, 0–1 (R3). -/
abbrev DieId := Fin 2

/-- A context, 0–7 (R3). -/
abbrev CtxId := Fin 8

/-- A fabric port F0–F7 (R3). -/
abbrev PortId := Fin 8

/-- A station number, 0–15 (R526). -/
abbrev StationId := Fin 16

/-- The die that holds a core: core / 64 (R3). -/
abbrev dieOf (c : CoreId) : DieId := ⟨c.val / 64, by have := c.isLt; omega⟩

/-- The region that holds a core: core / 8 (R3). -/
abbrev regionOf (c : CoreId) : Fin 16 := ⟨c.val / 8, by have := c.isLt; omega⟩

end Sys2Proof
end

