-- ==== Sys2Proof/Syntax.lean ====
section
/-! DEFINITION. The commands of the block: one constructor per row of spec/opcode_table.json. A command names an
order that arrives, a register access, an instant at which an agent of the device acts, or an event outside it. What
only the outside decides (which cell arrives, what a sensor reads, which word an error strikes) is an operand. -/

namespace Sys2Proof

/-- A port that carries Zyndy traffic (R525). -/
inductive HostPort where
  | h0 | h1 | m0
  deriving DecidableEq, Repr

/-- How a message arrived: the port and the address family (R525). -/
structure Via where
  port : HostPort := .h0
  v6 : Bool := true
  deriving DecidableEq, Repr

/-- The header of a Zyndy message: the sender's station and its SEQ (R526), and how the message arrived (R525). -/
structure Hdr where
  station : StationId
  seq : Nat
  via : Via := {}
  deriving DecidableEq, Repr

/-- Who accesses a register: a station's order or the Renine controller (R33, R590). -/
inductive Access where
  | order (h : Hdr)
  | renine
  deriving DecidableEq, Repr

/-- The owner's orders (R540, R566), as MESSAGE_TIME_END applies them in SEQ order (R537). -/
inductive Order where
  | renew
  | handover (target : Nat)
  | releaseOwn
  | regWrite (addr : Word) (value : Word)
  | load (ctx : CtxId) (win seed first : Nat)
  | transitLoad (ctx : CtxId) (win : Nat)
  | start (ctx : CtxId) (epoch : Nat) (restore : Bool) (gen : BitVec 32)
  | halt (ctx : CtxId)
  | resume (ctx : CtxId)
  | unload (ctx : CtxId) (err0 err1 : BitVec 256)
  | replay (ctx : CtxId)
  | assign (ctx : CtxId) (ranges : List (Nat × Nat))
  | privilege (ctx : CtxId) (priv : Bool)
  | quarantine (core : Nat)
  | window (win : Nat) (ctx : CtxId) (base len : Nat) (dir : Bool) (pubCtr : Nat)
  | admitSet (ctx : CtxId) (manifest : Nat) (shards : List Nat)
  | restore (ctx : CtxId) (shard win : Nat)
  | pubRelease (win readySeq : Nat)
  | ckptRead (ctx : CtxId) (shard win : Nat)
  | wake (target : Nat) (all : Bool)
  | eventAck (seq : Nat)
  | localWake (clearSeq : Bool)
  | progBegin
  | progWrite (offset : Nat) (data : List Byte)
  | progEnd
  | reboot
  deriving DecidableEq, Repr

/-- An owner's order as it arrives in a message time: at so many nanoseconds into the interval (R534, R537). -/
structure OrderMsg where
  h : Hdr
  at_ : Nat
  o : Order
  deriving DecidableEq, Repr

/-- A claim as it arrives in a message time (R534, R537). -/
structure ClaimMsg where
  h : Hdr
  at_ : Nat
  prio : Nat
  deriving DecidableEq, Repr

/-- Who asks a bank for an access (R218, R219): an engine of a core, an XE or a fabric sequencer of a die, an agent that arrives
at a core's network port (a Shade copy, a debug read), or the chain transport. -/
inductive Requester where
  | me (core : CoreId)
  | ee (core : CoreId)
  | re (core : CoreId)
  | le (core : CoreId)
  | dma (core : CoreId)
  | xe (die : DieId)
  | sequencer (die : DieId)
  | network
  | chain
  deriving DecidableEq, Repr

/-- An access by its place in its requester's internal order (R219): operand read i (ME: A, B, A2, B2, SCALE, BIAS, RES, AUX; EE: I0
to I3, program, grid word; RE: IN, ROWMASK, COLMASK), output write i, or a DMA channel's access. -/
inductive BankAcc where
  | read (i : Nat)
  | write (i : Nat)
  | channel (c : Fin 16)
  deriving DecidableEq, Repr

/-- An access that is ready at a bank: its requester, its place in that requester's order, and its context. -/
structure BankReq where
  who : Requester
  acc : BankAcc
  ctx : CtxId
  deriving DecidableEq, Repr

/-- One cycle of a bank: its base address, the cycle's number, counted from the bank clock's beat alignment, and every access
that is ready at it, the oldest first (R218 to R224). -/
structure BankCycle where
  bank : Nat
  cycle : Nat
  reqs : List BankReq
  deriving DecidableEq, Repr

/-- What the sending XE's command says of an XE flow, which the cells themselves do not carry (R406 to R410): the source
rank, the row size in lines, the choices per row, for an XSEND flow CAP, ROWS and INDEX of the flow's experts in ascending
order, and for a return flow the index entries of its rows in stream order. -/
structure FlowInfo where
  rank : Nat
  rowLines : Nat
  k : Nat
  experts : List (Nat × Word × Word)
  entries : List Word
  deriving DecidableEq, Repr

/-- A cell at a port (R386): its 80 stored words, what the PHY reported, the arrival in units of 0.5 ns, whether it
came from the port's timing partner (R594), and the sender's transmit frame and slot (R403). -/
structure RxCell where
  words : List (BitVec 80)
  fecOk : Bool
  fcsOk : Bool
  fecCorr : Nat
  arrival : BitVec 33
  partner : Bool
  txFrame : Nat
  txSlot : Nat
  flow : Option FlowInfo
  deriving DecidableEq, Repr

/-- The activity classes that R497 counts. -/
inductive ActClass where
  | product (format : Fin 16)              -- matrix products, by format class
  | element | reduction | layout
  | bank                                   -- bank accesses
  | network | seam                         -- words on the on-die networks and on the Seam
  | hbm | ddr                              -- accesses of the memories
  | cell (port : Fin 8)                    -- cells of a fabric port
  deriving DecidableEq, Repr

/-- For whom an activity took place (R499): a context's own engine operations, its Shade check and third executions, the transfers of
a DMA channel, accesses to a bank for a context, the cells of a context's window, or transit cells. -/
inductive Doer where
  | engine (n : Fin 8)
  | check (n : Fin 8)
  | channel (core : Fin 128) (ch : Fin 16)
  | bank (n : Fin 8)
  | window (n : Fin 8)
  | transit
  deriving DecidableEq, Repr

/-- One activity count of an interval. -/
structure Act where
  cls : ActClass
  doer : Doer
  count : Nat
  deriving DecidableEq, Repr

/-- What an estimate interval closes with (R497, R499, R510): its activity counts, the refreshes of the HBM stacks and of the DDR5
channels at the rates in use, and the hottest junction reading of each die, in 0.125 °C. -/
structure Interval where
  acts : List Act
  refHbm : Nat
  refDdr : Nat
  tj0 : Int
  tj1 : Int
  deriving DecidableEq, Repr

/-- A tag of a partial row: chain, sending stage, pass, row and step number (R203). -/
structure RowTags where
  chain : Nat
  stage : Nat
  pass : Nat
  row : Nat
  step : Nat
  deriving DecidableEq, Repr

/-- A DDR5 channel as training found it (R322). -/
structure DdrFound where
  cap : BitVec 16
  type : BitVec 4
  speed : BitVec 4
  dimms : BitVec 2
  width : BitVec 2
  trained : Bool
  deriving DecidableEq, Repr

/-- A storage medium of the Umber code, as the events number it (R549). -/
inductive Medium where
  | sram | hbm | ddr | seam
  deriving DecidableEq, Repr

/-- A word that errors have struck, as the scrubber meets it (R335, R336): its address, the bits in error as the medium stores the
word, and whether a write was granted to its line between the scrub read and its write-back. -/
structure ScrubHit where
  addr : Nat
  err : BitVec 80
  overwritten : Bool
  deriving DecidableEq, Repr

/-- The subject of a verdict (R482): a command of a context, the plan or the anchor. -/
inductive Subject where
  | command (cause : Nat) (thread cmd : Nat)
  | plan
  | anchor
  deriving DecidableEq, Repr

/-- A reference input (R351). -/
inductive RefFault where
  | missing (b : Bool)
  | deviates (b : Bool)
  | disagree
  deriving DecidableEq, Repr

/-- Where a part of a DCOPY ends: the descriptor in progress, and the bytes of its stream that are written and that are read. -/
structure CopyStop where
  desc : Nat
  written : Nat
  read : Nat
  deriving DecidableEq, Repr

/-- The commands, one constructor per row of spec/opcode_table.json, in its order. -/
inductive Instr where
  | stepStart (ctx : CtxId) (err0 err1 : BitVec 256)
  | anchorThird (ctx : CtxId) (err : BitVec 256)
  | commandIssue (ctx : CtxId) (core : CoreId) (eng : Nat) (slot : Nat)
  | commandComplete (ctx : CtxId) (done : List (Nat × Nat))
  | waitTimeout (ctx : CtxId) (thread : Nat)
  | deadlineMiss (ctx : CtxId)
  | waveRelease (ctx : CtxId) (w : Fin 8)
  | fullRate (ctx : CtxId) (w : Fin 8)
  | join (ctx : CtxId) (thread cmd : Nat)
  | mm (ctx : CtxId) (thread cmd : Nat) (arb : List BankCycle)
  | mmd (ctx : CtxId) (thread cmd : Nat) (arb : List BankCycle)
  | drain (ctx : CtxId) (thread cmd : Nat) (arb : List BankCycle)
  | repeatPass (ctx : CtxId) (thread cmd : Nat)
  | convertPass (ctx : CtxId) (thread cmd : Nat)
  | ep (ctx : CtxId) (thread cmd : Nat) (chunks : Option Nat) (arb : List BankCycle)
  | lxpose (ctx : CtxId) (thread cmd : Nat) (rows : Option Nat) (arb : List BankCycle)
  | lgather (ctx : CtxId) (thread cmd : Nat) (rows : Option Nat) (arb : List BankCycle)
  | lconv (ctx : CtxId) (thread cmd : Nat) (rows : Option Nat) (arb : List BankCycle)
  | lseal (ctx : CtxId) (thread cmd : Nat) (arb : List BankCycle)
  | lctr (ctx : CtxId) (thread cmd : Nat) (arb : List BankCycle)
  | counterSettled (ctx : CtxId) (thread cmd : Nat)
  | rsum (ctx : CtxId) (thread cmd : Nat) (arb : List BankCycle)
  | rssq (ctx : CtxId) (thread cmd : Nat) (arb : List BankCycle)
  | topk (ctx : CtxId) (thread cmd : Nat) (arb : List BankCycle)
  | topkm (ctx : CtxId) (thread cmd : Nat) (arb : List BankCycle)
  | xidx (ctx : CtxId) (thread cmd : Nat) (arb : List BankCycle)
  | cnt (ctx : CtxId) (thread cmd : Nat) (arb : List BankCycle)
  | band (ctx : CtxId) (thread cmd : Nat) (arb : List BankCycle)
  | bor (ctx : CtxId) (thread cmd : Nat) (arb : List BankCycle)
  | bxor (ctx : CtxId) (thread cmd : Nat) (arb : List BankCycle)
  | tapx (ctx : CtxId) (thread cmd : Nat) (arb : List BankCycle)
  | partialRow (ctx : CtxId) (tags : RowTags) (ue : Bool)
  | headerWord (ctx : CtxId) (chain stage : Nat)
  | returnWord (ctx : CtxId) (chain stage : Nat)
  | finalStageCheck (ctx : CtxId) (thread cmd : Nat) (err : BitVec 128) (errS : Int)
  | dcopy (ctx : CtxId) (thread cmd : Nat) (upTo : Option CopyStop) (arb : List BankCycle)
  | dsettle (ctx : CtxId) (thread cmd : Nat)
  | dscat (ctx : CtxId) (thread cmd : Nat) (upTo : Option Nat) (arb : List BankCycle)
  | xsend (ctx : CtxId) (thread cmd : Nat) (arb : List BankCycle)
  | xret (ctx : CtxId) (thread cmd : Nat) (arb : List BankCycle)
  | xblk (ctx : CtxId) (thread cmd : Nat) (arb : List BankCycle)
  | shadeCompare (ctx : CtxId) (thread cmd : Nat) (err : BitVec 128) (errS : Int)
  | mirrorCompare (ctx : CtxId) (thread cmd : Nat) (err : BitVec 128)
  | verdict (ctx : CtxId) (subject : Subject) (third : Option (BitVec 128))
  | condemnationInstant (ctx : CtxId) (err0 err1 : BitVec 256)
  | verdictHorizon (ctx : CtxId)
  | commit (ctx : CtxId) (err0 err1 : BitVec 256)
  | condemnLate (ctx : CtxId) (cause : Nat)
  | seal (ctx : CtxId) (shard : Nat)
  | digestScrubPass (upsets : List (Nat × Byte))
  | frameStart (hbm : List Int) (ddr : List Int) (refA refB : BitVec 16)
  | epochStart
  | stretchRequest (frame : Nat) (lateness : Nat) (cause : BitVec 5)
  | stretchFreeze (frame : Nat)
  | cadenceDecision
  | cadNextFix
  | cadNextDefault
  | enterLocked
  | reparent
  | enterLost
  | rootLost
  | rootTakeover
  | refFault (f : RefFault)
  | ptpMessage (offset : Word) (valid : Bool)
  | alarm
  | resumeEffect (ctx : CtxId)
  | cellSend (port : PortId)
  | cellReceive (port : PortId) (rx : RxCell)
  | resend (port : PortId) (frame slot : Nat)
  | linkFail (port : PortId) (frame slot : Nat)
  | linkUp (port : PortId) (mode : BitVec 2) (delay : Nat)
  | serveLocal (ctx : CtxId) (win : Nat)
  | planCompute (ctx : CtxId) (err0 err1 : BitVec 256) (third : Option (BitVec 256 × Nat))
  | scrubPass (sram : Bool) (hits : List ScrubHit) (arb : List BankCycle)
  | memUe (ctx : CtxId) (reader : Option (Nat × Nat)) (addr : Nat) (err : BitVec 80) (medium : Medium) (die : DieId)
  | ddrCeRate (channel : Fin 16) (corrected : Nat)
  | estimateInterval (r : Interval)
  | droop (island : Fin 16)
  | droopEnd (island : Fin 16) (lost : Nat)
  | droopLong (island : Fin 16) (lost : Nat)
  | vfApply (railsReady : Bool)
  | vfExpired
  | rampDownWave (w : Fin 8) (low : BitVec 2)
  | railExcursion (rail : Fin 12) (uv : Nat)
  | railOutOfWindow (rail : Fin 12) (uv : Nat)
  | sequenceRetry
  | aonSwitch
  | aonReturn
  | aonHoldupExpiry
  | resetN (low : Bool) (held : Nat)
  | powerFailN (low : Bool) (held : Nat)
  | coolantFaultN (low : Bool) (held : Nat)
  | greyEntry (clamps : Bool)
  | greyExit
  | blackEntry
  | watchdog
  | clearDone (bank : Nat)
  | ownershipChange (bank : Nat)
  | resetRelease (refA refB : Option Nat)
  | imageCheck (flashOk : Bool)
  | memoryTrainingDone (hbms : List Bool) (channels : List DdrFound) (absent : List Nat)
  | ready (ms : BitVec 16)
  | bootAnnounce
  | messageTimeEnd (orders : List OrderMsg) (claims : List ClaimMsg)
  | electionWindowEnd
  | claimExpiry (station : StationId)
  | leaseLapse
  | event
  | eventResend
  | rustRecord
  | rustResend
  | rdmaWrite (h1 : Bool) (qp win offset : Nat) (data : List Byte)
  | rdmaRead (h1 : Bool) (qp win offset len : Nat)
  | session (via : Via) (station : StationId) (pk ek sig : List Byte)
  | claim (h : Hdr) (prio : Nat)
  | renew (h : Hdr)
  | handover (h : Hdr) (target : Nat)
  | releaseOwn (h : Hdr)
  | regRead (h : Hdr) (addr : Word)
  | regWrite (a : Access) (addr : Word) (value : Word) (force : Option Word)
  | indNowNs (h : Hdr)
  | mgtCtxMode (a : Access) (ctx : CtxId) (value : Word)
  | meSplit (a : Access) (core : CoreId) (value : Word)
  | meDbgCtrl (a : Access) (core : CoreId) (value : Word)
  | eeSplit (a : Access) (core : CoreId) (value : Word)
  | coreBankOwn (a : Access) (core : CoreId) (bank : Fin 56) (force : Option Word) (value : Word)
  | coreBankForce (a : Access) (core : CoreId) (bank : Fin 56) (value : Word)
  | coreBankRepair (a : Access) (core : CoreId) (bank : Fin 56) (value : Word)
  | dmaChan (a : Access) (core : CoreId) (ch : Fin 16) (value : Word)
  | dmaAbort (a : Access) (core : CoreId) (value : Word)
  | coreIpat (a : Access) (core : CoreId) (e : Fin 4) (h : Fin 2) (value : Word)
  | dsptCtxLim (a : Access) (die : DieId) (ctx : CtxId) (value : Word)
  | dsptDl (a : Access) (die : DieId) (ctx : CtxId) (value : Word)
  | indAlarm (a : Access) (value : Word)
  | pwrVf (a : Access) (value : Word)
  | pwrLimit (a : Access) (value : Word)
  | pwrState (a : Access) (value : Word)
  | sepFloor (a : Access) (value : Word)
  | release (a : Access) (ctx : CtxId) (value : Word)
  | shdCtl (a : Access) (die : DieId) (ctx : CtxId) (seed : Bool) (value : Word)
  | query (h : Hdr)
  | load (h : Hdr) (ctx : CtxId) (win seed first : Nat)
  | transitLoad (h : Hdr) (ctx : CtxId) (win : Nat)
  | start (h : Hdr) (ctx : CtxId) (epoch : Nat) (restore : Bool) (gen : BitVec 32)
  | halt (h : Hdr) (ctx : CtxId)
  | resume (h : Hdr) (ctx : CtxId)
  | unload (h : Hdr) (ctx : CtxId) (err0 err1 : BitVec 256)
  | replay (h : Hdr) (ctx : CtxId)
  | assign (h : Hdr) (ctx : CtxId) (ranges : List (Nat × Nat))
  | privilege (h : Hdr) (ctx : CtxId) (priv : Bool)
  | quarantine (h : Hdr) (core : Nat)
  | window (h : Hdr) (win : Nat) (ctx : CtxId) (base len : Nat) (dir : Bool) (pubCtr : Nat)
  | admitSet (h : Hdr) (ctx : CtxId) (manifest : Nat) (shards : List Nat)
  | restore (h : Hdr) (ctx : CtxId) (shard win : Nat)
  | pubRead (h : Hdr) (win offset len readySeq : Nat)
  | pubRelease (h : Hdr) (win readySeq : Nat)
  | journalRead (h : Hdr) (offset len : Nat)
  | ckptRead (h : Hdr) (ctx : CtxId) (shard win : Nat)
  | rustRead (h : Hdr) (seq : Nat)
  | wake (h : Hdr) (target : Nat) (all : Bool)
  | eventAck (h : Hdr) (seq : Nat)
  | localWake (h : Hdr) (clearSeq : Bool)
  | rustAck (receiver : Nat) (seq : Nat) (digest : List Word)
  | progBegin (h : Hdr)
  | progWrite (h : Hdr) (offset : Nat) (data : List Byte)
  | progEnd (h : Hdr)
  | reboot (h : Hdr)
  | attest (h : Hdr) (nonce : List Byte)
  | certRead (h : Hdr)
  | refreshCommand (medium : Medium) (channel bank : Nat) (hits : List ScrubHit)
  | linkDown (port : PortId)
  | signalDetected (h1 : Bool)
  | dimTransition
  | aonFeedInWindow (backup : Bool)
  | aonBackupOutOfWindow
  | railInWindow (rail : Fin 12) (uv : Nat)
  | discardedDatagram (via : Via) (bytes : List Byte)
  | watchdogRestart
  deriving DecidableEq, Repr

end Sys2Proof
end

