-- ==== Sys2Proof/Config.lean ====
section
/-! DEFINITION. What the spec leaves to the part at hand: keys made at manufacture, the certificate chain, the
cryptographic functions that the spec takes from other standards, and free values. Each is a constant without a body. -/

namespace Sys2Proof.Config

/-- A free value, applied to the state's counter of free values (log entry 8). -/
opaque freeWord : Nat → Word

/-- Does a Falcon-1024 signature verify? Public key, message bytes, signature (R529, R560; log entry 7). -/
opaque falconVerify : List Byte → List Byte → List Byte → Bool

/-- The public key whose SHAKE256-256 is the fused firmware key digest (R558, R560). -/
opaque keyOfDigest : List Word → List Byte

/-- One less than the length of the identity key's signature over a digest (R493, R530, R569: 1 to 1,280 bytes). -/
opaque signLen : List Word → Fin 1280

/-- Byte `i` of the identity key's signature over a digest. -/
opaque signByte : List Word → Nat → Byte

/-- Byte `i` of the ML-KEM-1024 ciphertext for an encapsulation key and a free seed (R529; log entry 7). -/
opaque kemCipher : List Byte → Nat → Nat → Byte

/-- Byte `i` of the shared secret K of that encapsulation. -/
opaque kemSecret : List Byte → Nat → Nat → Byte

/-- Byte `i` of the public key that a certificate of the chain certifies (R568): 0 the device's, 1 the production CA's, 2 the root's. -/
opaque certKeyByte : Fin 3 → Nat → Byte

/-- The serial number of a certificate. -/
opaque certSerial : Fin 3 → Word

/-- One less than the length of a certificate's signature, and its byte `i`. -/
opaque certSigLen : Fin 3 → Fin 1280
opaque certSigByte : Fin 3 → Nat → Byte

/-- The free seed, and the remote key of a host window (R543), for a count. -/
opaque remoteKey : Nat → Word

/-- KIND of the chain of a hop, as a device that holds no entry of the chain has it: by WINDOW, SRC_DEV, DST_DEV, CHAIN_ID, STAGE and
VOLUME of the hop (R397; log entry 25). -/
opaque hopKind : List Nat → Nat

/-- The die, 0 or 1, whose pads carry a fabric port's lanes (R585; log entry 58). -/
opaque portDie : Nat → Fin 2

/-- The nominal weight of an activity class, in 2^−16 µJ per count (R497; log entry 37): the same on every part. -/
opaque nominalWeight : Nat → Nat

/-- The nominal fixed energy of an interval, in 2^−16 µJ, for a cadence level and a power state, refresh at the 1× rate included
(R497, R498). -/
opaque nominalFixed : Nat → Nat → Nat

/-- The share of a class's nominal weight that the core rails deliver (R507), and their fixed energy for a level and a state. -/
opaque coreWeight : Nat → Nat
opaque coreFixed : Nat → Nat → Nat

/-- The weight of an activity class that is fused into the part, in 2^−16 µJ per count (R497). -/
opaque calibWeight : Nat → Nat

/-- The static energy of an interval, in 2^−16 µJ, for the two junction temperatures in 0.125 °C and the set points of V_D1 and V_D0
(R497). -/
opaque staticEnergy : Int → Int → Nat → Nat → Nat

/-- The energy of idle SerDes, Indigo and management in an interval, in 2^−16 µJ, for a cadence level and a power state (R499). -/
opaque idleEnergy : Nat → Nat → Nat

/-- The set point of VDD_SRAM above 0.75 V, in µV (R571 gives its range alone). -/
opaque sramSet : Fin 100001

/-- What a C register above NCONST reads as, by its number (R132 gives it no value; log entry 8). -/
opaque unsetConst : Nat → BitVec 32

/-- The bank, within its channel, of an address of a medium (R318 and R321 leave it open: it affects timing alone; log entry 47). -/
opaque dramBank : Nat → Nat → Nat

/-- The refresh offset in ns of a bank of a channel of a medium (R344): fixed, and given nowhere (log entry 47). -/
opaque refreshOffset : Nat → Nat → Nat → Nat

end Sys2Proof.Config
end

