-- ==== Sys2Proof/Machine/Codes.lean ====
section
/-! DEFINITION. The numeric codes of events (R550), faults (R549), statuses (R551), condemnation causes (R482) and Rust
record kinds (R490). -/

namespace Sys2Proof.Machine

/-! Event codes (R550). -/

abbrev evThreadFault : Nat := 0x01
abbrev evDmaAborted : Nat := 0x02
abbrev evDeadlineMiss : Nat := 0x03
abbrev evRefFault : Nat := 0x04
abbrev evLinkMiscabled : Nat := 0x05
abbrev evTimeLoss : Nat := 0x06
abbrev evLinkFail : Nat := 0x07
abbrev evMemUe : Nat := 0x08
abbrev evDdrCeRate : Nat := 0x09
abbrev evWeightDigest : Nat := 0x0A
abbrev evOwnerChange : Nat := 0x0B
abbrev evCtxState : Nat := 0x0C
abbrev evCtxFault : Nat := 0x0D
abbrev evWeightScrub : Nat := 0x0E
abbrev evShadeVerdict : Nat := 0x0F
abbrev evCoreQuarantined : Nat := 0x10
abbrev evStepCondemned : Nat := 0x11
abbrev evCondemnLate : Nat := 0x12
abbrev evVfOrder : Nat := 0x13
abbrev evDroopLong : Nat := 0x14
abbrev evThermalHot : Nat := 0x15
abbrev evThermalTrip : Nat := 0x16
abbrev evWake : Nat := 0x17
abbrev evPublished : Nat := 0x18
abbrev evEventsDropped : Nat := 0x19

/-! Fault codes (R549). -/

/-- Not a fault: the access waits for a bank that is being cleared (R216). -/
abbrev flWait : Nat := 0x00
abbrev flBankOwner : Nat := 0x01
abbrev flSlabOverrun : Nat := 0x02
abbrev flDescBounds : Nat := 0x03
abbrev flFormatMismatch : Nat := 0x04
abbrev flGridRange : Nat := 0x05
abbrev flExchangeOver : Nat := 0x06
abbrev flDepUnderflow : Nat := 0x07
abbrev flVersionSkew : Nat := 0x08
abbrev flPlanDigest : Nat := 0x09
abbrev flWaitTimeout : Nat := 0x0A
abbrev flCtxResource : Nat := 0x0B
abbrev flWeightDigest : Nat := 0x0C
abbrev flReplayLimit : Nat := 0x0D
abbrev flDataLoss : Nat := 0x0E
abbrev flAnchorUnresolved : Nat := 0x0F

/-! Status codes (R551). -/

abbrev stOk : Nat := 0x00
abbrev stNotOwner : Nat := 0x01
abbrev stStaleSeq : Nat := 0x02
abbrev stNotReady : Nat := 0x03
abbrev stAddressFault : Nat := 0x04
abbrev stCtxBusy : Nat := 0x05
abbrev stPrivLimit : Nat := 0x06
abbrev stCtxResource : Nat := 0x07
abbrev stContractRev : Nat := 0x08
abbrev stSlabOverrun : Nat := 0x09
abbrev stTopologyLimit : Nat := 0x0A
abbrev stWeightDigest : Nat := 0x0B
abbrev stWaitTimeout : Nat := 0x0C
abbrev stStartLate : Nat := 0x0D
abbrev stArtefactBad : Nat := 0x0E
abbrev stCkptBad : Nat := 0x0F
abbrev stThermal : Nat := 0x10
abbrev stUnitSuspect : Nat := 0x11
abbrev stPlanCompute : Nat := 0x12
abbrev stOwned : Nat := 0x13
abbrev stBadMessage : Nat := 0x14
abbrev stFormatMismatch : Nat := 0x15
abbrev stDescBounds : Nat := 0x16
abbrev stPowerState : Nat := 0x17
abbrev stNotHeld : Nat := 0x18

/-! Condemnation causes (R482). -/

abbrev caShadeTile : Nat := 0x01
abbrev caFinalStage : Nat := 0x02
abbrev caUpdate : Nat := 0x03
abbrev caPrivileged : Nat := 0x04
abbrev caMemUe : Nat := 0x05
abbrev caWeightDigest : Nat := 0x06
abbrev caQuarantine : Nat := 0x07
abbrev caRootChange : Nat := 0x08
abbrev caPlanCompute : Nat := 0x09
abbrev caAnchor : Nat := 0x0A
abbrev caReplay : Nat := 0x0B

/-! Rust record kinds (R490). -/

abbrev ruRetired : Nat := 0x10
abbrev ruBankDisabled : Nat := 0x11
abbrev ruTdcStrict : Nat := 0x12
abbrev ruFaultNotRecurred : Nat := 0x13
abbrev ruStrayPartial : Nat := 0x14
abbrev ruTimeLoss : Nat := 0x15
abbrev ruPlanDigestLate : Nat := 0x16
abbrev ruLinkFail : Nat := 0x17
abbrev ruWeightScrub : Nat := 0x18
abbrev ruCondemnLate : Nat := 0x19
abbrev ruWatchdog : Nat := 0x1A
abbrev ruDataLoss : Nat := 0x1B
abbrev ruReplayLimit : Nat := 0x1C
abbrev ruAonSwitch : Nat := 0x1D
abbrev ruSupplyFault : Nat := 0x1E
abbrev ruOwnerQuarantine : Nat := 0x1F

end Sys2Proof.Machine
end

