-- ==== Sys2Proof/Machine/Bits.lean ====
section
/-! DEFINITION. Bit fields, byte order, saturating counts and the list helpers that the meanings share. -/

namespace Sys2Proof.Machine

/-- Bits [hi:lo] of a word, as the spec writes ranges (R11). -/
def fld {w : Nat} (v : BitVec w) (hi lo : Nat) : Nat := (v.toNat >>> lo) % 2 ^ (hi + 1 - lo)

/-- One bit of a word. -/
def bit {w : Nat} (v : BitVec w) (i : Nat) : Bool := v.toNat.testBit i

/-- A field value placed at bit `lo` of a 64-bit word. -/
def put (v lo : Nat) : Word := BitVec.ofNat 64 (v <<< lo)

/-- A flag placed at bit `i` of a 64-bit word. -/
def putB (b : Bool) (i : Nat) : Word := if b then BitVec.ofNat 64 (1 <<< i) else 0

/-- A Nat read as a two's complement number of `w` bits. -/
def sext (w v : Nat) : Int :=
  let u := v % 2 ^ w
  if u < 2 ^ (w - 1) then (u : Int) else (u : Int) - (2 ^ w : Nat)

/-- The low `w` bits of an integer in two's complement. -/
def twos (w : Nat) (x : Int) : Nat := (x % ((2 ^ w : Nat) : Int)).toNat

/-- Add `n` to a count that saturates at its width. -/
def satAdd {w : Nat} (c : BitVec w) (n : Nat) : BitVec w :=
  BitVec.ofNat w (min (c.toNat + n) (2 ^ w - 1))

/-- ceil(a / b); 0 when b is 0. -/
def ceilDiv (a b : Nat) : Nat := (a + b - 1) / b

/-- The least m with 2^m ≥ n. -/
def ceilLog2 (n : Nat) : Nat := if n ≤ 1 then 0 else Nat.log2 (n - 1) + 1

/-- Number of significant bits of a natural number. -/
def bitlenNat (n : Nat) : Nat := if n = 0 then 0 else Nat.log2 n + 1

/-- bitlen of R71: of v for v ≥ 0 and of −v − 1 for v < 0. -/
def bitlen (v : Int) : Nat :=
  match v with
  | .ofNat n => bitlenNat n
  | .negSucc n => bitlenNat n

/-- The little-endian value of a list of bytes. -/
def leNat : List Byte → Nat
  | [] => 0
  | b :: bs => b.toNat + 256 * leNat bs

/-- The `n` little-endian bytes of a value. -/
def leBytes : Nat → Nat → List Byte
  | 0, _ => []
  | n + 1, v => BitVec.ofNat 8 v :: leBytes n (v / 256)

/-- Cut a list into pieces of `k` (fuel: the list's own length). -/
def chunksAux {α : Type} (k : Nat) : Nat → List α → List (List α)
  | 0, _ => []
  | f + 1, l => if l.isEmpty then [] else l.take k :: chunksAux k f (l.drop k)

/-- Cut a list into pieces of `k` elements, the last possibly shorter. -/
def chunks {α : Type} (k : Nat) (l : List α) : List (List α) := chunksAux k l.length l

/-- Bytes as little-endian 64-bit words. -/
def bytesToWords (bs : List Byte) : List Word := (chunks 8 bs).map fun c => BitVec.ofNat 64 (leNat c)

/-- 64-bit words as little-endian bytes. -/
def wordsToBytes (ws : List Word) : List Byte := ws.flatMap fun w => leBytes 8 w.toNat

/-- Word `i` of a list, 0 when absent. -/
def wd (ws : List Word) (i : Nat) : Word := ws.getD i 0

/-- Pad a list of bytes with zeros to `n` bytes. -/
def padTo (n : Nat) (bs : List Byte) : List Byte := bs ++ List.replicate (n - bs.length) 0

/-- Pad a list of bytes with zeros to a multiple of `k`. -/
def padMul (k : Nat) (bs : List Byte) : List Byte := padTo (ceilDiv bs.length k * k) bs

/-- Insertion into a list sorted by a Boolean order (stable: after equals). -/
def insertBy {α : Type} (le : α → α → Bool) (x : α) : List α → List α
  | [] => [x]
  | y :: ys => if le y x then y :: insertBy le x ys else x :: y :: ys

/-- Stable insertion sort (structural, so that the kernel can run it). -/
def sortBy {α : Type} (le : α → α → Bool) (l : List α) : List α :=
  l.foldl (fun acc x => insertBy le x acc) []

/-- Keep the first of each run of equal keys. -/
def dedup {α : Type} [DecidableEq α] : List α → List α
  | [] => []
  | x :: xs => x :: (dedup xs).filter (· ≠ x)

/-- Are the entries of a list pairwise distinct? -/
def distinct {α : Type} [DecidableEq α] : List α → Bool
  | [] => true
  | x :: xs => !xs.contains x && distinct xs

/-- Do all neighbouring pairs satisfy a Boolean relation? -/
def chainB {α : Type} (r : α → α → Bool) : List α → Bool
  | [] => true
  | [_] => true
  | x :: y :: rest => r x y && chainB r (y :: rest)

/-- Do all pairs (earlier, later) satisfy a Boolean relation? -/
def pairsB {α : Type} (r : α → α → Bool) : List α → Bool
  | [] => true
  | x :: xs => xs.all (r x) && pairsB r xs

/-- Set or replace the entry of a key in an association list. -/
def assocSet {κ α : Type} [DecidableEq κ] (k : κ) (v : α) : List (κ × α) → List (κ × α)
  | [] => [(k, v)]
  | (k', v') :: rest => if k' = k then (k, v) :: rest else (k', v') :: assocSet k v rest

/-- The entry of a key in an association list. -/
def assocGet {κ α : Type} [DecidableEq κ] (k : κ) : List (κ × α) → Option α
  | [] => none
  | (k', v) :: rest => if k' = k then some v else assocGet k rest

/-- Apply a function to the first element that satisfies a test. -/
def modFirst {α : Type} (p : α → Bool) (f : α → α) : List α → List α
  | [] => []
  | x :: xs => if p x then f x :: xs else x :: modFirst p f xs

/-- Remove the first element that satisfies a test. -/
def dropFirst {α : Type} (p : α → Bool) : List α → List α
  | [] => []
  | x :: xs => if p x then xs else x :: dropFirst p xs

/-- The least value of a key over a list. -/
def minOver {α : Type} (f : α → Nat) : List α → Option Nat
  | [] => none
  | x :: xs => match minOver f xs with
    | none => some (f x)
    | some m => some (min (f x) m)

/-- The element with the least key, the first of equals. -/
def argMin {α : Type} (lt : α → α → Bool) : List α → Option α
  | [] => none
  | x :: xs => match argMin lt xs with
    | none => some x
    | some y => if lt y x then some y else some x

/-- Update one entry of a vector. -/
def upd {α : Type} {n : Nat} (v : Vector α n) (i : Fin n) (f : α → α) : Vector α n :=
  v.set i.val (f (v[i.val]'i.isLt)) i.isLt

/-- Rotate a 32-bit word left (R161). -/
def rotl32 (v : BitVec 32) (n : Nat) : BitVec 32 := v.rotateLeft n

end Sys2Proof.Machine
end

