-- ==== Sys2Proof/Machine/Keccak.lean ====
section
/-! DEFINITION. SHAKE256 (FIPS 202) and KMAC256 (NIST SP 800-185), which the spec names for every digest and
tag (R25, R413, R437, R450, R529, R530). The spec does not restate the two standards: PRESUMED, log entry 7. -/

namespace Sys2Proof.Machine

/-- One step of the 8-bit feedback register that makes the round constants. -/
def roundReg (r : Nat) : Nat := if r < 128 then 2 * r else (2 * r) ^^^ 0x171

/-- The round constants of `n` rounds, from the register's value at the first of them: a round takes seven bits of the
register, and bit j of the seven stands at lane position 2^j − 1. -/
def roundConsts : Nat → Nat → List Word
  | 0, _ => []
  | n + 1, r =>
    let seven := (List.range 6).foldl (fun l _ => l ++ [roundReg (l.getLastD r)]) [r]
    seven.zipIdx.foldl (fun w (v, j) => w ||| putB (v.testBit 0) (2 ^ j - 1)) 0 :: roundConsts n (roundReg (seven.getLastD r))

/-- The lanes that the rotation walk visits after (x, y), with the total rotation of each; `t` counts the lanes visited. -/
def rotWalk : Nat → Nat → Nat → Nat → List ((Nat × Nat) × Nat)
  | 0, _, _, _ => []
  | n + 1, t, x, y => ((x, y), (t + 1) * (t + 2) / 2 % 64) :: rotWalk n (t + 1) y ((2 * x + 3 * y) % 5)

/-- The rotation of each lane, row by row: lane (0, 0) is not rotated, the walk of the others starts at (1, 0). -/
def rotRows : List (List Nat) :=
  (List.range 5).map fun y => (List.range 5).map fun x => (assocGet (x, y) (rotWalk 24 0 1 0)).getD 0

/-- A row of lanes turned left by `k` lanes. -/
def turnRow (k : Nat) (row : List Word) : List Word := row.drop k ++ row.take k

/-- Lane by lane exclusive or. -/
def xorRow (a b : List Word) : List Word := List.zipWith (· ^^^ ·) a b

/-- The column step: every lane takes the parities of the two columns beside it. -/
def stepTheta (rows : List (List Word)) : List (List Word) :=
  let par := rows.foldl xorRow (List.replicate 5 0)
  rows.map (xorRow (xorRow (turnRow 4 par) ((turnRow 1 par).map (·.rotateLeft 1))))

/-- Each lane rotated, and then the lanes permuted: lane X of row Y comes from row X. -/
def stepRhoPi (rows : List (List Word)) : List (List Word) :=
  let turned := List.zipWith (List.zipWith (·.rotateLeft ·)) rows rotRows
  (List.range 5).map fun y => turned.zipIdx.map fun (row, x) => row.getD ((x + 3 * y) % 5) 0

/-- The row step: each lane with the two lanes after it. -/
def stepChi (row : List Word) : List Word :=
  xorRow row (List.zipWith (fun p q => ~~~p &&& q) (turnRow 1 row) (turnRow 2 row))

/-- One round on five rows of five lanes. -/
def keccakRound (rows : List (List Word)) (rc : Word) : List (List Word) :=
  List.zipWith xorRow ((stepRhoPi (stepTheta rows)).map stepChi) ([rc, 0, 0, 0, 0] :: List.replicate 4 (List.replicate 5 0))

/-- Keccak-f[1600]: 24 rounds. -/
def keccakF (rows : List (List Word)) : List (List Word) := (roundConsts 24 1).foldl keccakRound rows

/-- Take a block of 136 bytes into the state, and permute. -/
def absorb (rows : List (List Word)) (block : List Byte) : List (List Word) :=
  keccakF (List.zipWith xorRow rows (chunks 5 (bytesToWords (padTo 200 block))))

/-- `n` blocks of 136 bytes out of the state, with a permutation between them. -/
def squeeze : Nat → List (List Word) → List Byte
  | 0, _ => []
  | n + 1, rows => (wordsToBytes rows.flatten).take 136 ++ squeeze n (keccakF rows)

/-- The sponge of rate 136 with a domain suffix byte. -/
def sponge (suffix : Byte) (outLen : Nat) (msg : List Byte) : List Byte :=
  let q := 136 - msg.length % 136
  let pad : List Byte :=
    if q = 1 then [suffix ||| 0x80] else suffix :: (List.replicate (q - 2) 0 ++ [0x80])
  let a := (chunks 136 (msg ++ pad)).foldl absorb (List.replicate 5 (List.replicate 5 0))
  (squeeze (ceilDiv outLen 136) a).take outLen

/-- `n` bytes of SHAKE256. -/
def shake256 (n : Nat) (msg : List Byte) : List Byte := sponge 0x1F n msg

/-- SHAKE256-256: 32 bytes, read as a little-endian number (word k of R413 is bytes 8k to 8k + 7). -/
def digest256 (msg : List Byte) : BitVec 256 := BitVec.ofNat 256 (leNat (shake256 32 msg))

/-- The big-endian bytes of a length, without leading zeros, at least one. -/
def encBytes (v : Nat) : List Byte := (leBytes (max 1 (ceilDiv (bitlenNat v) 8)) v).reverse

/-- left_encode of SP 800-185. -/
def leftEncode (v : Nat) : List Byte := BitVec.ofNat 8 (encBytes v).length :: encBytes v

/-- right_encode of SP 800-185. -/
def rightEncode (v : Nat) : List Byte := encBytes v ++ [BitVec.ofNat 8 (encBytes v).length]

/-- encode_string of SP 800-185. -/
def encodeString (s : List Byte) : List Byte := leftEncode (8 * s.length) ++ s

/-- bytepad of SP 800-185 at the rate of KMAC256. -/
def bytepad136 (s : List Byte) : List Byte := padMul 136 (leftEncode 136 ++ s)

/-- KMAC256(K, X, L, S) with L in bits (R530). -/
def kmac256 (key x : List Byte) (bits : Nat) (custom : List Byte) : List Byte :=
  sponge 0x04 (bits / 8)
    (bytepad136 (encodeString [0x4B, 0x4D, 0x41, 0x43] ++ encodeString custom) ++
     bytepad136 (encodeString key) ++ x ++ rightEncode bits)

end Sys2Proof.Machine
end

