-- ==== Sys2Proof/Machine/Formats.lean ====
section
/-! DEFINITION. Number formats: exact values of element encodings (R59 to R63), rounding of exact values to a
format (R86 to R89), element classes (R110) and the tile header (R64, R65, R90). -/

namespace Sys2Proof.Machine

/-- The exact value of an element: ±m·2^e, an infinity or NaN. A zero keeps its sign. -/
inductive Num where
  | nan
  | inf (neg : Bool)
  | fin (neg : Bool) (m : Nat) (e : Int)
  deriving DecidableEq, Repr

/-- +0. -/
def Num.zero : Num := .fin false 0 0

/-- Is it a NaN? -/
def Num.isNan : Num → Bool
  | .nan => true
  | _ => false

/-- Is it an infinity? -/
def Num.isInf : Num → Bool
  | .inf _ => true
  | _ => false

/-- Is it a zero of either sign? -/
def Num.isZero : Num → Bool
  | .fin _ 0 _ => true
  | _ => false

/-- The sign bit of a value; false for NaN. -/
def Num.neg : Num → Bool
  | .nan => false
  | .inf n => n
  | .fin n _ _ => n

/-- Element width in bits of a format code (R59); 0 for a reserved code. -/
def fmtBits (code : Nat) : Nat :=
  match code with
  | 0x1 => 4 | 0x3 => 8 | 0x4 => 8 | 0x5 => 8 | 0x6 => 8 | 0x7 => 4 | 0x8 => 16 | 0x9 => 16 | 0xA => 32 | 0xB => 128
  | _ => 0

/-- Is the code one of R59 and not reserved (R60)? -/
def fmtValid (code : Nat) : Bool := fmtBits code != 0

/-- An MX format (R62). -/
def fmtMX (code : Nat) : Bool := code == 0x1 || code == 0x5

/-- An integer format (R107). -/
def fmtInt (code : Nat) : Bool := code == 0x6 || code == 0x7

/-- Exponent and mantissa widths of a floating format's element (R61). -/
def fmtEM (code : Nat) : Nat × Nat :=
  match code with
  | 0x1 => (2, 1) | 0x3 => (4, 3) | 0x4 => (5, 2) | 0x5 => (4, 3) | 0x8 => (8, 7) | 0x9 => (5, 10)
  | _ => (8, 23)

/-- The largest finite magnitude encoding of a floating format's element (R61). -/
def fmtMaxRaw (code : Nat) : Nat :=
  match code with
  | 0x1 => 7 | 0x3 => 0x7E | 0x5 => 0x7E | 0x4 => 0x7B
  | _ => let (eb, mb) := fmtEM code; ((2 ^ eb - 1) <<< mb) - 1

/-- Does the format have infinities (R61)? -/
def fmtHasInf (code : Nat) : Bool := code == 0x4 || code == 0x8 || code == 0x9 || code == 0xA

/-- The exact value of one element encoding (R61), before any block scale. -/
def decodeElem (code raw : Nat) : Num :=
  if fmtInt code then
    let v := sext (fmtBits code) raw
    .fin (decide (v < 0)) v.natAbs 0
  else
    let (eb, mb) := fmtEM code
    let neg := (raw >>> (eb + mb)) % 2 == 1
    let E := (raw >>> mb) % 2 ^ eb
    let M := raw % 2 ^ mb
    let bias : Int := 2 ^ (eb - 1) - 1
    if fmtHasInf code && E == 2 ^ eb - 1 then (if M = 0 then .inf neg else .nan)
    else if (code == 0x3 || code == 0x5) && raw % 128 == 127 then .nan
    else if E = 0 then .fin neg M (1 - bias - mb)
    else .fin neg (2 ^ mb + M) ((E : Int) - bias - mb)

/-- Apply an E8M0 block scale byte (R62). -/
def scaleMX (x : Nat) (v : Num) : Num :=
  if x = 0xFF then .nan else
  match v with
  | .fin n m e => .fin n m (e + ((x : Int) - 127))
  | v => v

/-- Round a/b to an integer, ties to even; 0 when b is 0. -/
def rneDiv (a b : Nat) : Nat :=
  let q := a / b
  let r := a % b
  if 2 * r < b then q else if 2 * r > b then q + 1 else if b = 0 then 0 else if q % 2 = 0 then q else q + 1

/-- Round (n/d)·2^x to an integer, ties to even. -/
def rneScaled (n d : Nat) (x : Int) : Nat :=
  match x with
  | .ofNat k => rneDiv (n <<< k) d
  | .negSucc k => rneDiv n (d <<< (k + 1))

/-- floor(log2 (n/d)) for n, d > 0. -/
def flog2 (n d : Nat) : Int :=
  let l : Int := (Nat.log2 n : Int) - Nat.log2 d
  let ge : Bool := match l with
    | .ofNat k => decide (d <<< k ≤ n)
    | .negSucc k => decide (d ≤ n <<< (k + 1))
  if ge then l else l - 1

/-- The magnitude encoding of (n/d)·2^e in a floating element format by round-to-nearest-even, with no
overflow limit applied (R86). -/
def roundMag (code n d : Nat) (e : Int) : Nat :=
  if n = 0 then 0 else
  let (eb, mb) := fmtEM code
  let bias : Int := 2 ^ (eb - 1) - 1
  let qmin : Int := 1 - bias - mb
  let qe := max (flog2 n d + e - mb) qmin
  let k := rneScaled n d (e - qe)
  (qe - qmin).toNat * 2 ^ mb + k

/-- The sign bit of a floating element encoding. -/
def signRaw (code : Nat) (neg : Bool) : Nat :=
  let (eb, mb) := fmtEM code
  if neg then 2 ^ (eb + mb) else 0

/-- An element written by a conversion: its encoding, whether it saturated, whether a finite value overflowed
to infinity, and what a flagged element stands for (R87, R89, R90). -/
structure OutElem where
  raw : Nat
  sat : Bool := false
  ovf : Bool := false
  sNan : Bool := false
  sPos : Bool := false
  sNeg : Bool := false
  deriving DecidableEq, Repr

/-- The canonical NaN, +infinity and −infinity patterns of R89 for a format without block scale. -/
def nanRaw (code : Nat) : Nat :=
  match code with
  | 0xA => 0x7FC00000 | 0x8 => 0x7FC0 | 0x9 => 0x7E00 | 0x4 => 0x7F | 0x3 => 0x7F | 0x6 => 0x80 | 0x7 => 0x8
  | _ => 0

/-- The infinity patterns of R89 (and of R172 for INT4). -/
def infRaw (code : Nat) (neg : Bool) : Nat :=
  match code with
  | 0xA => if neg then 0xFF800000 else 0x7F800000
  | 0x8 => if neg then 0xFF80 else 0x7F80
  | 0x9 => if neg then 0xFC00 else 0x7C00
  | 0x4 => if neg then 0xFC else 0x7C
  | 0x3 => 0x7F
  | 0x6 => if neg then 0x80 else 0x7F
  | 0x7 => if neg then 0x8 else 0x7
  | _ => 0

/-- Convert an exact value ±(n/d)·2^e to a format other than MX and grid pair (R86, R87; INT4 by R172). -/
def encodeRat (code : Nat) (neg : Bool) (n d : Nat) (e : Int) : OutElem :=
  if fmtInt code then
    let w := fmtBits code
    let k := rneScaled n d e
    let lim := if neg then 2 ^ (w - 1) else 2 ^ (w - 1) - 1
    let v := min k lim
    { raw := if neg then twos w (-(v : Int)) else v, sat := decide (lim < k) }
  else
    let r := roundMag code n d e
    let sg := signRaw code neg
    if r ≤ fmtMaxRaw code then { raw := sg + r }
    else if fmtHasInf code && code != 0x4 then { raw := infRaw code neg, ovf := true }
    else { raw := sg + fmtMaxRaw code, sat := true }

/-- Convert a value to a format other than MX and grid pair (R86, R87, R89). -/
def encodeNum (code : Nat) (v : Num) : OutElem :=
  match v with
  | .nan => { raw := nanRaw code, sNan := true }
  | .inf neg => { raw := infRaw code neg, sPos := !neg, sNeg := neg }
  | .fin neg m e => encodeRat code neg m 1 e

/-- floor(log2 |v|) of a finite nonzero value. -/
def numExp (v : Num) : Option Int :=
  match v with
  | .fin _ m e => if m = 0 then none else some ((Nat.log2 m : Int) + e)
  | _ => none

/-- The largest of two optional exponents. -/
def maxExpO (a b : Option Int) : Option Int :=
  match a, b with
  | none, b => b
  | a, none => a
  | some x, some y => some (max x y)

/-- Convert one block of at most 32 values to an MX format: its scale byte and its elements (R88, R89). -/
def encodeBlock (code : Nat) (vs : List Num) : Nat × List OutElem :=
  if vs.any (fun v => v.isNan || v.isInf) then
    (0xFF, vs.map fun v => match v with
      | .nan => { raw := 0, sNan := true }
      | .inf neg => { raw := 0, sPos := !neg, sNeg := neg }
      | .fin _ _ _ => { raw := 0 })
  else
    let emax : Int := if code == 0x1 then 2 else 8
    let x : Nat := match vs.foldl (fun a v => maxExpO a (numExp v)) none with
      | none => 0
      | some l => (min (max (l - emax + 127) 0) 254).toNat
    (x, vs.map fun v => match v with
      | .fin neg m e => encodeRat code neg m 1 (e - ((x : Int) - 127))
      | _ => { raw := 0 })

/-- Convert a row to a format other than the grid pair: the elements and, for MX, the scale bytes. -/
def encodeRow (code : Nat) (vs : List Num) : List OutElem × List Nat :=
  if fmtMX code then
    let bs := (chunks 32 vs).map (encodeBlock code)
    (bs.flatMap (·.2), bs.map (·.1))
  else (vs.map (encodeNum code), [])

/-- Pack element encodings of `bits` each into the bytes of a row (R63). -/
def packRow (bits : Nat) (raws : List Nat) : List Byte :=
  if bits = 4 then (chunks 2 raws).map fun p => BitVec.ofNat 8 (p.getD 0 0 % 16 + 16 * (p.getD 1 0 % 16))
  else raws.flatMap fun r => leBytes (bits / 8) r

/-- The bytes that a row of `n` elements takes (R63). -/
def rowBytes (code n : Nat) : Nat := ceilDiv (n * fmtBits code) 8

/-- The element encodings of a row's bytes (R63). -/
def unpackRow (bits n : Nat) (bs : List Byte) : List Nat :=
  if bits = 4 then ((bs.flatMap fun (b : Byte) => [b.toNat % 16, b.toNat / 16]) ++ List.replicate n 0).take n
  else ((chunks (bits / 8) bs).map leNat ++ List.replicate n 0).take n

/-- The values of a row: encodings with the block scales of an MX row (R61, R62). -/
def decodeRow (code : Nat) (raws scales : List Nat) : List Num :=
  if fmtMX code then raws.zipIdx.map fun (r, i) => scaleMX (scales.getD (i / 32) 0) (decodeElem code r)
  else raws.map (decodeElem code)

/-- The operand class of one element (R110, R192): 0 zero, 1 subnormal, 2 normal, 3 largest finite, 4 +inf,
5 −inf, 6 NaN. -/
def classOf (code raw scale : Nat) : Nat :=
  let v := if fmtMX code then scaleMX scale (decodeElem code raw) else decodeElem code raw
  match v with
  | .nan => 6
  | .inf neg => if neg then 5 else 4
  | .fin _ m _ =>
    if m = 0 then 0
    else if fmtInt code then
      (if raw == 2 ^ (fmtBits code - 1) - 1 || raw == 2 ^ (fmtBits code - 1) then 3 else 2)
    else
      let (eb, mb) := fmtEM code
      let mag := raw % 2 ^ (eb + mb)
      if mag < 2 ^ mb then 1 else if mag = fmtMaxRaw code then 3 else 2

/-- The fields of a tile header (R64). -/
structure TileHdr where
  format : Nat
  rows : Nat
  cols : Nat
  maxexp : Option Int      -- none stands for 0x8000
  hasNan : Bool := false
  hasPos : Bool := false
  hasNeg : Bool := false
  hasSub : Bool := false
  allZero : Bool := false
  sat : Bool := false
  repeated : Bool := false
  sealed : Bool := false
  rev : Nat := 1
  stride : Nat := 0
  scaleOff : Nat := 0
  srcS : Int := 0
  scaleStride : Nat := 0
  reserved : Bool := true   -- every reserved field is 0
  deriving DecidableEq, Repr

/-- The eight words of a tile header (R64). -/
def TileHdr.words (h : TileHdr) : List Word :=
  let me := match h.maxexp with | none => 0x8000 | some x => twos 16 x
  [put h.format 56 ||| put h.rows 48 ||| put h.cols 32 ||| put me 16 ||| putB h.hasNan 15 ||| putB h.hasPos 14
     ||| putB h.hasNeg 13 ||| putB h.hasSub 12 ||| putB h.allZero 11 ||| putB h.sat 10 ||| putB h.repeated 9
     ||| putB h.sealed 8 ||| put h.rev 0,
   put h.stride 32 ||| put h.scaleOff 0, put (twos 16 h.srcS) 48 ||| put h.scaleStride 0, 0, 0, 0, 0, 0]

/-- The 64 bytes of a header line. -/
def TileHdr.bytes (h : TileHdr) : List Byte := wordsToBytes h.words

/-- The header that eight words hold (R64). -/
def TileHdr.ofWords (ws : List Word) : TileHdr :=
  let w0 := wd ws 0; let w1 := wd ws 1; let w2 := wd ws 2
  let me := fld w0 31 16
  { format := fld w0 59 56, rows := fld w0 55 48, cols := fld w0 47 32,
    maxexp := if me = 0x8000 then none else some (sext 16 me),
    hasNan := bit w0 15, hasPos := bit w0 14, hasNeg := bit w0 13, hasSub := bit w0 12, allZero := bit w0 11,
    sat := bit w0 10, repeated := bit w0 9, sealed := bit w0 8, rev := fld w0 7 0,
    stride := fld w1 63 32, scaleOff := fld w1 31 0, srcS := sext 16 (fld w2 63 48), scaleStride := fld w2 31 0,
    reserved := fld w0 63 60 == 0 && fld w2 47 32 == 0 && (ws.drop 3).all (· == 0) }

/-- What a header says of the magnitudes of a tile: MAXEXP and the class bits. -/
structure TileStats where
  maxexp : Option Int := none
  hasNan : Bool := false
  hasPos : Bool := false
  hasNeg : Bool := false
  hasSub : Bool := false
  deriving DecidableEq, Repr

/-- Combine the statistics of two parts. -/
def TileStats.join (a b : TileStats) : TileStats :=
  { maxexp := maxExpO a.maxexp b.maxexp, hasNan := a.hasNan || b.hasNan, hasPos := a.hasPos || b.hasPos,
    hasNeg := a.hasNeg || b.hasNeg, hasSub := a.hasSub || b.hasSub }

/-- The statistics of one stored element (R65), with what a flagged element stands for (R90). DEDUCED (log entry 60): an INT4 element
written for a NaN or an infinity takes no part in MAXEXP and ALL_ZERO, as R90 says of INT8 (R172). -/
def elemStats (code scale : Nat) (o : OutElem) : TileStats :=
  let special := o.sNan || o.sPos || o.sNeg
  let v := if fmtMX code then scaleMX scale (decodeElem code o.raw) else decodeElem code o.raw
  { maxexp := if special && fmtInt code then none else numExp v,
    hasNan := o.sNan || v.isNan, hasPos := o.sPos || v == .inf false, hasNeg := o.sNeg || v == .inf true,
    hasSub := classOf code o.raw scale == 1 }

/-- The statistics of a row of stored elements. -/
def rowStats (code : Nat) (os : List OutElem) (scales : List Nat) : TileStats :=
  os.zipIdx.foldl (fun a (o, i) => a.join (elemStats code (scales.getD (i / 32) 0) o)) {}

/-- The length of a row in whole lines (R591). -/
def rowLines (code cols : Nat) : Nat := ceilDiv (rowBytes code cols) 64

/-- The scale row pitch in bytes that the engines write (R591). -/
def scaleStrideOf (cols : Nat) : Nat := 64 * ceilDiv (ceilDiv cols 32) 64

/-- A header written by an engine for an output of pitch `p` lines (R90, R591). -/
def mkHdr (code rows cols p : Nat) (st : TileStats) (sat rep : Bool) (s : Int) : TileHdr :=
  { format := code, rows := rows, cols := cols, maxexp := st.maxexp, hasNan := st.hasNan, hasPos := st.hasPos,
    hasNeg := st.hasNeg, hasSub := st.hasSub, allZero := st.maxexp.isNone, sat := sat, repeated := rep,
    sealed := true, stride := 64 * p, srcS := s,
    scaleOff := if fmtMX code then 64 * (1 + rows * p) else 0,
    scaleStride := if fmtMX code then scaleStrideOf cols else 0 }

/-- The checks of R67 on a header against format, rows and columns. -/
def TileHdr.ok (h : TileHdr) (code rows cols : Nat) : Bool :=
  h.format == code && h.rows == rows && h.cols == cols && h.rev == 1 && h.reserved
    && h.stride % 64 == 0 && decide (rowBytes code cols ≤ h.stride)
    && (if fmtMX code then
          h.scaleOff % 64 == 0 && h.scaleStride % 64 == 0 && decide (64 ≤ h.scaleOff)
            && decide (ceilDiv cols 32 ≤ h.scaleStride)
        else h.scaleOff == 0 && h.scaleStride == 0)

end Sys2Proof.Machine
end

