-- ==== Sys2Proof/Machine/Funcs.lean ====
section
/-! DEFINITION. The correctly rounded functions of R152 and R153, computed by outward-rounded dyadic intervals that
are narrowed until both ends round to one encoding. -/

namespace Sys2Proof.Machine

/-- A closed interval [lo, hi]·2^e that encloses an exact value. -/
structure Ival where
  lo : Int
  hi : Int
  e : Int
  deriving DecidableEq, Repr

/-- Floor of x / 2^k. -/
def shrFloor (x : Int) (k : Nat) : Int := x.shiftRight k

/-- Ceiling of x / 2^k. -/
def shrCeil (x : Int) (k : Nat) : Int := -((-x).shiftRight k)

/-- Keep at most p significant bits, rounding outward. -/
def Ival.norm (p : Nat) (a : Ival) : Ival :=
  let b := max (bitlenNat a.lo.natAbs) (bitlenNat a.hi.natAbs)
  if b ≤ p then a else
  { lo := shrFloor a.lo (b - p), hi := shrCeil a.hi (b - p), e := a.e + ((b - p : Nat) : Int) }

/-- The point interval of n·2^e. -/
def Ival.pt (n e : Int) : Ival := { lo := n, hi := n, e := e }

/-- Bring an interval to a lower exponent. -/
def Ival.lower (a : Ival) (e : Int) : Ival :=
  let k := (a.e - e).toNat
  { lo := a.lo * (2 ^ k : Nat), hi := a.hi * (2 ^ k : Nat), e := a.e - k }

/-- Sum. -/
def Ival.add (p : Nat) (a b : Ival) : Ival :=
  let e := min a.e b.e
  let a := a.lower e
  let b := b.lower e
  Ival.norm p { lo := a.lo + b.lo, hi := a.hi + b.hi, e := e }

/-- Opposite. -/
def Ival.opp (a : Ival) : Ival := { lo := -a.hi, hi := -a.lo, e := a.e }

/-- Product. -/
def Ival.mul (p : Nat) (a b : Ival) : Ival :=
  let x := a.lo * b.lo
  let y := a.lo * b.hi
  let z := a.hi * b.lo
  let w := a.hi * b.hi
  Ival.norm p { lo := min (min x y) (min z w), hi := max (max x y) (max z w), e := a.e + b.e }

/-- Quotient by a positive interval. -/
def Ival.div (p : Nat) (a b : Ival) : Ival :=
  let k := p + bitlenNat b.hi.natAbs
  let up (x d : Int) : Int := -(Int.fdiv (-x) d)
  let dn (x d : Int) : Int := Int.fdiv x d
  let lo := a.lo * (2 ^ k : Nat)
  let hi := a.hi * (2 ^ k : Nat)
  Ival.norm p { lo := if lo < 0 then dn lo b.lo else dn lo b.hi, hi := if hi < 0 then up hi b.hi else up hi b.lo,
                e := a.e - b.e - k }

/-- Quotient by a natural number. -/
def Ival.divN (p : Nat) (a : Ival) (n : Nat) : Ival := a.div p (Ival.pt n 0)

/-- Widen by [-2^q, 2^q]. -/
def Ival.widen (p : Nat) (a : Ival) (q : Int) : Ival := a.add p { lo := -1, hi := 1, e := q }

/-- Integer square root, bit by bit from bit `b` down. -/
def isqrtAux (x : Nat) : Nat → Nat → Nat
  | 0, r => r
  | b + 1, r => let c := r + 2 ^ b; isqrtAux x b (if c * c ≤ x then c else r)

/-- floor(√x). -/
def isqrt (x : Nat) : Nat := isqrtAux x (bitlenNat x / 2 + 1) 0

/-- Square root of a non-negative interval. -/
def Ival.sqrt (p : Nat) (a : Ival) : Ival :=
  let k0 := 2 * p
  let k := if (a.e - k0) % 2 = 0 then k0 else k0 + 1
  let lo := a.lo.toNat <<< k
  let hi := a.hi.toNat <<< k
  let rl := isqrt lo
  let rh := isqrt hi
  Ival.norm (2 * p) { lo := rl, hi := if rh * rh = hi then rh else rh + 1, e := (a.e - k) / 2 }

/-- An upper bound on the exponent of the largest magnitude. -/
def Ival.top (a : Ival) : Int := (max (bitlenNat a.lo.natAbs) (bitlenNat a.hi.natAbs) : Nat) + a.e

/-- Sum of a series whose term n + 1 is term n times `num` over `den n`, cut when a term is below 2^-q, with the
remainder bounded by the last term (every use has ratio at most 1/2 there). -/
def seriesAux (p : Nat) (q : Int) (num : Ival) (den : Nat → Nat) : Nat → Nat → Ival → Ival → Ival
  | 0, _, t, acc => (acc.add p t).widen p (t.top + 64)
  | f + 1, n, t, acc =>
    if t.top < -q && decide (num.top + 2 ≤ (bitlenNat (den n) : Int)) then acc.widen p (t.top + 1)
    else seriesAux p q num den f (n + 1) ((t.mul p num).divN p (den n)) (acc.add p t)

/-- exp of an interval inside [-1, 1]. -/
def expSmall (p : Nat) (r : Ival) : Ival :=
  seriesAux p p r (fun n => n + 1) (4 * p) 0 (Ival.pt 1 0) (Ival.pt 0 0)

/-- 2·atanh(t) for an interval inside [-1/3, 1/3], relative to t: t·Σ t^2n/(2n+1). -/
def atanhAux (p : Nat) (t2 : Ival) : Nat → Nat → Ival → Ival → Ival
  | 0, _, pw, acc => acc.widen p (pw.top + 64)
  | f + 1, n, pw, acc =>
    if pw.top < -(p : Int) then acc.widen p (pw.top + 1)
    else atanhAux p t2 f (n + 1) (pw.mul p t2) (acc.add p (pw.divN p (2 * n + 1)))

/-- 2·atanh(t). -/
def atanh2 (p : Nat) (t : Ival) : Ival :=
  ((t.mul p (atanhAux p (t.mul p t) (2 * p) 0 (Ival.pt 1 0) (Ival.pt 0 0))).mul p (Ival.pt 2 0))

/-- ln 2. -/
def ln2I (p : Nat) : Ival := atanh2 p ((Ival.pt 1 0).divN p 3)

/-- atan(1/k) as an alternating series. -/
def atanInvAux (p : Nat) (t2 : Ival) : Nat → Nat → Ival → Ival → Ival
  | 0, _, pw, acc => acc.widen p (pw.top + 64)
  | f + 1, n, pw, acc =>
    if pw.top < -(p : Int) then acc.widen p (pw.top + 1)
    else atanInvAux p t2 f (n + 1) (pw.mul p t2).opp (acc.add p (pw.divN p (2 * n + 1)))

/-- atan(1/k). -/
def atanInv (p k : Nat) : Ival :=
  let t := (Ival.pt 1 0).divN p k
  t.mul p (atanInvAux p (t.mul p t) (2 * p) 0 (Ival.pt 1 0) (Ival.pt 0 0))

/-- π by Machin's formula. -/
def piI (p : Nat) : Ival := ((atanInv p 5).mul p (Ival.pt 16 0)).add p ((atanInv p 239).mul p (Ival.pt (-4) 0))

/-- exp of a dyadic number n·2^e of magnitude at most 512. -/
def expI (p : Nat) (n e : Int) : Ival :=
  let x16 : Int := match e + 16 with
    | .ofNat k => n * (2 ^ k : Nat)
    | .negSucc k => shrFloor n (k + 1)
  let k := Int.fdiv (x16 + 22713) 45426
  let r := (Ival.pt n e).add (p + 16) (((ln2I (p + 16)).mul (p + 16) (Ival.pt k 0)).opp)
  let v := expSmall p (r.norm p)
  { v with e := v.e + k }

/-- ln of m·2^e for m > 0. -/
def lnI (p : Nat) (m : Nat) (e : Int) : Ival :=
  -- m·2^e = c·2^j with c in [2/3, 4/3]
  let b := bitlenNat m
  let j : Int := if 3 * m < 2 ^ (b + 1) then (b : Int) - 1 + e else b + e
  let c := Ival.pt m (e - j)
  let one := Ival.pt 1 0
  let q := p + 32
  let t := (c.add (q + b) one.opp).div q (c.add (q + b) one)
  let a := atanh2 q t
  if j = 0 then a.norm p else (a.add p ((ln2I q).mul q (Ival.pt j 0)))

/-- ln(1 + E) for an interval E inside [0, 1]. -/
def ln1pI (p : Nat) (x : Ival) : Ival := atanh2 p (x.div p (x.add p (Ival.pt 2 0)))

/-- x·Σ Π y/(2k+1), the series of R152's erf and Φ without cancellation. -/
def oddSeries (p : Nat) (x y : Ival) : Ival :=
  seriesAux p (p + 16) y (fun n => 2 * n + 3) (4 * p + 2048) 0 x (Ival.pt 0 0)

/-- φ(x) = e^(−x²/2)/√(2π) for x = n·2^e. -/
def phiI (p : Nat) (n e : Int) : Ival :=
  (expI p (-(n * n)) (2 * e - 1)).div p ((piI p).mul p (Ival.pt 2 0) |>.sqrt p)

/-- Φ(x) = 1/2 + φ(x)·Σ for x = n·2^e. -/
def capPhiI (p : Nat) (n e : Int) : Ival :=
  let x := Ival.pt n e
  (Ival.pt 1 (-1)).add p ((phiI p n e).mul p (oddSeries p x (x.mul p x)))

/-- erf(x) = (2/√π)·e^(−x²)·Σ for x = n·2^e. -/
def erfI (p : Nat) (n e : Int) : Ival :=
  let x := Ival.pt n e
  let y := (x.mul p x).mul p (Ival.pt 2 0)
  (((expI p (-(n * n)) (2 * e)).mul p (oddSeries p x y)).mul p (Ival.pt 2 0)).div p ((piI p).sqrt p)

/-- The function codes of R145 and R114. -/
inductive Fn where
  | exp | exp2 | log | log2 | sqrt | rsqrt | rcp | sigm | tanh | erf | gelu | softp | dgelu | dsigm | dtanh
  deriving DecidableEq, Repr

/-- e^(−|x|) for |x| = m·2^e. -/
def expNegAbs (p m : Nat) (e : Int) : Ival := expI p (-(m : Int)) e

/-- An enclosure of f(x) at a finite nonzero x = ±m·2^e inside the range that the shortcuts leave. -/
def Fn.enclose (f : Fn) (p : Nat) (neg : Bool) (m : Nat) (e : Int) : Ival :=
  let n : Int := if neg then -(m : Int) else m
  let one := Ival.pt 1 0
  match f with
  | .exp => expI p n e
  | .exp2 =>
    -- x = k + r, 2^x = 2^k · e^(r ln 2)
    let k : Int := match e with
      | .ofNat j => n * (2 ^ j : Nat)
      | .negSucc j => shrFloor n (j + 1)
    let r := (Ival.pt n e).add (p + 64) (Ival.pt (-k) 0)
    let v := expSmall p ((r.mul p (ln2I p)))
    { v with e := v.e + k }
  | .log => lnI p m e
  | .log2 => (lnI p m e).div p (ln2I p)
  | .sqrt => (Ival.pt m e).sqrt p
  | .rsqrt => one.div p ((Ival.pt m e).sqrt p)
  | .rcp => one.div p (Ival.pt m e)
  | .sigm =>
    let q := one.add p (expNegAbs p m e)
    if neg then (expNegAbs p m e).div p q else one.div p q
  | .tanh =>
    let e2 := expI p (-(m : Int)) (e + 1)
    let t := (one.add p e2.opp).div p (one.add p e2)
    if neg then t.opp else t
  | .erf => erfI p n e
  | .gelu => (Ival.pt n e).mul p (capPhiI p n e)
  | .softp => let l := ln1pI p (expNegAbs p m e); if neg then l else (Ival.pt m e).add p l
  | .dgelu => (capPhiI p n e).add p ((Ival.pt n e).mul p (phiI p n e))
  | .dsigm =>
    let x := expNegAbs p m e
    let q := one.add p x
    x.div p (q.mul p q)
  | .dtanh =>
    let e2 := expI p (-(m : Int)) (e + 1)
    let q2 := one.add p e2
    (e2.mul p (Ival.pt 4 0)).div p (q2.mul p q2)

/-- The encoding that one end of an enclosure rounds to. -/
def roundEnd (code : Nat) (n e : Int) : OutElem := encodeRat code (decide (n < 0)) n.natAbs 1 e

/-- The common rounding of both ends, if they agree in sign and encoding. -/
def Ival.round (code : Nat) (a : Ival) : Option OutElem :=
  if (decide (a.lo < 0)) != (decide (a.hi < 0)) || (a.lo == 0) != (a.hi == 0) then none
  else
    let x := roundEnd code a.lo a.e
    if x = roundEnd code a.hi a.e then some x else none

/-- Try increasing precisions until the enclosure rounds to one encoding (R152). The last resort is the low end: no
input reaches it, because no exact value outside the exact cases is a rounding boundary. -/
def roundFn (code : Nat) (f : Fn) (neg : Bool) (m : Nat) (e : Int) : List Nat → OutElem
  | [] => let a := f.enclose 4096 neg m e; roundEnd code a.lo a.e
  | p :: ps => match (f.enclose p neg m e).round code with
    | some r => r
    | none => roundFn code f neg m e ps

/-- The result of a function: an encoding, with the exception flags of R151. -/
structure FnOut where
  raw : Nat
  invalid : Bool := false
  divzero : Bool := false
  overflow : Bool := false
  deriving DecidableEq, Repr

/-- 1 in a format. -/
def oneRaw (code : Nat) : Nat := (encodeRat code false 1 1 0).raw

/-- A zero of a sign in a format. -/
def zeroRaw (code : Nat) (neg : Bool) : Nat := signRaw code neg

/-- The special inputs of R153: the result for an infinity, a zero or a negative argument outside the domain. -/
def Fn.special (f : Fn) (code : Nat) (x : Num) : Option FnOut :=
  let nan : FnOut := { raw := nanRaw code }
  let bad : FnOut := { raw := nanRaw code, invalid := true }
  let val (neg : Bool) (n : Nat) (e : Int) : FnOut := { raw := (encodeRat code neg n 1 e).raw }
  let zero (neg : Bool) : FnOut := { raw := zeroRaw code neg }
  let infv (neg : Bool) : FnOut := { raw := infRaw code neg }
  match x with
  | .nan => some nan
  | .inf neg => match f with
    | .exp | .exp2 | .softp => some (if neg then zero false else infv false)
    | .log | .log2 | .sqrt => some (if neg then bad else infv false)
    | .rsqrt => some (if neg then bad else zero false)
    | .rcp => some (zero neg)
    | .sigm | .dgelu => some (if neg then zero false else val false 1 0)
    | .tanh | .erf => some (val neg 1 0)
    | .gelu => some (if neg then zero true else infv false)
    | .dsigm | .dtanh => some (zero false)
  | .fin neg m _ =>
    if m = 0 then match f with
      | .exp | .exp2 | .dtanh => some (val false 1 0)
      | .log | .log2 => some { raw := infRaw code true, divzero := true }
      | .sqrt | .tanh | .erf | .gelu => some (zero neg)
      | .rsqrt | .rcp => some { raw := infRaw code neg, divzero := true }
      | .sigm | .dgelu => some (val false 1 (-1))
      | .dsigm => some (val false 1 (-2))
      | .softp => some { raw := ((ln2I 128).round code).elim 0 (·.raw) }
    else if neg then match f with
      | .log | .log2 | .sqrt | .rsqrt => some bad
      | _ => none
    else none

/-- Is |x| = m·2^e at least 2^k? -/
def atLeast (m : Nat) (e : Int) (k : Int) : Bool := decide (k < (bitlenNat m : Int) + e)

/-- The values of finite nonzero arguments that are known without an enclosure: exact values, and results that the
format's range or its rounding decides for large |x|. -/
def Fn.short (f : Fn) (code : Nat) (neg : Bool) (m : Nat) (e : Int) : Option OutElem :=
  let big := atLeast m e 8           -- |x| ≥ 256
  let mid := atLeast m e 4           -- |x| ≥ 16
  let self := encodeRat code neg m 1 e
  let one := encodeRat code neg 1 1 0
  let tiny (n : Bool) : OutElem := { raw := zeroRaw code n }
  match f with
  | .exp => if big then some (if neg then tiny false else encodeRat code false 1 1 512) else none
  | .exp2 =>
    if big then some (if neg then tiny false else encodeRat code false 1 1 512)
    else match e with
      | .ofNat j => some (encodeRat code false 1 1 (if neg then -((m <<< j : Nat) : Int) else ((m <<< j : Nat) : Int)))
      | .negSucc j => if m % 2 ^ (j + 1) = 0 then
            some (encodeRat code false 1 1 (if neg then -((m >>> (j + 1) : Nat) : Int) else ((m >>> (j + 1) : Nat) : Int)))
          else none
  | .log => if m = 2 ^ (bitlenNat m - 1) && (bitlenNat m : Int) - 1 + e = 0 then some { raw := 0 } else none
  | .log2 =>
    if m = 2 ^ (bitlenNat m - 1) then
      let k : Int := (bitlenNat m : Int) - 1 + e
      some (encodeRat code (decide (k < 0)) k.natAbs 1 0)
    else none
  | .rcp => some (encodeRat code neg 1 m (-e))
  | .sigm => if big then some (if neg then tiny false else one) else none
  | .tanh | .erf => if mid then some one else none
  | .gelu => if mid then some (if neg then tiny true else self) else none
  | .softp => if big then some (if neg then tiny false else self) else none
  | .dgelu => if mid then some (if neg then tiny true else one) else none
  | .dsigm | .dtanh => if big then some (tiny false) else none
  | .sqrt | .rsqrt => none

/-- A function of R152 at an exact input, correctly rounded to a floating format, with the exceptions of R151. -/
def Fn.eval (f : Fn) (code : Nat) (x : Num) : FnOut :=
  match f.special code x with
  | some r => r
  | none => match x with
    | .fin neg m e =>
      let o := match f.short code neg m e with
        | some o => o
        | none => roundFn code f neg m e [96, 192, 384, 768, 1536]
      { raw := o.raw, overflow := o.ovf }
    | _ => { raw := 0 }

end Sys2Proof.Machine
end

