-- ==== Sys2Proof/Machine/Grid.lean ====
section
/-! DEFINITION. Grid accumulation: terms (R68 to R71), accumulator elements and grid pairs (R72 to R75), the grid
exponent of header mode (R78, R156, R183), the epilogue (R81), the judgement (R82) and drain conversion (R86 to R90). -/

namespace Sys2Proof.Machine

/-- An accumulator element: the 104-bit wrapping value, its flags and its TERM_EXCESS (R71, R72). -/
structure GElem where
  v : BitVec 104 := 0
  nan : Bool := false
  pos : Bool := false
  neg : Bool := false
  tex : Nat := 0
  deriving DecidableEq, Repr

/-- An element after the epilogue: the exact total F with the element's flags (R81). -/
structure FElem where
  f : Int
  nan : Bool := false
  pos : Bool := false
  neg : Bool := false
  tex : Nat := 0
  deriving DecidableEq, Repr

/-- The value of the 104-bit register as a signed number. -/
def GElem.toInt (g : GElem) : Int := g.v.toInt

/-- The TERM_EXCESS after a term q (R71). -/
def texOf (old : Nat) (q : Int) : Nat := min 31 (max old (bitlen q - 80))

/-- The term RNE(v / 2^s) of a finite value ±m·2^e (R68). -/
def termOf (neg : Bool) (m : Nat) (e s : Int) : Int :=
  let k := rneScaled m 1 (e - s)
  if neg then -(k : Int) else k

/-- Add a term modulo 2^104 and update TERM_EXCESS (R71, R72). -/
def GElem.addTerm (g : GElem) (q : Int) : GElem :=
  { g with v := g.v + BitVec.ofInt 104 q, tex := texOf g.tex q }

/-- Add one exact value as a term, with its special cases (R68, R70). -/
def GElem.addNum (g : GElem) (x : Num) (s : Int) : GElem :=
  match x with
  | .nan => { g with nan := true }
  | .inf false => { g with pos := true }
  | .inf true => { g with neg := true }
  | .fin n m e => g.addTerm (termOf n m e s)

/-- The exact product of two operand values; infinity times zero is NaN (R70). -/
def mulNum (a b : Num) : Num :=
  match a, b with
  | .nan, _ => .nan
  | _, .nan => .nan
  | .inf n, .inf k => .inf (n != k)
  | .inf n, .fin k m _ => if m = 0 then .nan else .inf (n != k)
  | .fin n m _, .inf k => if m = 0 then .nan else .inf (n != k)
  | .fin n m e, .fin k m' e' => .fin (n != k) (m * m') (e + e')

/-- Combine the flags of an addend into an element (R75). -/
def GElem.orFlags (g : GElem) (nan pos neg : Bool) (tex : Nat) : GElem :=
  { g with nan := g.nan || nan, pos := g.pos || pos, neg := g.neg || neg, tex := max g.tex tex }

/-- A grid pair read from memory: an element and its exponent (R73). -/
structure GPair where
  el : GElem
  s : Int
  deriving DecidableEq, Repr

/-- The two words of a grid pair (R73). -/
def GPair.words (p : GPair) : List Word :=
  [BitVec.ofNat 64 p.el.v.toNat,
   put (p.el.v.toNat >>> 64) 24 ||| put (twos 16 p.s) 8 ||| putB p.el.nan 7 ||| putB p.el.pos 6 ||| putB p.el.neg 5
     ||| put (p.el.tex % 32) 0]

/-- The grid pair that a 128-bit number holds (R73). -/
def GPair.ofNat (n : Nat) : GPair :=
  let w1 := BitVec.ofNat 64 (n >>> 64)
  { el := { v := BitVec.ofNat 104 (n % 2 ^ 64 + (fld w1 63 24) <<< 64), nan := bit w1 7, pos := bit w1 6,
            neg := bit w1 5, tex := fld w1 4 0 },
    s := sext 16 (fld w1 23 8) }

/-- A grid pair as a 128-bit number. -/
def GPair.toNat (p : GPair) : Nat := (wd p.words 0).toNat + (wd p.words 1).toNat <<< 64

/-- Add a grid pair as an addend: its term at s, with its flags and excess (R75). -/
def GElem.addPair (g : GElem) (p : GPair) (s : Int) : GElem :=
  let v := p.el.toInt
  (g.addTerm (termOf (decide (v < 0)) v.natAbs p.s s)).orFlags p.el.nan p.el.pos p.el.neg p.el.tex

/-- Combine a chain partial into a stage's partial (R74); the S of the two must agree. -/
def GElem.addPartial (g : GElem) (p : GPair) : GElem :=
  ({ g with v := g.v + p.el.v }).orFlags p.el.nan p.el.pos p.el.neg p.el.tex

/-- The grid margin max(ceil_log2(Kt + 2), 14) (R78). -/
def gridM (kt : Nat) : Int := max (ceilLog2 (kt + 2)) 14

/-- The header-mode exponent of an ME command (R78); `p` is Ea + Eb + 2, none when every product is 0 (R106). -/
def headerS (p : Option Int) (kt : Nat) (scale : Option (Option Int)) (bias res : Option (Option Int)) : Int :=
  let p' := match p, scale with
    | some p, some ec => some (p + match ec with | some c => max (c + 1) 0 | none => 0)
    | p, _ => p
  let up (b : Option (Option Int)) : Option Int := match b with
    | some (some e) => some (e + 1)
    | _ => none
  match maxExpO p' (maxExpO (up bias) (up res)) with
  | none => -1024
  | some top => max (top + gridM kt - 93) (-1024)

/-- Ea + Eb + 2 for a pair of panels (R78). -/
def pairP (ea eb : Option Int) : Option Int :=
  match ea, eb with
  | some a, some b => some (a + b + 2)
  | _, _ => none

/-- The header-mode exponent of an elementwise grid sum (R156, R183). -/
def sumS (e : Option Int) (kt : Nat) : Int :=
  match e with
  | none => -1024
  | some e => e + 1 + gridM kt - 93

/-- Is s in the range that a drain accepts (R77)? -/
def sInRange (s : Int) : Bool := decide (-1024 ≤ s) && decide (s ≤ 1023)

/-- An epilogue addend: a value or a grid pair. -/
inductive Addend where
  | num (x : Num)
  | pair (p : GPair)
  deriving DecidableEq, Repr

/-- Add a bias or residual term to the exact total (R81, R68, R70, R75). -/
def FElem.addend (x : FElem) (a : Addend) (s : Int) : FElem :=
  match a with
  | .num .nan => { x with nan := true }
  | .num (.inf false) => { x with pos := true }
  | .num (.inf true) => { x with neg := true }
  | .num (.fin n m e) => let q := termOf n m e s; { x with f := x.f + q, tex := texOf x.tex q }
  | .pair p =>
    let v := p.el.toInt
    let q := termOf (decide (v < 0)) v.natAbs p.s s
    { f := x.f + q, nan := x.nan || p.el.nan, pos := x.pos || p.el.pos, neg := x.neg || p.el.neg,
      tex := max (texOf x.tex q) p.el.tex }

/-- The total with its scale applied: T1 = RNE(T × c) and the special scales (R81). For a NaN or infinite scale the rule gives
the flag and no T1; the model keeps T, which F and the V of a grid-pair output then rest on (log entry 43). -/
def scaleTotal (g : GElem) (c : Option Num) : FElem :=
  let t := g.toInt
  let x : FElem := { f := t, nan := g.nan, pos := g.pos, neg := g.neg, tex := g.tex }
  match c with
  | none => x
  | some .nan => { x with nan := true }
  | some (.inf n) =>
    if t = 0 then { x with nan := true }
    else if (decide (t < 0)) != n then { x with neg := true } else { x with pos := true }
  | some (.fin n m e) => { x with f := termOf ((decide (t < 0)) != n) (t.natAbs * m) e 0 }

/-- The fused epilogue of one element (R81). -/
def epilogue (g : GElem) (c : Option Num) (bias res : Option Addend) (s : Int) : FElem :=
  let x := scaleTotal g c
  let x := match bias with | some a => x.addend a s | none => x
  match res with | some a => x.addend a s | none => x

/-- What the judgement decides (R82). -/
inductive Judgement where
  | drain
  | again (s : Int)
  | range (s : Int)
  deriving DecidableEq, Repr

/-- Has the element a flag, so that it is not judged (R82)? -/
def FElem.special (x : FElem) : Bool := x.nan || x.pos || x.neg

/-- The e of R82 over the judged elements. -/
def judgeE (xs : List FElem) : Nat :=
  let js := xs.filter fun x => !x.special
  let total := js.foldl (fun a x => max a (bitlen x.f - 95)) 0
  let term := js.foldl (fun a x => max a x.tex) 0
  if 0 < term then term else total

/-- The judgement of a tile at exponent s after `repeats` repeats (R82, R77). -/
def judge (xs : List FElem) (s : Int) (repeats : Nat) : Judgement :=
  let e := judgeE xs
  if e = 0 then .drain
  else if repeats = 8 || decide (1023 < s + e + 2) then .range (s + e + 2)
  else .again (s + e + 2)

/-- The value that an element converts from (R86, R89). -/
def FElem.toNum (x : FElem) (s : Int) : Num :=
  if x.nan || (x.pos && x.neg) then .nan
  else if x.pos then .inf false
  else if x.neg then .inf true
  else if x.f = 0 then Num.zero
  else .fin (decide (x.f < 0)) x.f.natAbs s

/-- The grid pair that an element writes (R86). -/
def FElem.toPair (x : FElem) (s : Int) : GPair :=
  { el := { v := BitVec.ofInt 104 x.f, nan := x.nan, pos := x.pos, neg := x.neg, tex := x.tex }, s := s }

/-- The grid pair of an accumulator element. -/
def GElem.toPair (g : GElem) (s : Int) : GPair := { el := g, s := s }

/-- The exact value of a grid pair (R73, R89). -/
def GPair.toNum (p : GPair) : Num :=
  ({ f := p.el.toInt, nan := p.el.nan, pos := p.el.pos, neg := p.el.neg } : FElem).toNum p.s

/-- The header statistics of a grid pair (R90). -/
def GPair.stats (p : GPair) : TileStats :=
  let both := p.el.pos && p.el.neg
  { maxexp := if p.el.nan || p.el.pos || p.el.neg then none else numExp p.toNum,
    hasNan := p.el.nan || both, hasPos := p.el.pos && !p.el.nan && !both,
    hasNeg := p.el.neg && !p.el.nan && !both, hasSub := false }

/-- The encodings of a stored row, its MX scales, its statistics and its conversion events. -/
structure OutRow where
  raws : List Nat
  scales : List Nat := []
  st : TileStats := {}
  sat : Bool := false
  nonfin : Bool := false
  deriving DecidableEq, Repr

/-- Convert a row of values to an element format other than the grid pair (R86 to R90). -/
def outRow (code : Nat) (vs : List Num) : OutRow :=
  let (os, sc) := encodeRow code vs
  { raws := os.map (·.raw), scales := sc, st := rowStats code os sc, sat := os.any (·.sat),
    nonfin := os.any fun o => o.ovf || o.sNan || o.sPos || o.sNeg }

/-- A row of grid pairs (R86, R90). -/
def outPairRow (ps : List GPair) : OutRow :=
  { raws := ps.map GPair.toNat, st := ps.foldl (fun a p => a.join p.stats) {},
    nonfin := ps.any fun p => p.el.nan || p.el.pos || p.el.neg }

/-- Drain a row of totals at s (R86 to R90). -/
def drainRow (code : Nat) (xs : List FElem) (s : Int) : OutRow :=
  if code == 0xB then outPairRow (xs.map (·.toPair s)) else outRow code (xs.map (·.toNum s))

end Sys2Proof.Machine
end

