-- ==== Sys2Proof/Machine/Flags.lean ====
section
/-! DEFINITION. IEEE 754 arithmetic of the element engine with the exception events that EE_EXC counts
(R147, R148, R151), comparison, and the ranking key of R189. -/

namespace Sys2Proof.Machine

/-- The event counts that one element command adds to EE_EXC (R151). -/
structure ExcCount where
  invalid : Nat := 0
  divzero : Nat := 0
  overflow : Nat := 0
  deriving DecidableEq, Repr

/-- Count one element result. -/
def ExcCount.add (c : ExcCount) (o : FnOut) : ExcCount :=
  { invalid := c.invalid + o.invalid.toNat, divzero := c.divzero + o.divzero.toNat,
    overflow := c.overflow + o.overflow.toNat }

/-- The canonical NaN of a format as a result (R148). -/
def nanOut (code : Nat) (invalid : Bool) : FnOut := { raw := nanRaw code, invalid := invalid }

/-- An infinite result that no rounding made. -/
def infOut (code : Nat) (neg : Bool) : FnOut := { raw := infRaw code neg }

/-- Round an exact rational ±(n/d)·2^e of finite operands to a floating format; a zero keeps the sign (R147). -/
def finOut (code : Nat) (neg : Bool) (n d : Nat) (e : Int) : FnOut :=
  let o := encodeRat code neg n d e
  { raw := o.raw, overflow := o.ovf }

/-- The exact sum of two finite dyadic numbers: sign, magnitude and exponent. -/
def exactSum (n1 : Bool) (m1 : Nat) (e1 : Int) (n2 : Bool) (m2 : Nat) (e2 : Int) : Int × Int :=
  let e := min e1 e2
  let a : Int := (m1 <<< (e1 - e).toNat : Nat)
  let b : Int := (m2 <<< (e2 - e).toNat : Nat)
  ((if n1 then -a else a) + (if n2 then -b else b), e)

/-- x + y of exact values, rounded once (R147). An exact zero sum is −0 only from two negative zeros. -/
def addNum2 (code : Nat) (x y : Num) : FnOut :=
  match x, y with
  | .nan, _ => nanOut code false
  | _, .nan => nanOut code false
  | .inf a, .inf b => if a = b then infOut code a else nanOut code true
  | .inf a, .fin _ _ _ => infOut code a
  | .fin _ _ _, .inf b => infOut code b
  | .fin n1 m1 e1, .fin n2 m2 e2 =>
    let (v, e) := exactSum n1 m1 e1 n2 m2 e2
    if v = 0 then { raw := zeroRaw code (m1 = 0 && m2 = 0 && n1 && n2) }
    else finOut code (decide (v < 0)) v.natAbs 1 e

/-- The opposite value; a NaN stays a NaN. -/
def Num.opp : Num → Num
  | .nan => .nan
  | .inf n => .inf (!n)
  | .fin n m e => .fin (!n) m e

/-- x × y rounded once (R147). -/
def mulNum2 (code : Nat) (x y : Num) : FnOut :=
  match mulNum x y with
  | .nan => nanOut code (!x.isNan && !y.isNan)
  | .inf n => infOut code n
  | .fin n m e => finOut code n m 1 e

/-- x × y + z with one rounding (R147). -/
def fmaNum (code : Nat) (x y z : Num) : FnOut :=
  let p := mulNum x y
  let anyNan := x.isNan || y.isNan || z.isNan
  if anyNan then nanOut code false
  else if p.isNan then nanOut code true
  else addNum2 code p z

/-- x / y rounded once (R147). A finite nonzero x over 0 is the division by zero of R151. -/
def divNum (code : Nat) (x y : Num) : FnOut :=
  match x, y with
  | .nan, _ => nanOut code false
  | _, .nan => nanOut code false
  | .inf _, .inf _ => nanOut code true
  | .inf a, .fin n _ _ => infOut code (a != n)
  | .fin n _ _, .inf b => { raw := zeroRaw code (n != b) }
  | .fin n1 m1 e1, .fin n2 m2 e2 =>
    if m2 = 0 then (if m1 = 0 then nanOut code true else { infOut code (n1 != n2) with divzero := true })
    else finOut code (n1 != n2) m1 m2 (e1 - e2)

/-- x < y of exact values, with −0 equal to +0; false on NaN (R147). -/
def ltNum (x y : Num) : Bool :=
  match x, y with
  | .nan, _ => false
  | _, .nan => false
  | .inf a, .inf b => a && !b
  | .inf a, .fin _ _ _ => a
  | .fin _ _ _, .inf b => !b
  | .fin n1 m1 e1, .fin n2 m2 e2 => decide ((exactSum n1 m1 e1 (!n2) m2 e2).1 < 0)

/-- x = y of exact values; false on NaN (R147). -/
def eqNum (x y : Num) : Bool := !x.isNan && !y.isNan && !ltNum x y && !ltNum y x

/-- The order key of an encoding: totalOrder on non-NaN binary32 or 16-bit encodings of sign at bit w − 1 (R189). -/
def orderKey (w raw : Nat) : Nat := if raw.testBit (w - 1) then 2 ^ w - 1 - raw else raw + 2 ^ (w - 1)

/-- Minimum of two encodings by R147: NaN if either is NaN, and −0 below +0. -/
def minRaw (code a b : Nat) : Nat :=
  if (decodeElem code a).isNan || (decodeElem code b).isNan then nanRaw code
  else if orderKey (fmtBits code) b < orderKey (fmtBits code) a then b else a

/-- Maximum of two encodings by R147. -/
def maxRaw (code a b : Nat) : Nat :=
  if (decodeElem code a).isNan || (decodeElem code b).isNan then nanRaw code
  else if orderKey (fmtBits code) a < orderKey (fmtBits code) b then b else a

/-- Convert an exact value to a floating format by R86, R87 and R89, with the overflow event of R151. -/
def cvtNum (code : Nat) (x : Num) : FnOut :=
  match x with
  | .nan => nanOut code false
  | .inf n => infOut code n
  | .fin n m e => finOut code n m 1 e

/-- |A| and −A on an encoding; a NaN gives the canonical NaN (R148). -/
def absRaw (code a : Nat) : Nat :=
  if (decodeElem code a).isNan then nanRaw code else a % 2 ^ (fmtBits code - 1)

/-- −A. -/
def negRaw (code a : Nat) : Nat :=
  if (decodeElem code a).isNan then nanRaw code
  else if a.testBit (fmtBits code - 1) then a - 2 ^ (fmtBits code - 1) else a + 2 ^ (fmtBits code - 1)

/-- The format code of an instruction's FMT field (R143): 0 binary32, 1 BF16, 2 FP16. -/
def fmtOf (f : Nat) : Nat := if f = 0 then 0xA else if f = 1 then 0x8 else 0x9

/-- The drain functions of R114 on a binary32 value. -/
def drainFn (func : Nat) (y : Num) : Num :=
  match func with
  | 1 => match y with
    | .nan => .nan
    | .inf n => if n then Num.zero else .inf false
    | .fin n m e => if n || m = 0 then Num.zero else .fin n m e
  | 2 => decodeElem 0xA (Fn.gelu.eval 0xA y).raw
  | 3 => decodeElem 0xA (Fn.sigm.eval 0xA y).raw
  | 4 => decodeElem 0xA (Fn.tanh.eval 0xA y).raw
  | 5 => decodeElem 0xA (Fn.softp.eval 0xA y).raw
  | _ => y

/-- The derivatives of R114 on a binary32 value. -/
def drainDeriv (func : Nat) (z : Num) : Num :=
  match func with
  | 1 => match z with
    | .nan => .nan
    | .inf n => if n then Num.zero else .fin false 1 0
    | .fin n m _ => if n || m = 0 then Num.zero else .fin false 1 0
  | 2 => decodeElem 0xA (Fn.dgelu.eval 0xA z).raw
  | 3 => decodeElem 0xA (Fn.dsigm.eval 0xA z).raw
  | 4 => decodeElem 0xA (Fn.dtanh.eval 0xA z).raw
  | 5 => decodeElem 0xA (Fn.sigm.eval 0xA z).raw
  | _ => z

end Sys2Proof.Machine
end

