-- ==== Sys2Proof/Machine/CmdTypes.lean ====
section
/-! DEFINITION. The checked form of a command, as its engine holds it from issue to completion: operands, programs and
formats (R98, R104, R136, R170, R180), and how far an element or layout command has come (R132, R167, R177). -/

namespace Sys2Proof.Machine

/-- A square sum (R184). -/
structure Sq where
  v : Nat := 0
  count : Nat := 0
  nan : Bool := false
  inf : Bool := false
  deriving DecidableEq, Repr

/-- An entry of the ME-to-EE queue: a finished tile with its header (R119). -/
structure QEntry where
  ctx : CtxId
  thread : Nat
  cmd : Nat
  hdr : TileHdr
  rows : List (List Nat)
  scales : List (List Nat) := []
  held : Option (Nat × Nat) := none     -- the EE command that consumes it (R164)
  deriving DecidableEq, Repr

/-- A tile to read: its shape, the address of row 0, the pitches and the scale area (R63, R64). -/
structure Tile where
  code : Nat
  rows : Nat
  cols : Nat
  row0 : Nat
  stride : Nat
  scale0 : Nat := 0
  sstride : Nat := 0
  hdr : Option TileHdr := none
  deriving DecidableEq, Repr

/-- Where a tile output goes: the address of its first line, whether a header is written, and its pitch in lines. -/
structure OutPlace where
  addr : Nat
  hdr : Bool
  pitch : Nat
  deriving DecidableEq, Repr

/-- An operand of a product: its tiles, and whether its rows run along K (R103). -/
structure Side where
  tiles : List Tile
  along : Bool
  deriving DecidableEq, Repr

/-- A checked ME command with its operands. -/
structure MeOps where
  mmd : Bool
  role : Nat
  m : Nat
  n : Nat
  kt : Nat
  chain : Nat
  stage : Nat
  pairs : List (Side × Side)
  declared : Option Int
  fmtOut : Nat
  scaleMode : Nat
  scale : Option Tile
  biasMode : Nat
  bias : Option Tile
  res : Option Tile
  func : Nat
  deriv : Bool
  auxFmt : Nat
  auxIn : Option Tile
  auxOut : Option OutPlace
  dest : Nat
  out : Option OutPlace
  tap : Nat
  fine : Bool
  deriving DecidableEq, Repr

/-- An instruction word (R143). -/
structure Ins where
  opc : Nat
  fmt : Nat
  d : Nat
  a : Nat
  b : Nat
  c : Nat
  pg : Nat
  zi : Bool
  imm : Nat
  deriving DecidableEq, Repr

/-- A phase: its row-start, body and row-end instructions. -/
structure Phase where
  start : List Ins
  body : List Ins
  finish : List Ins
  deriving DecidableEq, Repr

/-- An input stream: an element stream of memory, a row stream, one that a program reads in both ways, or a queue entry. -/
inductive InStream where
  | none
  | elems (t : Tile)
  | row (code addr : Nat)
  | both (t : Tile) (code addr : Nat)
  | entry (q : QEntry)
  deriving DecidableEq, Repr

/-- A checked EE command. -/
structure EeOps where
  wide : Bool
  rows : Nat
  len : Nat
  kt : Nat
  phases : List Phase
  consts : List Nat
  prog : List Byte := []
  gridLine : List Byte
  declExp : List Int
  layer : Nat
  salt : Nat
  row0 : Nat
  col0 : Nat
  ins : List InStream
  outs : List (Option (Nat × OutPlace))
  o2 : Option (Nat × Nat)
  usesGout : List Nat
  tap : Nat
  deriving DecidableEq, Repr

/-- A G register: its exponent and its lanes (R132). -/
structure GReg where
  s : Int := -1024
  lanes : List GElem := []
  deriving DecidableEq, Repr

/-- A row of a stored output: elements, and scale bytes of MX blocks; none where nothing was stored. -/
structure StRow where
  els : List (Option OutElem) := []
  sc : List (Option Nat) := []
  deriving DecidableEq, Repr

/-- The registers at the start of a phase of a row, to which a rerun goes back (R157). -/
structure EeSave where
  v : List (List Nat) := []
  p : List (List Bool) := []
  w : List Nat := []
  g : List GReg := []
  deriving DecidableEq, Repr

/-- The state of a running element command (R132, R133) and its place in the loop of R139: lists shorter than a register
read as zeros. -/
structure EeSt where
  v : List (List Nat) := List.replicate 32 []
  p : List (List Bool) := List.replicate 8 []
  w : List Nat := List.replicate 8 0
  g : List GReg := List.replicate 4 {}
  o : List (List StRow) := [[], []]
  o2 : List (Option Nat) := []
  exc : ExcCount := {}
  reps : Nat := 0
  cnt : List Nat := [0, 0, 0, 0]        -- repeats of each register in this phase of this row
  sat : Bool := false
  nonfin : Bool := false
  again : Option (Nat × Int) := none    -- a judgement that calls for a rerun: register and new s
  row : Nat := 0                        -- the next chunk of the loop
  phase : Nat := 0
  chunk : Nat := 0
  save : EeSave := {}
  rerunS : List (Option Int) := [none, none, none, none]    -- the s of reruns in this phase of this row
  fault : Option (Nat × Word) := none
  deriving DecidableEq, Repr

/-- A checked LE command. -/
structure LeOps where
  op : Nat
  fin : Nat
  fout : Nat
  rows : Nat
  cols : Nat
  src : Tile
  out : OutPlace
  idx : Nat := 0                 -- address of LGATHER's indices
  ctr : Nat := 0
  inHdr : Nat := 0               -- address of LSEAL's header line
  deriving DecidableEq, Repr

/-- A checked RE command. -/
structure ReOps where
  op : Nat
  fin : Nat
  fout : Nat
  role : Nat
  smallest : Bool
  axis : Bool
  k : Nat
  rows : Nat
  len : Nat
  kt : Nat
  declared : Option Int
  col0 : Nat
  src : Option Tile
  rowMask : Option (Nat × Nat)    -- address and pitch in bytes
  colMask : Option Nat
  out : Option Nat                -- address of a packed output
  outTile : Option OutPlace       -- RSUM with AXIS = 1
  idx : Option Nat
  normId : Nat
  cls : Nat
  channel : Nat
  deriving DecidableEq, Repr

/-- How far a layout command has come (R177): LGATHER's indices, or the value that LCTR read, and the output rows written. -/
structure LeProg where
  idx : List Nat := []
  rows : List OutRow := []
  deriving DecidableEq, Repr

/-- A reference (R234). -/
structure Ref where
  space : Nat
  num : Nat
  off : Nat
  deriving DecidableEq, Repr

/-- A part of a DMA stream: local memory; or bytes of a push window, with the position that an alignment is taken from, and the
address where they land when the window's destination is this device. -/
inductive Seg where
  | mem (a len : Nat)
  | push (win off len pos : Nat) (land : Option Nat)
  deriving DecidableEq, Repr

/-- A descriptor (R235). -/
structure Desc where
  form : Nat
  gather : Nat
  last : Bool
  hdrs : Bool
  raw : Bool
  pitch : Nat        -- HDR_PITCH
  src : Ref
  dst : Ref
  rows : Nat
  len : Nat
  nsrc : Nat
  ndst : Nat
  spitch : Nat
  dpitch : Nat
  tag : Word
  next : Word
  deriving DecidableEq, Repr

/-- A descriptor as the walk of R240 resolves it: its own reference, and the parts of its two streams. -/
structure DescS where
  d : Desc
  ref : Ref
  src : List (Seg × Ref)
  dst : List (Seg × Ref)
  deriving DecidableEq, Repr

/-- An entry of the expert table (R406). -/
structure Expert where
  dest : Nat
  cap : Nat
  rows : Word
  index : Word
  deriving DecidableEq, Repr

/-- A checked XE command. -/
structure XeOps where
  op : Nat
  k : Nat
  lines : Nat
  tokens : Nat
  first : Nat
  ndest : Nat
  src : Nat                  -- address of the rows
  idx : List Nat             -- XSEND: expert numbers; XRET: index entries
  experts : List Expert
  dst : Nat                  -- XSEND: address of the combine area
  mask : Nat                 -- XSEND: address of the mask bits
  maskRef : Word
  dstRef : Word
  rank : Nat
  flows : List Nat           -- the windows of its flows
  deriving DecidableEq, Repr

/-- The checked fields and references of an issued command. The engines check before issue and never again (R116, R130,
R146, R168, R176, R193). -/
inductive CmdOps where
  | none
  | me (o : MeOps)
  | ee (o : EeOps)
  | le (o : LeOps)
  | re (o : ReOps)
  | copy (xs : List DescS)
  | scatter (fmt src dst : Nat) (ixs : List Nat)      -- DSCAT: addresses of SRC and DST, and the indices
  | xe (o : XeOps)
  deriving DecidableEq, Repr

end Sys2Proof.Machine
end

