-- ==== Sys2Proof/Machine/JobTypes.lean ====
section
/-! DEFINITION. The job image's tables (R27, R28 and the layouts they name) and the state that a context holds while
a job is loaded: bindings, counters, threads, issued commands, pins, shards, tap channels and the open Sepia record. -/

namespace Sys2Proof.Machine

/-- A thread descriptor (R261). -/
structure ThreadDesc where
  thread : Nat
  group : Nat
  stream : Nat
  slab : Nat
  line : Nat
  ncmd : Nat
  deriving DecidableEq, Repr

/-- A slab table entry (R256). -/
structure SlabDesc where
  slab : Nat
  kind : Nat
  group : Nat
  lines : Nat
  deriving DecidableEq, Repr

/-- A counter table entry (R266). -/
structure CtrDesc where
  ctr : Nat
  ramp : Bool
  init : Nat
  rel : Nat := 0          -- the smallest REQ of its waiting commands, at which it is released (R285)
  deriving DecidableEq, Repr

/-- A chain table entry (R195). -/
structure ChainEnt where
  chain : Nat
  stage : Nat
  role : Nat
  kind : Nat
  kM1 : Nat
  thread : Nat
  cmd : Nat
  rowsM1 : Nat
  width : Nat
  idxBase : Nat
  idxLen : Nat
  deriving DecidableEq, Repr

/-- A Tint table entry (R436). -/
structure TintEnt where
  thread : Nat
  first : Nat
  last : Nat
  account : Nat
  asThread : Nat
  asCmd : Nat
  alias_ : Bool
  deriving DecidableEq, Repr

/-- A pin table entry (R416). -/
structure PinDesc where
  pin : Nat
  hold : Bool
  relCtr : Nat
  tFirst : Nat
  tLast : Nat
  deriving DecidableEq, Repr

/-- A shard table entry (R415). -/
structure ShardDesc where
  shard : Nat
  nbuf : Nat
  frozen : Bool
  read : Nat
  next : Nat
  sealCtr : Nat
  bufs : List Nat      -- BUF0, BUF1, BUF2 as NBUF gives
  deriving DecidableEq, Repr

/-- A buffer table entry (R28). -/
structure BufDesc where
  buf : Nat
  tier : Nat
  length : Nat
  deriving DecidableEq, Repr

/-- A slab image: SLAB, LINE and its bytes (R28). -/
structure SlabImage where
  slab : Nat
  line : Nat
  bytes : List Byte
  deriving DecidableEq, Repr

/-- A buffer image: BUFFER, OFFSET and its bytes (R28). -/
structure BufImage where
  buf : Nat
  offset : Nat
  bytes : List Byte
  deriving DecidableEq, Repr

/-- A declaration table entry, one exchange window (R395). -/
structure WinDecl where
  win : Nat
  kind : Nat
  flag : Bool
  frameMin : Nat
  src : Nat
  dst : Nat
  chain : Nat
  stage : Nat
  volume : Nat
  srcRef : Word
  dstRef : Word
  sigs : List (Nat × Nat)   -- CTR and DEC of SIG0 and SIG1
  deriving DecidableEq, Repr

/-- The job that a context holds (R27, R28, R252). Absent sections are empty lists (R598). -/
structure Job where
  progDig : List Word := [0, 0, 0, 0]
  placedDig : List Word := [0, 0, 0, 0]
  keyDig : List Word := [0, 0, 0, 0]
  declDig : List Word := [0, 0, 0, 0]
  xeDig : List Word := [0, 0, 0, 0]
  contract : Nat := 0
  steps : Nat := 0
  seed : Nat := 0
  firstStep : Nat := 0
  threads : List ThreadDesc := []
  slabs : List SlabDesc := []
  ctrs : List CtrDesc := []
  chains : List ChainEnt := []
  tints : List TintEnt := []
  pins : List PinDesc := []
  shards : List ShardDesc := []
  updates : List Nat := []
  bufs : List BufDesc := []
  slabImages : List SlabImage := []
  bufImages : List BufImage := []
  declExp : List Int := []
  xeTables : List SlabImage := []
  tagRef : Word := 0
  key : List Nat := [0, 0, 0, 0]
  groups : List (Nat × Nat) := []      -- GROUP, DEVICE
  ctrDevs : List (Nat × Nat) := []     -- CTR, DEVICE
  wins : List WinDecl := []
  badTables : Bool := false            -- a thread, counter or chain table entry breaks its layout (R252)
  deriving DecidableEq, Repr

/-- Where a slab is bound: its number, KIND, base address, length in lines and group (R258). -/
structure SlabBind where
  slab : Nat
  kind : Nat
  base : Nat
  lines : Nat
  group : Nat
  deriving DecidableEq, Repr

/-- A counter during a step: its value and the signal instants at which the value fell (R267, R271). -/
structure CtrState where
  ctr : Nat
  value : Nat
  hist : List (Nat × Nat) := []    -- signal instant, value from then on; newest first
  deriving DecidableEq, Repr

/-- A thread of the running step (R270): pending, resident or finished issuing. -/
structure ThreadRun where
  thread : Nat
  group : Nat
  core : Nat
  next : Nat
  resident : Bool := false
  waited : Nat := 0                -- frame starts seen since the head command's wait began (R281)
  waitOn : Nat := 0                -- which of R281's waits it is; 0 none
  halted : Bool := false           -- the thread halted by a fault (R53)
  deriving DecidableEq, Repr

/-- The partial rows of a chain stage (R197): grid elements, squares, ranked entries (key, index), or words. -/
inductive Partials where
  | none
  | sum (rows : List (List GElem))
  | square (rows : List Sq)
  | ranked (rows : List (List (Nat × Nat)))
  | words (rows : List Nat)
  deriving DecidableEq, Repr

/-- A norm record (R187). -/
structure NormRec where
  id : Nat
  nan : Bool
  inf : Bool
  sumsq : Nat
  norm : Nat
  count : Nat
  deriving DecidableEq, Repr

/-- One digested output role of a command: ROLE with the stream length of the coordinate, and the digest (R438). -/
structure TintOut where
  role : Nat
  low : Nat            -- bits [55:0] of the coordinate's last word
  digest : BitVec 128
  deriving DecidableEq, Repr

/-- Everything that one engine command does beyond its own progress: bytes written, tiles digested, taps, norms,
counts and the queue entry it makes. -/
structure Effects where
  writes : List (Nat × List Byte) := []
  tints : List TintOut := []
  fineAll : Bool := false                  -- TINT_FINE of the command (R443)
  tap : Option Sq := none
  tapClear : Option Nat := none            -- TAPX: the channel that is read and cleared (R188)
  norms : List NormRec := []
  exc : ExcCount := {}
  repeats : Nat := 0
  nonfin : Bool := false
  sat : Bool := false
  gridTile : Bool := false
  nanExcl : Nat := 0
  queue : Option QEntry := none
  deriving DecidableEq, Repr

/-- The engines of R264. -/
inductive Eng where
  | join | me | ee | le | re | dma | xe
  deriving DecidableEq, Repr

/-- A checking execution of a command: its core and what its comparison found (R464, R470). -/
structure Check where
  cause : Nat                    -- code of R482
  checker : Option Nat           -- core, none when no core qualifies
  digC : List TintOut := []
  mism : Bool := false           -- a mismatch was shown
  third : Option Nat := none
  decided : Bool := false
  deriving DecidableEq, Repr

/-- How far a DCOPY or DSCAT has come (R243, R247): the descriptor in progress with its index, the bytes of its stream whose writes
left the engine, and what the descriptors before it gave. -/
structure DmaPart where
  idx : Nat
  bytes : Nat
  ref : Word
  seen : List Byte := []         -- the bytes of its stream that were written, over which its digest runs
  tints : List TintOut := []
  digs : List TintOut := []
  ends : List (Nat × Nat) := []
  deriving DecidableEq, Repr

/-- An issued command that has not completed. -/
structure Run where
  thread : Nat
  cmd : Nat
  core : Nat
  eng : Eng
  env : List Word
  body : List Word
  ops : CmdOps := .none          -- what the checks before issue read (R116, R146, R176, R193)
  ee : EeSt := {}                -- how far an EE command has come (R167)
  le : LeProg := {}              -- how far an LE command has come (R177)
  lent : Bool := false           -- LCTR issued in a lent slot (R174)
  set : Nat := 0                 -- accumulator set of the ME (R125)
  phase : Nat := 0               -- R125: 1 awaiting s, 2 to compute, 3 awaiting partials, 4 to judge, 5 held, 6 awaiting a queue entry
  s : Int := 0
  rowS : List Int := []          -- the S of each partial row, where an EE stage's rows differ (R157, R158)
  repeats : Nat := 0
  pass : Nat := 0
  passS : List Int := []         -- the s of the passes whose own partials it has formed, in order (R460)
  kdone : Nat := 0               -- products of the current pair done on this stage (R125)
  partials : Partials := .none
  stage : Option Nat := none     -- STAGE in its chain
  chain : Nat := 0
  role : Nat := 0                -- CHAIN_ROLE
  inRows : List Nat := []        -- incoming partial rows of this pass
  inParts : List (Nat × Partials) := []   -- those rows, for a second run (R202)
  tapIn : Sq := {}               -- TAPX: what it read from its channel (R188)
  before : List (Nat × List Byte) := []   -- what its own writes replaced, newest first, for its check execution (R464)
  hdr : List (Option Int) := []  -- merged header word: Ea, Eb, Ea2, Eb2
  hdrDone : Bool := false        -- the stage holds every header word it needs
  retDone : Bool := false        -- the done word has come (R201)
  held : Option Effects := none  -- outputs formed and not yet released
  again : Option Int := none     -- a judgement that calls for a repeat at this s (R82)
  digP : List TintOut := []      -- digests of the bound execution
  check : Option Check := none
  mirror : Option Check := none
  final : Option Check := none
  written : List (Nat × Nat) := []   -- DSETTLE: the window cells that it waits for
  part : Option DmaPart := none      -- DCOPY and DSCAT: the progress, once it runs
  digM : List TintOut := []          -- digests of the mirror's run of a DMA or XE command, made with the group's (R312)
  windows : List Nat := []       -- windows that this command sends to
  ends : List (Nat × Nat) := []  -- DCOPY: window and the byte at which its stream to it ended
  executed : Bool := false       -- its outputs are written
  waited : Nat := 0              -- frame starts seen in its present limited wait (R281)
  waitOn : Nat := 0              -- which wait that is; 0 none
  deriving DecidableEq, Repr

/-- The state of a shard (R421, R422): current and alternate buffer indexes, and what the step did to it. -/
structure ShardState where
  shard : Nat
  cur : Nat := 0
  alt : Option Nat := none
  renewed : Bool := false
  hdrWritten : Bool := false
  isSealed : Bool := false
  failed : Bool := false         -- a check-mode seal failed in the attempt
  failedBefore : Bool := false   -- the last attempt of this step failed it (R423)
  hist : List (Nat × Nat) := []  -- generation, buffer current at it; newest first
  deriving DecidableEq, Repr

/-- A held pin (R416, R417). -/
structure PinState where
  pin : Nat
  gen : Nat
  takenIn : Nat × Nat            -- the attempt in which it was taken
  deriving DecidableEq, Repr

/-- A fine entry (R443). -/
structure FineEnt where
  thread : Nat
  cmd : Nat
  account : Nat
  role : Nat
  digest : BitVec 128
  deriving DecidableEq, Repr

/-- A VERDICTS entry (R489). -/
structure VerdictEnt where
  cause : Nat
  outcome : Nat
  primary : Nat := 0xFF
  checker : Nat := 0xFF
  third : Nat := 0xFF
  role : Nat := 0
  thread : Nat := 0
  cmd : Nat := 0
  digP : BitVec 128 := 0
  digC : BitVec 128 := 0
  digT : BitVec 128 := 0
  units : Nat := 0               -- fabric sequencers or digest units, not cores, made this many of the computations (R491)
  deriving DecidableEq, Repr

/-- The record of a step attempt while it is open (R444 to R449). -/
structure OpenRec where
  t : Nat
  attempt : Nat
  replay : Bool
  stream : Nat
  miss : Bool := false
  gen : Nat
  startNs : Nat
  startFrame : Nat               -- epoch × 65,536 + frame
  facOffset : Nat
  frames : Nat := 0
  endNs : Option Nat := none
  tag : List Byte := []          -- the 64 tag bytes at step end (R447)
  refresh : List Nat := []       -- MEM_REFRESH of die 0 and die 1 at step end (R449)
  status : Nat := 0
  config : List Word := []
  patterns : List Word := []
  base : List Word := []         -- counts since boot at the start, for the changes of R449
  frames2x : Nat := 0
  hotSeen : Bool := false
  uj : Nat := 0
  accounts : List (Nat × Nat × BitVec 128) := []    -- ACCOUNT, TILES, device sum
  norms : List NormRec := []
  verdicts : List VerdictEnt := []
  shards : List (Nat × Word × List Word) := []
  pins : List (Nat × Bool × Nat) := []
  artefacts : List (List Word × Word) := []
  fine : List FineEnt := []
  fineTrunc : Bool := false
  checkpoint : List (Nat × Word × List Word) := []
  counters : List Word := []     -- the COUNTERS body once copied
  deriving DecidableEq, Repr

/-- A closed record that is not yet in the ring: it waits for the anchor before it or for the third anchor (R469), or, whole, for
room (R452). Until it is whole, its bytes end before ANCHOR and its PREV_ANCHOR stands at 0. -/
structure ShutRec where
  bytes : List Byte
  whole : Bool := false
  err0 : BitVec 256 := 0         -- what an upset of the digest unit of die 0, and of die 1, flips in its anchor
  err1 : BitVec 256 := 0
  prev : Option (List Word) := none   -- its PREV_ANCHOR, where the context has been loaded again since
  deriving DecidableEq, Repr

end Sys2Proof.Machine
end

