-- ==== Sys2Proof/Machine/UnitTypes.lean ====
section
/-! DEFINITION. The state of the device's units: cores, dies, Indigo, the fabric ports, power and supplies, the host
side, Rust, boot, Sepia, and a context. Register fields carry the register's own name; a field of a register that the
spec computes from other state is computed where the register is read. -/

namespace Sys2Proof.Machine

/-- A frame as one number: epoch × 65,536 + frame (R365). -/
abbrev FrameNo := Nat

/-- A bank's ownership register (R210). -/
structure BankOwn where
  busy : Bool := false
  disabled : Bool := false
  retain : Bool := false
  valid : Bool := false
  ctx : CtxId := 0
  arb : Option (Option CtxId) := none   -- the owner that accesses are checked against until a change takes effect (R216)
  deriving DecidableEq, Repr

/-- CORE_STALL_n (R224). -/
structure StallCnt where
  loc : BitVec 32 := 0
  rem : BitVec 32 := 0
  deriving DecidableEq, Repr

/-- ME_GRID_CNT_n (R85). -/
structure GridCnt where
  repeats : BitVec 32 := 0
  nonfinite : BitVec 16 := 0
  saturated : BitVec 16 := 0
  deriving DecidableEq, Repr

/-- EE_EXC_n (R151). -/
structure ExcReg where
  invalid : BitVec 32 := 0
  divzero : BitVec 16 := 0
  overflow : BitVec 16 := 0
  deriving DecidableEq, Repr

/-- RE_CNT_n (R194). -/
structure ReCnt where
  rowsIn : BitVec 32 := 0
  finals : BitVec 16 := 0
  nanExcl : BitVec 16 := 0
  deriving DecidableEq, Repr

/-- DMA_CHAN_ch (R229). -/
structure DmaChan where
  slices : BitVec 8 := 4
  valid : Bool := false
  ctx : CtxId := 0
  deriving DecidableEq, Repr

/-- DMA_STAT_ch, DMA_RES_REF_ch and DMA_RES_CNT_ch (R247), with the channel's queue of commands (R233) and the
writes that left the engine and wait for a settle (R245). -/
structure DmaStat where
  state : BitVec 3 := 0
  cmd : BitVec 16 := 0
  ref : Word := 0
  bytes : BitVec 40 := 0
  cause : BitVec 8 := 0
  index : BitVec 16 := 0
  queue : List (Nat × Nat) := []        -- thread and command of the commands on the channel, running one first
  hold : List (BitVec 80) := []         -- its slices of the holding buffer: Umber words read and not yet written (R229)
  pendingWins : List (Nat × Nat) := []  -- push window cells not yet acknowledged: window, cell
  deriving DecidableEq, Repr

/-- A slot that an engine lends in a beat: the slot, who has it, and the instant at which it was lent (R275). -/
structure Lent where
  slot : Nat
  ctx : CtxId
  at_ : Nat
  deriving DecidableEq, Repr

/-- One core with its engines. -/
structure CoreSt where
  own : Vector BankOwn 56 := Vector.replicate 56 {}
  repair : Vector (BitVec 48) 56 := Vector.replicate 56 0
  stall : Vector StallCnt 8 := Vector.replicate 8 {}
  ipat : Vector Word 8 := Vector.replicate 8 0x8888888888888888#64    -- e × 2 + h (R273)
  acc : BitVec 32 := 8                  -- ME_SPLIT.ACC (R93)
  que : BitVec 32 := 8                  -- ME_SPLIT.QUE
  sets : BitVec 32 := 4                 -- EE_SPLIT.SETS (R134)
  grid : Vector GridCnt 8 := Vector.replicate 8 {}
  dbgCtx : CtxId := 0
  dbgEn : Bool := false
  dbgSet : BitVec 3 := 0
  dbgRow : BitVec 8 := 0
  dbgCol : BitVec 8 := 0
  exc : Vector ExcReg 8 := Vector.replicate 8 {}
  reCnt : Vector ReCnt 8 := Vector.replicate 8 {}
  chan : Vector DmaChan 16 := Vector.replicate 16 {}
  dma : Vector DmaStat 16 := Vector.replicate 16 {}
  taps : List ((CtxId × Nat) × Sq) := []
  mirTaps : List ((CtxId × Nat) × Sq) := []           -- the tap channels of the mirrors that run on this core (R312)
  queue : List QEntry := []
  borrower : Vector CtxId 4 := Vector.replicate 4 7   -- the context that last borrowed, per ME, EE, RE, LE (R275)
  lent : Vector (Option Lent) 4 := Vector.replicate 4 none   -- the slot lent last, per ME, EE, RE, LE (R275)
  quarantined : Bool := false
  deriving DecidableEq, Repr

/-- MEM_DDR_CH_k (R322). -/
structure DdrCh where
  cap : BitVec 16 := 0
  type : BitVec 4 := 0
  speed : BitVec 4 := 0
  dimms : BitVec 2 := 0
  width : BitVec 2 := 0
  used : Bool := false
  trained : Bool := false
  deriving DecidableEq, Repr

/-- MEM_ECC_CNT or MEM_UE_CNT (R334). -/
structure EccCnt where
  sram : BitVec 16 := 0
  hbm : BitVec 16 := 0
  ddr : BitVec 16 := 0
  seam : BitVec 16 := 0
  deriving DecidableEq, Repr

/-- XE_CNT_n (R412). -/
structure XeCnt where
  drop : BitVec 32 := 0
  tokens : BitVec 32 := 0
  deriving DecidableEq, Repr

/-- SHD_CNT_n (R474). -/
structure ShdCnt where
  selected : BitVec 32 := 0
  mismatches : BitVec 16 := 0
  skipped : BitVec 16 := 0
  deriving DecidableEq, Repr

/-- DSPT_CTX_LIM_n (R277). -/
structure CtxLim where
  table : BitVec 15 := 0x0800
  resident : BitVec 6 := 6
  deriving DecidableEq, Repr

/-- One die. -/
structure DieSt where
  stg : Vector (Vector BankOwn 48) 8 := Vector.replicate 8 (Vector.replicate 48 {})
  pool : Vector BankOwn 128 := Vector.replicate 128 {}
  stgRepair : Vector (Vector (BitVec 48) 48) 8 := Vector.replicate 8 (Vector.replicate 48 0)
  poolRepair : Vector (BitVec 48) 128 := Vector.replicate 128 0
  xe : Vector XeCnt 8 := Vector.replicate 8 {}
  lim : Vector CtxLim 8 := Vector.replicate 8 {}
  ddr : Vector DdrCh 8 := Vector.replicate 8 {}
  ecc : EccCnt := {}
  ue : EccCnt := {}
  ddr2x : BitVec 8 := 0
  hbm2x : BitVec 6 := 0
  changes : BitVec 16 := 0
  next2x : BitVec 8 × BitVec 6 := (0, 0)   -- the rates that the next frame start takes (R343)
  shd : Vector ShdCnt 8 := Vector.replicate 8 {}
  hbmOk : Bool := true                     -- the die's HBM half is populated (R317)
  digestSuspect : Bool := false            -- the digest unit is suspect (R471)
  seqSuspect : Bool := false               -- the fabric sequencer is suspect
  deriving DecidableEq, Repr

/-- The list of retired locations (R339). -/
structure RetireEnt where
  kind : Nat
  cause : Nat
  state : Nat
  addr : Nat
  boot : Nat
  column : Nat := 0
  deriving DecidableEq, Repr

/-- Scrubbing and retirement (R337, R338, R342). -/
structure ScrubSt where
  sramMin : BitVec 16 := 0x3C
  dramH : BitVec 16 := 0x18
  en : Bool := true
  list : List RetireEnt := []
  pending : BitVec 16 := 0
  withheld : List Nat := []                -- 2 MiB granules withheld from binding
  full : Bool := false
  lines : List (Nat × Nat) := []           -- HBM or DDR5 line, scrub passes that corrected it
  cols : List ((Nat × Nat) × List Nat) := []   -- SRAM bank base and column, corrected lines of the period
  hour : List (Nat × List (Nat × Nat)) := []   -- DDR5 channel: instant and number of corrected words of the last hour
  hourSaid : List (Nat × Nat) := []        -- channels whose excess was reported, and when (R338)
  refreshOpen : List ((Nat × Nat × Nat) × Nat) := []   -- refresh windows: medium, channel and bank, and the instant of opening
  older : Bool := false                    -- the older copy of the list in the flash is the second (R339)
  seen : List Nat := []                    -- HBM and DDR5 lines whose correction has counted in this scrub period
  sramAt : Nat := 0                        -- ns of the last SRAM pass, and the period in force since then
  sramPer : BitVec 16 := 0x3C
  sramEn : Bool := true                    -- EN as the running pass took it (R337)
  dramAt : Nat := 0                        -- the same of the HBM and DDR5 pass
  dramPer : BitVec 16 := 0x18
  dramEn : Bool := true
  deriving DecidableEq, Repr

/-- A stretch request for a frame: N and CAUSE (R368). -/
structure Stretch where
  frame : FrameNo
  n : Nat
  cause : Nat
  own : Bool := false                      -- this device raised a request for the frame (R372)
  deriving DecidableEq, Repr

/-- Indigo time, the servo, the time root, cadence and the alarm. -/
structure IndSt where
  ns : Word := 0
  frac : BitVec 16 := 0
  epoch : BitVec 48 := 0
  frame : BitVec 16 := 0
  slot : BitVec 12 := 0
  phase : BitVec 2 := 0
  pos : Word := 0                          -- IND_NOW_POS as latched (R349)
  epochL : Word := 0                       -- IND_EPOCH as latched
  frameStart : Nat := 0                    -- start(g) of the present frame, ns
  gap : Nat := 0                           -- its gap, ns
  lastSlot8 : Nat := 36                    -- slot length of the frame before, in eighths of a nanosecond (R403)
  theta : BitVec 32 := 0
  delay : BitVec 32 := 0
  state : BitVec 4 := 0
  parent : BitVec 4 := 0xF
  root : BitVec 15 := 0
  rootIdx : BitVec 3 := 0
  isRoot : Bool := false
  rootChanges : BitVec 8 := 0
  reparents : BitVec 8 := 0
  losses : BitVec 16 := 0
  roots : Vector (BitVec 16) 8 := Vector.replicate 8 0   -- IND_ROOT_n, VALID in bit 15 (R360)
  rootSeq : BitVec 8 := 0
  seqSeen : Bool := false                  -- ROOT_SEQ advanced in this frame
  seqLost : Nat := 0                       -- frames without an advance (R361)
  lostRoot : Option (Nat × BitVec 8) := none   -- the root declared lost, and its last ROOT_SEQ (R361)
  good : Nat := 0                          -- consecutive frames within the limit of the present state (R356)
  bad : Nat := 0                           -- consecutive frames above 0.75 ns
  noPort : Nat := 0                        -- consecutive frames without a usable port
  underRoot : Nat := 0                     -- frames LOCKED under the present root (R362)
  takeover : Bool := false                 -- this device announces its takeover (R362)
  announced : Option Nat := none           -- the device whose takeover at the next epoch boundary is announced (R362)
  heardRoot : Bool := false                -- a cell has shown the root of a hall that has formed (R360)
  slew : Int := 0                          -- the correction of this frame in 2^−16 ns, spread evenly (R355)
  devA : BitVec 16 := 0
  devB : BitVec 16 := 0
  failA : Bool := false
  failB : Bool := false
  deadA : Bool := false                    -- REFCLK_A lacks edges
  deadB : Bool := false
  sel : BitVec 2 := 0
  stretch : List Stretch := []             -- merged requests of frames to come
  fixed : List Stretch := []               -- frames whose n_g is fixed (R369)
  strA : Vector (BitVec 16) 4 := Vector.replicate 4 0    -- REFRESH, RETRY, DROOP, THERMAL (R372)
  overrun : BitVec 16 := 0
  carryAsked : FrameNo := 0                -- the newest frame for which a carried cell has requested a stretch (R366)
  units : BitVec 32 := 0
  ownCnt : BitVec 16 := 0
  sensor : List FrameNo := []              -- frames of the last 1,024 with an own droop or thermal request
  cadNow : BitVec 4 := 0
  cadNext : BitVec 4 := 0xF
  cadReq : BitVec 4 := 0
  cadChanges : BitVec 16 := 0
  cadSeen : Nat := 0                       -- CAD_REQ merged in this frame (R373)
  cadPrev : Nat := 0                       -- CAD_REQ merged in the frame that ended (R374)
  facOffset : Word := 0
  ptpPort : BitVec 4 := 0
  ptpValid : Bool := false
  alarmAt : Word := 0
  alarmFired : Bool := false
  alarmEn : Bool := false
  deriving DecidableEq, Repr

/-- A cell that a port keeps or has still to send: its plan reference and its 80 words. -/
structure CellRef where
  ctx : Nat
  win : Nat
  cell : Nat
  hop : Nat
  pass : Nat
  planFrame : Nat
  planSlot : Nat
  step : Nat := 0                          -- step number mod 4
  last : Bool := false
  deriving DecidableEq, Repr

/-- A cell in the port's store: when it was sent and how often it failed (R403). -/
structure SentCell where
  ref : CellRef
  frame : FrameNo
  slot : Nat
  words : List Word
  fails : Nat := 0
  origin : Option (Nat × FrameNo × Nat) := none   -- of a transit cell: the port it came in on, with its frame and slot
  deriving DecidableEq, Repr

/-- A transit cell held for its next hop (R402). -/
structure TransitCell where
  ref : CellRef
  words : List Word
  inPort : Nat
  inFrame : FrameNo
  inSlot : Nat
  due : Nat                                -- its next hop's position: frame × 4,096 + slot, 0 when it came late
  deriving DecidableEq, Repr

/-- One fabric port (R384, R385). -/
structure PortSt where
  peer : BitVec 15 := 0
  peerPort : BitVec 3 := 0
  mode : BitVec 2 := 0
  failed : Bool := false
  miscabled : Bool := false
  up : Bool := false
  linkMode : BitVec 2 := 0                 -- the mode in which the link came up (R381)
  tx : FrameNo × Nat := (0, 0)             -- frame, and the number of cells of it that have had their turn
  retries : BitVec 16 := 0
  fecUncorr : BitVec 16 := 0
  cellBad : BitVec 16 := 0
  hdrDiscard : BitVec 16 := 0
  fecCorr : Word := 0
  heardAt : Int := 0                       -- ns at which the latest valid cell came, or the link came up
  lastTx : BitVec 33 := 0                  -- TX_TIME of the latest cell received (ECHO_TX)
  lastRx : BitVec 33 := 0                  -- its arrival (ECHO_RX)
  thetas : List Int := []                  -- θ of this frame's cells, 2^−16 ns
  delays : List Int := []                  -- D of this frame's cells, 2^−16 ns
  sent : List SentCell := []
  acks : List (Nat × Nat) := []            -- acknowledgements owed: transmit frame and slot, oldest first
  naks : List (Nat × Nat) := []
  resend : List (Nat × Nat) := []          -- transmit frame and slot of cells named by NAKs
  up_ : Vector Word 8 := Vector.replicate 8 0xFFFFFFFFFFFFFFFF#64   -- UP last received, per context (R478)
  child : Bool := false
  peerState : BitVec 2 := 0                -- the partner's power state (R519)
  deriving DecidableEq, Repr

/-- A plan record (R401). -/
structure PlanRec where
  win : Nat
  cell : Nat
  hop : Nat
  dev : Nat
  port : Nat
  egress : Bool
  phi : Nat
  k : Nat
  deriving DecidableEq, Repr

/-- A device entry of the topology map (R392). -/
structure MapDev where
  dev : Nat
  coord : List Nat
  deriving DecidableEq, Repr

/-- A link entry of the topology map (R392). -/
structure MapLink where
  devA : Nat
  portA : Nat
  devB : Nat
  portB : Nat
  delay : Nat
  asym : Int
  deriving DecidableEq, Repr

/-- The topology map (R391). -/
structure TopoMap where
  header : List Word := []
  switched : Bool := false
  ndim : Nat := 0
  etherType : Nat := 0
  pcp : Nat := 0
  vid : Nat := 0
  sizes : List Nat := []
  ranges : List (Nat × Nat) := []          -- FIRST and COUNT per context
  devs : List MapDev := []
  links : List MapLink := []
  deriving DecidableEq, Repr

/-- A station of the image (R529). -/
structure Station where
  num : Nat
  ceiling : Nat
  digest : List Word
  deriving DecidableEq, Repr

/-- What the firmware applies from a good image (R556, R557, R559). -/
structure ImageCfg where
  device : Nat := 0
  rollback : Nat := 0
  ports : Nat := 0                         -- port speeds, word 1 of KEY 0x01
  pfc : Nat := 0
  addrs : List (Nat × List Word) := []     -- KEY 0x20–0x22 and 0x28–0x2A with their values
  stations : List Station := []
  publishers : List (List Word) := []
  rust : List (List Word) := []            -- receivers: address words and port
  map : TopoMap := {}
  deriving DecidableEq, Repr

/-- The fuses (R558). -/
structure Fuses where
  slotSet : BitVec 4 := 0
  revoked : BitVec 4 := 0
  recovSet : BitVec 2 := 0
  rollback : BitVec 7 := 0
  signer : Vector (List Word) 4 := Vector.replicate 4 [0, 0, 0, 0]
  recov : Vector (List Word) 2 := Vector.replicate 2 [0, 0, 0, 0]
  vendor : List Word := [0, 0, 0, 0]
  ident : List Word := [0, 0, 0, 0]
  deriving DecidableEq, Repr

/-- Boot and programming (R559, R564, R566). -/
structure BootSt where
  count : BitVec 32 := 0
  fail : BitVec 8 := 0
  phase : BitVec 4 := 0
  lateTime : Bool := false
  lateMem : Bool := false
  lateLink : Bool := false
  readyMs : BitVec 16 := 0
  progState : BitVec 2 := 0
  progFail : BitVec 6 := 0
  progBytes : BitVec 40 := 0
  unverified : Bool := false               -- a programming has begun and no PROG_END has verified it; kept over boots (R566)
  progLines : List Nat := []               -- lines written since PROG_BEGIN
  meas : Vector Word 12 := Vector.replicate 12 0
  fuses : Fuses := {}
  cfg : ImageCfg := {}
  good : Bool := false                     -- the image of this boot passed R560
  started : Int := 0                       -- ns of the start of the image read
  flashSize : Nat := 0x4000000             -- T of R554
  memTrained : Bool := false
  cleared : Bool := false
  hallOk : Bool := false                   -- R370 and R393 hold
  rebooting : Bool := false
  announced : Option Nat := none           -- ns of the last BOOT_ANNOUNCE
  deriving DecidableEq, Repr

/-- A held set point write (R503). -/
structure HeldV where
  d1 : BitVec 8
  d0 : BitVec 8
  at_ : Nat
  deriving DecidableEq, Repr

/-- The power-state transition in progress (R515, R516, R523, R524). -/
inductive Trans where
  | none
  | dimIn | dimOut
  | greyIn (clamped : Bool)
  | greyOut (refilled : Bool)              -- refilled: Bright at the next frame start (R523)
  | blackIn
  deriving DecidableEq, Repr

/-- Power (R497 to R524). -/
structure PwrSt where
  nominal : BitVec 16 := 0
  calib : BitVec 16 := 0
  avg : BitVec 16 := 0
  guard : Bool := false
  hot : Bool := false
  window : List Nat := []                  -- nominal estimates of the last 64 intervals, newest first
  lastInterval : Nat := 0                  -- the instant at which the last interval closed
  uj : Vector Word 8 := Vector.replicate 8 0
  ujFrac : Vector (BitVec 16) 8 := Vector.replicate 8 0
  ujDev : Word := 0
  ujDevFrac : BitVec 16 := 0
  vD1 : BitVec 8 := 160
  vD0 : BitVec 8 := 160
  fLevel : BitVec 4 := 0
  heldV : Option HeldV := none
  heldF : Option (BitVec 4 × Nat) := none
  heldCad : Bool := false                  -- the held level is a cadence change's, which does not expire (R504)
  heldReady : Bool := false                -- the rails have reached that level's set points
  boardMax : BitVec 16 := 0
  limit : BitVec 16 := 0
  guardLimit : BitVec 16 := 0              -- the LIMIT_W that the guard of the present interval uses (R505)
  guardIntervals : BitVec 32 := 0
  hotEvents : BitVec 16 := 0
  vfExpired : BitVec 8 := 0
  vfLate : BitVec 8 := 0
  frameAcc : Nat × Nat × Nat := (0, 0, 0)  -- this frame's intervals: count, nominal sum, core-rail sum
  frames : List (Nat × Nat) := []          -- mean nominal and core-rail estimates of the epoch's frames, newest first
  hotInEpoch : Bool := false
  droopEvents : BitVec 32 := 0
  droopLost : BitVec 32 := 0
  islands : Vector (Option Nat) 16 := Vector.replicate 16 none   -- cycles suppressed by the island's running event
  tjD0 : BitVec 16 := 0
  tjD1 : BitVec 16 := 0
  tjPeak : BitVec 16 := 0
  tjSeen : Bool := false                   -- a reading has been taken since boot (R510)
  tjMax : BitVec 16 := 0                   -- hottest reading of the last interval
  now : BitVec 2 := 0
  busy : Bool := false
  req : BitVec 2 := 0
  trans : Trans := .none
  exitAfter : Option Nat := none           -- a wake cause seen after the clamps of a Grey entry were set (R524)
  wakeCause : BitVec 8 := 0
  enAlarm : Bool := true
  enCell : Bool := true
  enSignal : Bool := false
  waves : Vector Nat 8 := Vector.replicate 8 0   -- ramp-down: 0 full rate, 1 quarter rate, 2 stopped (R513)
  ramp : Option Nat := none                -- the start of wave 0 of a ramp that runs
  isolated : Bool := true                  -- the compute domains' clamps are set (R522)
  greyAsked : FrameNo := 0                 -- the frame in which Grey was requested (R523)
  clamped : BitVec 2 := 0                  -- dies whose core rail fell below 0.55 V in the ramp-down (R585)
  retainMark : List (CoreId × Nat) := []   -- banks retained when Grey was requested (R225)
  wakeBright : Bool := false               -- a wake from Black has still to send its event (R520)
  wakeSend : Option (Nat × Bool × FrameNo) := none   -- wake cells: target, ALL and the frame that carries them (R519)
  deriving DecidableEq, Repr

/-- Supplies, feeds and pins (R571 to R587). -/
structure SupSt where
  rails : BitVec 12 := 0                   -- IN_WINDOW
  glitches : BitVec 16 := 0
  out : List (Nat × Int) := []             -- rails outside their window, and since when
  feed : Bool := false                     -- 0 MAIN, 1 BACKUP
  switches : BitVec 32 := 0
  holdup : Option Int := none              -- both feeds out since
  mainSince : Option Int := none           -- MAIN back in window since, while BACKUP feeds
  ramps : BitVec 16 := 0
  causes : BitVec 8 := 0
  faults : BitVec 2 := 0
  faultRail : BitVec 12 := 0
  faultAt : Option Int := none             -- the instant of a sequence fault that waits for its retry
  resetN : Bool := true
  powerFailN : Bool := true
  coolantN : Bool := true
  railsEn : Bool := true
  thermtripN : Bool := true
  aonUp : Bool := true                     -- the always-on domain has power
  railsAt : Int := 0                       -- when every rail of groups A to D was last found in window (R581)
  resetAt : Int := 0                       -- when RESET_N last rose
  aonAt : Int := 0                         -- when it last took a feed after having none
  sequencing : Bool := true                -- a power-up sequence runs and the device is held in reset (R581)
  deriving DecidableEq, Repr

/-- Sepia (R451 to R456). -/
structure SepSt where
  size : BitVec 16 := 0
  stall : Bool := false
  head : Word := 0
  floor : Word := 0
  records : BitVec 32 := 0
  overwritten : BitVec 16 := 0
  fineLost : BitVec 16 := 0
  base : Option Nat := none                -- the ring's place (R325)
  holes : List Nat := []                   -- the withheld granules that it skips, ascending
  index : List (Nat × Nat) := []           -- offset and lines of the records at or above FLOOR, oldest first
  account : Vector (BitVec 32) 8 := Vector.replicate 8 0
  mask : Vector (BitVec 32) 8 := Vector.replicate 8 0
  every : Vector (BitVec 32) 8 := Vector.replicate 8 0
  fineEn : Vector Bool 8 := Vector.replicate 8 false
  heldGen : Vector (BitVec 32) 8 := Vector.replicate 8 0
  skipped : Vector (BitVec 16) 8 := Vector.replicate 8 0
  held : Vector Bool 8 := Vector.replicate 8 false
  deriving DecidableEq, Repr

/-- A session (R529, R537, R538). -/
structure Session where
  station : StationId
  key : List Word
  via : Via := {}                          -- how the SESSION arrived (R525)
  high : Nat := 0
  recent : List (Nat × List Word) := []    -- SEQ and reply of the last 64 applied messages, newest first
  sent : Nat := 0
  deriving DecidableEq, Repr

/-- A pending claim (R533). -/
structure Claim where
  station : StationId
  prio : Nat
  at_ : Int
  deriving DecidableEq, Repr

/-- An event that waits for its acknowledgement (R547, R548). -/
structure Ev where
  seq : Nat
  code : Nat
  ctx : Option CtxId
  dropped : Nat
  ns : Nat
  step : Nat
  detail : List Word
  facility : Option Word := none           -- IND_FACILITY.OFFSET, where VALID was 1 (R377)
  sentAt : Option Int := none
  deriving DecidableEq, Repr

/-- A registered host window (R543, R544) and its admission (R433). -/
structure HostWin where
  win : Nat
  ctx : CtxId
  base : Nat
  len : Nat
  dir : Bool
  pubCtr : Nat
  readySeq : Nat := 0
  state : Nat := 0                         -- 0 open, 1 pending, 2 published
  rkey : Word := 0
  artefact : Bool := false                 -- submitted in an ADMIT
  admitted : Bool := false
  deriving DecidableEq, Repr

/-- Ownership and the message processor (R525 to R552). -/
structure HostSt where
  badMsg : BitVec 16 := 0
  changes : BitVec 16 := 0
  owner : Option StationId := none
  leaseEnd : Nat := 0
  sessions : List Session := []
  claims : List Claim := []
  electionAt : Option Nat := none          -- end of the election window
  events : List Ev := []                   -- oldest first
  lost : Nat := 0                          -- events dropped that no EVENTS_DROPPED has reported (R547)
  qps : List (Bool × Nat) := []            -- queue pairs of H0 and H1 (R528)
  evSeq : Nat := 0
  windows : List HostWin := []
  deriving DecidableEq, Repr

/-- The command part of a Rust record (R491): thread, index, body and operand fingerprints (operand, length, digest). -/
structure CmdSig where
  thread : Nat
  cmd : Nat
  body : List Word
  prints : List (Nat × Nat × BitVec 128)
  deriving DecidableEq, Repr

/-- What a Rust record will say, when the Renine controller makes it (R491). -/
structure RustReq where
  kind : Nat
  ctx : Option CtxId := none
  step : Option Nat := none
  attempt : Option Nat := none
  verdict : Option VerdictEnt := none
  sig : Option CmdSig := none
  core : Option Nat := none
  die : Option Nat := none
  bank : Option Nat := none
  column : Option Nat := none
  addr : Option Nat := none
  port : Option Nat := none
  medium : Option Nat := none
  detail : List Byte := []
  deriving DecidableEq, Repr

/-- A stored Rust record (R494). -/
structure RustRec where
  seq : Nat
  body : List Byte
  sig : List Byte
  acks : List Nat := []
  sentAt : Option Int := none
  deriving DecidableEq, Repr

/-- The Rust store (R494) and the watchdog (R496). -/
structure RustSt where
  seq : BitVec 32 := 0
  store : List RustRec := []               -- oldest first
  pending : List RustReq := []
  watchdog : Int := 0                      -- Indigo ns of the last restart
  wdRecord : Bool := false
  deriving DecidableEq, Repr

/-- A thread fault of an attempt (R53, R55, R56). -/
structure FaultRec where
  code : Nat
  thread : Nat
  cmd : Nat
  deriving DecidableEq, Repr

/-- Where a job's slabs, groups and buffers are bound (R258, R259, R326). -/
structure Binds where
  slabs : List SlabBind := []
  mirrors : List SlabBind := []
  cores : List (Nat × Nat) := []           -- group, core
  mirrorCores : List (Nat × Nat) := []
  bufs : List (Nat × Nat × Nat) := []      -- buffer, base, length
  deriving DecidableEq, Repr

/-- The step attempt, the vote and condemnation (R444, R476 to R488). -/
structure AttemptSt where
  t : Nat := 0
  a : Nat := 0
  started : Bool := false                  -- a START was accepted and the job has not ended
  startEpoch : Nat := 0
  first : Option FrameNo := none           -- first frame of the next attempt, once fixed
  live : Bool := false                     -- the attempt has started and has not been abandoned
  ended : Bool := false                    -- it has ended by R272
  endFrame : Option FrameNo := none        -- the frame in which R476's conditions first all held
  ready : Bool := false
  commitAt : Option (Nat × FrameNo) := none    -- DOWN key and commit frame C (R479)
  stepFrame : FrameNo := 0                 -- first frame of the running attempt
  causes : List Nat := []                  -- condemnation causes held for the attempt (R482)
  condemnAt : Option FrameNo := none       -- frame g whose freeze is the condemnation instant (R483)
  restored : Bool := false                 -- the run started from a restore (R445)
  replayRun : Bool := false                -- the attempt is a replay (R445)
  faults : List FaultRec := []
  faultNs : Option Nat := none             -- the instant of the attempt's first thread fault (R55)
  prevFaults : List FaultRec := []         -- the faults that the running replay answers (R56)
  replayed : Bool := false                 -- the owner's replay of a faulted attempt is used (R255)
  resumeSend : Option FrameNo := none      -- the frame in which the RESUME mark is sent (R390)
  resumeAt : Option FrameNo := none        -- the frame at whose start the resume takes effect (R254)
  resumeNs : Nat := 0                      -- last resume instant (R390)
  condNs : Nat := 0                        -- the freeze instant of the last condemnation (R483)
  haltAt : Option FrameNo := none          -- the first frame whose commit the latest halt or fault prevents (R480)
  toReplay : Bool := false                 -- the next attempt is one that an owner's replay starts (R255)
  digestHalt : Bool := false               -- a transit device sets HALT for the context: a plan digest mismatch or a failed link (R401, R403)
  down : Nat × FrameNo := (0, 0)           -- the latest DOWN: key, and commit frame (R478, R479)
  haltPend : Bool := false                 -- an owner halt that waits for a power-state transition (R516)
  deriving DecidableEq, Repr

/-- Deadlines and fallback (R279 to R283): the register values, and those in force in the running step. -/
structure DeadlineSt where
  waitLimit : BitVec 16 := 0x3FF
  deadline : BitVec 24 := 0
  fbHold : BitVec 8 := 0
  fbEn : Bool := false
  waitLimitA : BitVec 16 := 0x3FF
  deadlineA : BitVec 24 := 0
  fbHoldA : BitVec 8 := 0
  fbEnA : Bool := false
  misses : BitVec 32 := 0
  timeouts : BitVec 16 := 0
  holdLeft : BitVec 8 := 0
  stream : BitVec 1 := 0
  missed : Bool := false
  fbNext : Bool := false                   -- a miss has scheduled the fallback (R283)
  landWait : Nat := 0                      -- frame starts that a landing or a local serve has waited for an alternate (R421)
  stallWait : Nat := 0                     -- frame starts that a stalled or seal-bound start has waited (R452)
  deriving DecidableEq, Repr

/-- The ramp governor (R285 to R287). -/
structure RampSt where
  t0 : Option Nat := none                  -- T0 of the running ramp
  released : Vector Bool 8 := Vector.replicate 8 true
  fullRate : Vector Bool 8 := Vector.replicate 8 true
  onIssue : Bool := false                  -- the first issue after Dim or Grey triggers a ramp (R285)
  deriving DecidableEq, Repr

/-- Weights and versions (R416 to R426). -/
structure WeightSt where
  gen : BitVec 32 := 0
  pins : List PinState := []
  shards : List ShardState := []
  nextWaits : List (Nat × Nat × Nat) := []     -- thread and command that wait, and the shard whose NEXT view they name (R421)
  restoreList : List (Nat × Word) := []    -- shards restored and the VERSION of their images (R542)
  artefacts : List (List Word × Word) := []    -- admitted while no record was open: the next record's (R433)
  scrubStep : Nat := 0                     -- steps committed since the last digest scrub pass (R429)
  deriving DecidableEq, Repr

/-- Shade and fine-Tint settings: the registers of R461, and the values in force in the attempt (R454, R461). -/
structure SelectSt where
  fraction : BitVec 3 := 0
  seed : Word := 0
  fractionA : BitVec 3 := 0
  seedA : Word := 0
  fineAccount : BitVec 32 := 0
  fineMask : BitVec 32 := 0
  fineEn : Bool := false
  every : BitVec 32 := 0
  deriving DecidableEq, Repr

/-- A cell at its last hop whose bytes cannot land yet: the port and the transmit position to acknowledge, its plan record and its
words (R216, R404, R421). -/
structure HeldCell where
  port : Nat
  txFrame : FrameNo
  txSlot : Nat
  plan : PlanRec
  flow : Option FlowInfo
  words : List Word
  deriving DecidableEq, Repr

/-- The context's exchange: its plan (R400, R401) and its windows in the running step (R402 to R410). -/
structure ExchSt where
  plan : List PlanRec := []
  planDig : List Word := []
  planBad : Bool := false                  -- the plan computation had no majority (R471)
  planAt : FrameNo := 0                    -- the frame in which a third computation of the plan finishes (R468)
  rx : List (Nat × List Word) := []        -- plan digests received with the job's program digest: epoch, digest
  counts : List ((Nat × Nat) × Nat) := []  -- window and pass: bytes sent (R402)
  landed : List (Nat × Nat × Nat) := []    -- window, cell and pass received in the step
  waiting : List HeldCell := []            -- cells whose landing waits, in order of arrival
  passed : List (Nat × Nat × Nat) := []    -- window, cell and pass received for their next hop (R403)
  lastAt : List (Nat × Nat) := []          -- window and the cell that carried LAST
  push : List (Nat × List (Nat × Byte)) := []     -- bytes placed into the windows that this device sends
  filled : List (Nat × Nat × Nat) := []    -- window, first byte and end of bytes placed in the step
  ends : List (Nat × Nat) := []            -- window, byte at which a command's stream ended
  sent : List (Nat × Nat × Nat) := []      -- window, cell and pass sent
  acked : List (Nat × Nat) := []           -- window and cell acknowledged (R245)
  doneLast : List (Nat × Nat) := []        -- window and LAST cell whose signals were applied (R404)
  applied : List Nat := []                 -- windows whose signals were applied in the step (R404)
  looseCnt : List (Nat × Nat) := []        -- expert ROWS address, rows kept by arrival (R409)
  inFlow : List (Nat × List (Nat × Byte)) := []    -- bytes received of XE flows
  wrote : List (Nat × Nat) := []           -- window and the shard whose NEXT view it wrote in the step (R423)
  flowRows : List (Nat × Nat) := []        -- window and row of the stream that the XE has placed (R408 to R410)
  masks : List (Nat × Word) := []          -- combine area and MASK reference of each XSEND of the step (R410)
  rets : List ((Nat × Nat) × (Nat × Int × Nat)) := []    -- chain and stage: last return word, KIND, s, repeat count (R200)
  chainOut : List ((Nat × Nat × Nat) × List Word) := []  -- window, cell and pass of chain words to send (R599)
  chainIn : List ((Nat × Nat × Nat) × List Word) := []   -- the same of control words received (R200)
  deriving DecidableEq, Repr

/-- One context. -/
structure Ctx where
  state : BitVec 8 := 0
  priv : Bool := false
  borrow : Bool := false
  loose : Bool := false
  scatter : BitVec 32 := 0
  overflow : BitVec 32 := 0
  cntRead : BitVec 32 := 0
  job : Option Job := none
  transit : Option Job := none             -- declarations loaded for the fabric sequencer only (R394)
  ranges : List (Nat × Nat) := []
  b : Binds := {}
  ctrs : List CtrState := []
  stamp : Nat := 0                         -- signal instants seen in the step
  threads : List ThreadRun := []
  runs : List Run := []
  v : AttemptSt := {}
  w : WeightSt := {}
  record : Option OpenRec := none
  shut : List ShutRec := []                -- closed records that are not yet in the ring, oldest first
  unstarted : List ShutRec := []           -- records of attempts that were condemned before they started: they follow the open one (R484)
  verdicts : List VerdictEnt := []         -- entries of R489 raised while their record is not open: the next record takes them
  prevAnchor : List Word := [0, 0, 0, 0]
  ramp : RampSt := {}
  dl : DeadlineSt := {}
  sel : SelectSt := {}
  x : ExchSt := {}
  deriving DecidableEq, Repr

end Sys2Proof.Machine
end

