-- ==== Sys2Proof/Machine/State.lean ====
section
/-! DEFINITION. The state of the device: everything the spec gives it, as plain data, with the queue of commands that
wait and the log of what left the device; the state after reset; the reasons a step can stop. -/

namespace Sys2Proof.Machine

/-- The head of a cell's Ethernet frame (R382): destination and source address, on a switched rail the PCP and VID of its
802.1Q tag, and the EtherType. -/
structure EthHead where
  dst : BitVec 48
  src : BitVec 48
  tag : Option (Nat × Nat)
  etherType : BitVec 16
  deriving DecidableEq, Repr

/-- What leaves the device (log entry 9): a Zyndy message to a station, by its port and family and from the device's address there (R525), a Rust record to a receiver, an announcement,
an RDMA answer, and the cells of the fabric ports in their Ethernet frames. -/
inductive OutMsg where
  | zyndy (via : Via) (src : List Word) (station : StationId) (header body : List Word) (tag : List Byte)
  | rust (receiver : Nat) (seq : Nat) (cbor : List Byte)
  | announce (header body : List Word)
  | rdmaAck (h1 : Bool) (qp prio win : Nat) (data : List Byte)
  | rdmaNak (h1 : Bool) (qp prio win : Nat)
  | cell (port : PortId) (head : EthHead) (words : List (BitVec 80))
  deriving DecidableEq, Repr

/-- Reasons for a fault. No command of the model raises one: a fault the manual names is a state (R53). -/
inductive Fault where
  /-- Raised by nobody; safe, because the model goes on wherever the manual gives an effect. -/
  | none
  deriving DecidableEq, Repr

/-- Reasons for a refusal. -/
inductive Refusal where
  /-- Raised by an arm of exec that has no meaning yet; safe, because the model stops. -/
  | notModelled (mnemonic : String)
  deriving DecidableEq, Repr

/-- The weight scrubber's registers (R431). -/
structure WScrubSt where
  steps : BitVec 16 := 0x0040
  minutes : BitVec 16 := 0x000A
  en : Bool := true
  passes : BitVec 32 := 0
  mismatch : BitVec 16 := 0
  abandoned : BitVec 16 := 0
  last : Nat := 0                          -- ns of the last pass's start
  scope : Option (List (CtxId × Nat × Nat)) := none    -- the buffers of the pass that has started: context, shard, buffer
  deriving DecidableEq, Repr

/-- The device. `mem` and `flash` list only the bytes that differ from what an unlisted address reads as: 0 for memory
and 0xFF for the flash (log entries 4 and 5). `out` is what left the device, newest first. `free` counts the free
values used (log entry 8; the model's own field). -/
structure State where
  pending : List Instr := []
  out : List OutMsg := []
  free : Nat := 0
  mem : List (Nat × Byte) := []
  flash : List (Nat × Byte) := []
  transit : List TransitCell := []
  bankLost : List ((Nat × Requester) × Nat × Nat) := []   -- bank and requester: consecutive cycles lost, and the last of them
  ind : IndSt := {}
  host : HostSt := {}
  rust : RustSt := {}
  boot : BootSt := {}
  pwr : PwrSt := {}
  sup : SupSt := {}
  sep : SepSt := {}
  scrub : ScrubSt := {}
  wscrub : WScrubSt := {}
  fab : Vector PortSt 8 := Vector.replicate 8 {}
  dies : Vector DieSt 2 := Vector.replicate 2 {}
  cores : Vector CoreSt 128 := Vector.replicate 128 {}
  ctxs : Vector Ctx 8 := Vector.replicate 8 {}
  deriving DecidableEq, Repr

/-- The device right after reset: every field at the value the spec gives, or the value a log entry names. -/
def State.reset : State := {}

/-- What an unlisted memory address reads as: a cleared line reads as zeros (R206; HBM and DDR5: log entry 4). -/
def memDefault : Byte := 0

/-- What an unlisted flash address reads as: an erased NOR flash (log entry 5). -/
def flashDefault : Byte := 0xFF

end Sys2Proof.Machine
end

