-- ==== Sys2Proof/Machine/Mem.lean ====
section
/-! DEFINITION. Memory as a sorted list of the bytes that differ from a default, and the address map (R30 to R32,
R205, R317, R320, R321). -/

namespace Sys2Proof.Machine

/-- `n` bytes from address `a` of a list of cells whose first address is at least `a`. -/
def memRun (d : Byte) : Nat → Nat → List (Nat × Byte) → List Byte
  | 0, _, _ => []
  | n + 1, a, [] => d :: memRun d n (a + 1) []
  | n + 1, a, (k, b) :: rest =>
    if k = a then b :: memRun d n (a + 1) rest else d :: memRun d n (a + 1) ((k, b) :: rest)

/-- Read one byte. -/
def memGet (d : Byte) (m : List (Nat × Byte)) (a : Nat) : Byte :=
  match m.find? (fun c => c.1 == a) with
  | some c => c.2
  | none => d

/-- Read `n` bytes from address `a`. -/
def memRead (d : Byte) (m : List (Nat × Byte)) (a n : Nat) : List Byte :=
  memRun d n a (m.dropWhile fun c => c.1 < a)

/-- The cells of bytes written from address `a`: none for a byte equal to the default. -/
def memCells (d : Byte) : Nat → List Byte → List (Nat × Byte)
  | _, [] => []
  | a, b :: bs => if b = d then memCells d (a + 1) bs else (a, b) :: memCells d (a + 1) bs

/-- Write bytes from address `a`, keeping the canonical form. -/
def memWrite (d : Byte) (m : List (Nat × Byte)) (a : Nat) (bs : List Byte) : List (Nat × Byte) :=
  m.filter (fun c => c.1 < a) ++ memCells d a bs ++ m.filter (fun c => a + bs.length ≤ c.1)

/-- Return `n` bytes from address `a` to the default. -/
def memErase (m : List (Nat × Byte)) (a n : Nat) : List (Nat × Byte) :=
  m.filter fun c => c.1 < a || a + n ≤ c.1

/-- The canonical form: addresses strictly rising, no entry equal to the default. -/
def memWf (d : Byte) : List (Nat × Byte) → Bool
  | [] => true
  | (a, b) :: rest => b != d && rest.all (fun c => a < c.1) && memWf d rest

/-- Read `n` bytes of memory. -/
def State.readB (s : State) (a n : Nat) : List Byte := memRead memDefault s.mem a n

/-- Read a 64-bit little-endian word. -/
def State.readW (s : State) (a : Nat) : Word := BitVec.ofNat 64 (leNat (s.readB a 8))

/-- Write bytes to memory. -/
def State.writeB (s : State) (a : Nat) (bs : List Byte) : State := { s with mem := memWrite memDefault s.mem a bs }

/-- Clear `n` bytes. -/
def State.clearB (s : State) (a n : Nat) : State := { s with mem := memErase s.mem a n }

/-- Apply a list of writes in order. -/
def State.writeAll (s : State) (ws : List (Nat × List Byte)) : State :=
  ws.foldl (fun s w => s.writeB w.1 w.2) s

/-- Base of core scratchpad c (R30). -/
def spadBase (c : Nat) : Nat := 0x100000000000 + c * 0x02000000

/-- Base of region staging memory r. -/
def stgBase (r : Nat) : Nat := 0x100100000000 + r * 0x02000000

/-- Base of fabric pool d. -/
def poolBase (d : Nat) : Nat := 0x100200000000 + d * 0x04000000

/-- Base of the DDR5 window. -/
def ddrBase : Nat := 0x10000000000

/-- Base of control space. -/
def ctlBase : Nat := 0x1F0000000000

/-- Bytes of one die's HBM half (R31): 432 GiB. -/
def hbmHalf : Nat := 0x6C00000000

/-- 2 MiB, a granule (R326). -/
def granule : Nat := 0x200000

/-- Bytes of a bank (R205). -/
def bankBytes : Nat := 0x80000

/-- What a local address names (R30): memory of a kind with its unit and bank, control space, or nothing. -/
inductive Place where
  | hbm (d : DieId)
  | ddr (d : DieId) (channel : Nat)
  | spad (c : CoreId) (b : Nat)
  | stg (r : Fin 16) (b : Nat)
  | pool (d : DieId) (b : Nat)
  | control
  | hole
  deriving DecidableEq, Repr

/-- The channel capacity Cc of the populated DDR5 window in bytes, 0 when unpopulated (R320). The window of 8 TiB holds at most
512 GiB of each channel (R30). -/
def ddrCc (s : State) : Nat :=
  let chs := s.dies.toList.flatMap fun d => d.ddr.toList
  if chs.all (fun c => c.trained && c.cap != 0) then
    min 512 ((minOver (fun (c : DdrCh) => c.cap.toNat) chs).getD 0) * 0x40000000
  else 0

/-- Bytes of the populated DDR5 window (R320). -/
def ddrBytes (s : State) : Nat := 16 * ddrCc s

/-- Where an HBM address lies (R31, R318): die, stack, stack-local address, channel of the stack and pseudo-channel. -/
structure HbmSite where
  die : Nat
  stack : Nat
  addr : Nat
  channel : Nat
  pseudo : Nat
  deriving DecidableEq, Repr

/-- The site of an HBM address. -/
def hbmSite (a : Nat) : HbmSite :=
  let d := a / hbmHalf
  let o := a % hbmHalf
  let l := o / 4096 / 6 * 4096 + o % 4096
  { die := d, stack := 6 * d + o / 4096 % 6, addr := l, channel := l / 4096 % 32, pseudo := l / 64 % 2 }

/-- Where a DDR5 address lies (R321): die, channel, subchannel and channel-local address. -/
structure DdrSite where
  die : Nat
  channel : Nat
  sub : Nat
  addr : Nat
  deriving DecidableEq, Repr

/-- The site of a DDR5 address, for a channel capacity (R320, R321). -/
def ddrSite (cc a : Nat) : DdrSite :=
  let o := a - ddrBase
  let d := if o < 8 * cc then 0 else 1
  let o := o - d * (8 * cc)
  { die := d, channel := 8 * d + o / 4096 % 8, sub := o / 64 % 2, addr := o / 32768 * 4096 + o % 4096 }

/-- The remote form of a local address of a device (R30). -/
def remoteForm (dev a : Nat) : Nat := 2 ^ 63 + dev % 32768 * 2 ^ 48 + a % 2 ^ 48

/-- What a 64-bit address names (R30, R32): a local address, also where its remote form names this device; memory of another
device, which only fabric windows reach; or control space by a remote form, which is refused. -/
inductive Named where
  | here (a : Nat)
  | remote (dev a : Nat)
  | refused
  deriving DecidableEq, Repr

/-- Is an address in control space? -/
def inControl (a : Nat) : Bool := decide (ctlBase ≤ a) && decide (a ≤ ctlBase + 0xFFFFFFFF)

/-- Resolve a 64-bit address on a device (R32). -/
def resolveAddr (dev a : Nat) : Named :=
  if a < 2 ^ 63 then .here a
  else if inControl (a % 2 ^ 48) then .refused
  else if a / 2 ^ 48 % 32768 = dev then .here (a % 2 ^ 48)
  else .remote (a / 2 ^ 48 % 32768) (a % 2 ^ 48)

/-- The place of a local address (R30, R31, R321). -/
def placeOf (s : State) (a : Nat) : Place :=
  if a < 2 * hbmHalf then
    if a < hbmHalf then (if s.dies[0].hbmOk then .hbm 0 else .hole)
    else (if s.dies[1].hbmOk then .hbm 1 else .hole)
  else if a < ddrBase then .hole
  else if a < ddrBase + ddrBytes s then
    let x := ddrSite (ddrCc s) a
    .ddr (if x.die = 0 then 0 else 1) x.channel
  else if a < 0x100000000000 then .hole
  else if a < 0x100100000000 then
    let o := a - 0x100000000000
    let c := o / 0x02000000
    if h : c < 128 then (if o % 0x02000000 < 0x01C00000 then .spad ⟨c, h⟩ (o % 0x02000000 / bankBytes) else .hole)
    else .hole
  else if a < 0x100200000000 then
    let o := a - 0x100100000000
    let r := o / 0x02000000
    if h : r < 16 then (if o % 0x02000000 < 0x01800000 then .stg ⟨r, h⟩ (o % 0x02000000 / bankBytes) else .hole)
    else .hole
  else if a < 0x100300000000 then
    let o := a - 0x100200000000
    let d := o / 0x04000000
    if h : d < 2 then .pool ⟨d, h⟩ (o % 0x04000000 / bankBytes) else .hole
  else if inControl a then .control
  else .hole

/-- The channel of a DRAM address, HBM channels counted 32 to a stack (R318, R321); none for another place. -/
def dramChannel (s : State) (a : Nat) : Option (Medium × Nat) :=
  match placeOf s a with
  | .hbm _ => let x := hbmSite a; some (.hbm, x.stack * 32 + x.channel)
  | .ddr _ ch => some (.ddr, ch)
  | _ => none

/-- The die that holds a place. -/
def Place.die : Place → Option DieId
  | .hbm d => some d
  | .ddr d _ => some d
  | .spad c _ => some (dieOf c)
  | .stg r _ => some ⟨r.val / 8, by have := r.isLt; omega⟩
  | .pool d _ => some d
  | .control => none
  | .hole => none

/-- The base address of the bank at a place, for on-chip memory. -/
def Place.bankBase : Place → Option Nat
  | .spad c b => some (spadBase c.val + b * bankBytes)
  | .stg r b => some (stgBase r.val + b * bankBytes)
  | .pool d b => some (poolBase d.val + b * bankBytes)
  | _ => none

/-- Is a range populated HBM or populated DDR5 as a whole? -/
def dramRange (s : State) (a n : Nat) : Bool :=
  let inside (lo len : Nat) : Bool := lo ≤ a && a + n ≤ lo + len
  (s.dies[0].hbmOk && s.dies[1].hbmOk && inside 0 (2 * hbmHalf)) || (s.dies[0].hbmOk && inside 0 hbmHalf) ||
  (s.dies[1].hbmOk && inside hbmHalf hbmHalf) || inside ddrBase (ddrBytes s)

end Sys2Proof.Machine
end

