-- ==== Sys2Proof/Machine/Ops.lean ====
section
/-! DEFINITION. The named operations over the state: its parts, Indigo instants, events, Rust requests, context states,
thread and context faults, halt marks and condemnations. -/

namespace Sys2Proof.Machine

/-! ### The parts of the state -/

/-- Context n. -/
def State.ctx (s : State) (n : CtxId) : Ctx := s.ctxs[n.val]

/-- Change context n. -/
def State.modCtx (s : State) (n : CtxId) (f : Ctx → Ctx) : State := { s with ctxs := upd s.ctxs n f }

/-- Core c. -/
def State.core (s : State) (c : CoreId) : CoreSt := s.cores[c.val]

/-- Change core c. -/
def State.modCore (s : State) (c : CoreId) (f : CoreSt → CoreSt) : State := { s with cores := upd s.cores c f }

/-- Die d. -/
def State.die (s : State) (d : DieId) : DieSt := s.dies[d.val]

/-- Change die d. -/
def State.modDie (s : State) (d : DieId) (f : DieSt → DieSt) : State := { s with dies := upd s.dies d f }

/-- Fabric port p. -/
def State.port (s : State) (p : PortId) : PortSt := s.fab[p.val]

/-- Change fabric port p. -/
def State.modPort (s : State) (p : PortId) (f : PortSt → PortSt) : State := { s with fab := upd s.fab p f }

/-- Change every core. -/
def State.allCores (s : State) (f : CoreSt → CoreSt) : State := { s with cores := s.cores.map f }

/-- Change both dies. -/
def State.allDies (s : State) (f : DieSt → DieSt) : State := { s with dies := s.dies.map f }

/-- Change every context. -/
def State.allCtxs (s : State) (f : Ctx → Ctx) : State := { s with ctxs := s.ctxs.map f }

/-- The cores in ascending order. -/
def allCoreIds : List CoreId := List.finRange 128

/-- The contexts in ascending order. -/
def allCtxIds : List CtxId := List.finRange 8

/-- The ports in ascending order. -/
def allPortIds : List PortId := List.finRange 8

/-- The core with a number, when there is one. -/
def coreId? (c : Nat) : Option CoreId := if h : c < 128 then some ⟨c, h⟩ else none

/-- A core number below 128, reduced. -/
def coreOf (c : Nat) : CoreId := ⟨c % 128, Nat.mod_lt _ (by decide)⟩

/-- A context number below 8, reduced. -/
def ctxOf (n : Nat) : CtxId := ⟨n % 8, Nat.mod_lt _ (by decide)⟩

/-- A port number below 8, reduced. -/
def portOf (n : Nat) : PortId := ⟨n % 8, Nat.mod_lt _ (by decide)⟩

/-- Add an outgoing message to the log. -/
def State.emit (s : State) (m : OutMsg) : State := { s with out := m :: s.out }

/-- Take a free value: the next opaque word, and the state with the counter advanced (log entry 8). -/
def State.takeFree (s : State) : Word × State := (Config.freeWord s.free, { s with free := s.free + 1 })

/-- The bank state of an on-chip place (R210, R211). -/
def ownOf (s : State) : Place → Option BankOwn
  | .spad c b => (s.core c).own.toList[b]?
  | .stg r b => ((s.die ⟨r.val / 8, by have := r.isLt; omega⟩).stg.toList[r.val % 8]?).bind fun v => v.toList[b]?
  | .pool d b => (s.die d).pool.toList[b]?
  | _ => none

/-- Change the bank state of an on-chip place. -/
def modOwn (s : State) (p : Place) (f : BankOwn → BankOwn) : State :=
  match p with
  | .spad c b => if h : b < 56 then s.modCore c fun k => { k with own := upd k.own ⟨b, h⟩ f } else s
  | .stg r b =>
    if h : b < 48 then
      s.modDie ⟨r.val / 8, by have := r.isLt; omega⟩ fun d =>
        { d with stg := upd d.stg ⟨r.val % 8, Nat.mod_lt _ (by decide)⟩ fun v => upd v ⟨b, h⟩ f }
    else s
  | .pool d b => if h : b < 128 then s.modDie d fun k => { k with pool := upd k.pool ⟨b, h⟩ f } else s
  | _ => s

/-- The owner that an access to a bank is checked against: the old one until a change takes effect (R216). -/
def BankOwn.checkedOwner (o : BankOwn) : Option CtxId :=
  match o.arb with
  | some w => w
  | none => if o.valid then some o.ctx else none

/-- Does context n own the bank of an on-chip place (R208)? While a bank is being cleared its new owner waits, also before the
change of owner takes effect (R216). -/
def ownsBank (s : State) (n : CtxId) (p : Place) : Bool :=
  match ownOf s p with
  | some o => !o.disabled && (o.checkedOwner == some n || (o.busy && o.valid && o.ctx == n))
  | none => false

/-- Is the bank of an on-chip place being cleared (R215)? -/
def bankBusy (s : State) (p : Place) : Bool :=
  match ownOf s p with
  | some o => o.busy
  | none => false

/-! ### Indigo instants (R347, R363, R364, R369) -/

/-- Indigo nanoseconds. -/
def nsNow (s : State) : Nat := s.ind.ns.toNat

/-- The present frame as one number. -/
def frameNow (s : State) : FrameNo := s.ind.epoch.toNat * 65536 + s.ind.frame.toNat

/-- Does the hall run in 800 Gb/s mode (R363, R381)? -/
def slowMode (s : State) : Bool := s.fab.toList.any fun p => p.mode == 2

/-- The slot length of a level in eighths of a nanosecond (R363). -/
def slot8At (level : Nat) (slow : Bool) : Nat :=
  ([36, 40, 45, 60, 90].getD level 90) * (if slow then 2 else 1)

/-- The slot length of the present level in eighths of a nanosecond. -/
def slot8 (s : State) : Nat := slot8At s.ind.cadNow.toNat (slowMode s)

/-- Length in ns of a frame's 4,096 slots. -/
def frameLen (s : State) : Nat := 512 * slot8 s

/-- The start of the next frame (R364). -/
def nextStart (s : State) : Nat := s.ind.frameStart + s.ind.gap + frameLen s

/-- close(f + 1) of the present frame f: 512 slots before the next frame's start (R369). -/
def nextClose (s : State) : Nat := nextStart s - 64 * slot8 s

/-- freeze(f + 1): 32 slots before the next frame's start (R369). -/
def nextFreeze (s : State) : Nat := nextStart s - 4 * slot8 s

/-- The first frame g with close(g) at or after now (R369, R483). -/
def openFrame (s : State) : FrameNo := if nsNow s ≤ nextClose s then frameNow s + 1 else frameNow s + 2

/-- The first frame g with freeze(g) at or after now (R370, R480). -/
def frozenFrame (s : State) : FrameNo := if nsNow s ≤ nextFreeze s then frameNow s + 1 else frameNow s + 2

/-- Has close(g) passed? -/
def closedFrame (s : State) (g : FrameNo) : Bool := g < openFrame s

/-- Does the device take part in jobs: LOCKED or REPARENT (R356)? -/
def takesPart (s : State) : Bool := s.ind.state == 1 || s.ind.state == 2

/-- The part of the frame's slew that is due a number of ns into the frame, in 2^−16 ns (R355). -/
def slewDue (s : State) (off : Nat) : Int :=
  let len := s.ind.gap + frameLen s
  Int.tdiv (s.ind.slew * (min off len : Nat)) len

/-- The slot and phase at a number of nanoseconds into a frame (R349, R364). -/
def posAt (s : State) (ns : Nat) : Nat × Nat :=
  let off := ns - s.ind.frameStart
  if off < s.ind.gap then (0, 0)
  else
    let k := min ((off - s.ind.gap) * 8 / slot8 s) 4095
    (k, if k < 3968 then 1 else 2)

/-- Step Indigo time to an instant in 2^−16 ns. The lease, claims, the election window, resends, the watchdog and the
supply timers measure durations, so their instants move with it (R356, R518), those before the new time's zero to negative ones. -/
def setTime (t : Nat) (s : State) : State :=
  let old := nsNow s
  let new := t / 65536
  let mv (x : Int) : Int := x + new - old
  let h := s.host
  let u := s.sup
  { s with
    ind := { s.ind with ns := BitVec.ofNat 64 new, frac := BitVec.ofNat 16 (t % 65536) }
    host := { h with
      leaseEnd := (mv h.leaseEnd).toNat, electionAt := h.electionAt.map fun x => (mv x).toNat
      claims := h.claims.map fun c => { c with at_ := mv c.at_ }
      events := h.events.map fun e => { e with sentAt := e.sentAt.map mv } }
    rust := { s.rust with
      watchdog := mv s.rust.watchdog, store := s.rust.store.map fun r => { r with sentAt := r.sentAt.map mv } }
    boot := { s.boot with started := mv s.boot.started }
    fab := s.fab.map fun p => { p with heardAt := mv p.heardAt }
    sup := { u with
      out := u.out.map fun (x : Nat × Int) => (x.1, mv x.2), holdup := u.holdup.map mv
      mainSince := u.mainSince.map mv, faultAt := u.faultAt.map mv, railsAt := mv u.railsAt, resetAt := mv u.resetAt
      aonAt := mv u.aonAt } }

/-! ### Events and Rust requests -/

/-- The step that an event of a context names: its pending attempt's t (R548). -/
def stepOf (s : State) (n : Option CtxId) : Nat :=
  match n with
  | some n => (s.ctx n).v.t
  | none => 0

/-- Queue an event for the owner (R547). With 4,096 waiting, the oldest is dropped and this event carries the number. -/
def raiseEvent (code : Nat) (n : Option CtxId) (detail : List Word) (s : State) : State :=
  let h := s.host
  let full := 4096 ≤ h.events.length
  let e : Ev := { seq := h.evSeq + 1, code, ctx := n, dropped := if full then 1 else 0, ns := nsNow s,
                  step := stepOf s n, detail, facility := if s.ind.ptpValid then some s.ind.facOffset else none }
  { s with host := { h with
    events := (if full then h.events.drop 1 else h.events) ++ [e], evSeq := h.evSeq + 1, lost := if full then h.lost + 1 else h.lost } }

/-- Ask the Renine controller for a Rust record (R490). -/
def raiseRust (r : RustReq) (s : State) : State :=
  { s with rust := { s.rust with pending := s.rust.pending ++ [r] } }

/-- A Rust request about a context's pending attempt. -/
def ctxRust (kind : Nat) (n : CtxId) (s : State) : RustReq :=
  { kind, ctx := some n, step := some (s.ctx n).v.t, attempt := some (s.ctx n).v.a }

/-! ### Context states (R253) -/

/-- Clear ME_DBG_CTRL.EN where it inspects a context that leaves STATE 0x03 (R126). -/
def clearDebug (n : CtxId) (s : State) : State :=
  s.allCores fun k => if k.dbgCtx = n then { k with dbgEn := false } else k

/-- Bring STATE to a value, with the CTX_STATE event that names the cause. -/
def setMode (n : CtxId) (new cause : Nat) (s : State) : State :=
  let old := (s.ctx n).state.toNat
  if old = new then s
  else
    let s := if old = 3 then clearDebug n s else s
    raiseEvent evCtxState (some n) [put cause 16 ||| put old 8 ||| put new 0]
      (s.modCtx n fun c => { c with state := BitVec.ofNat 8 new })

/-- The channels of a core that belong to a context and hold work. -/
def chansOf (k : CoreSt) (n : CtxId) : List (Fin 16) :=
  (List.finRange 16).filter fun i => k.chan[i.val].valid && k.chan[i.val].ctx == n

/-! ### Issued commands and channels -/

/-- The issued command of a thread and index. -/
def findRun (s : State) (n : CtxId) (thread cmd : Nat) : Option Run :=
  (s.ctx n).runs.find? fun r => r.thread == thread && r.cmd == cmd

/-- Change an issued command. -/
def modRun (n : CtxId) (thread cmd : Nat) (f : Run → Run) (s : State) : State :=
  s.modCtx n fun c => { c with runs := modFirst (fun r => r.thread == thread && r.cmd == cmd) f c.runs }

/-- The opcode of a command: byte 7 of its body (R264). -/
def Run.opcode (r : Run) : Nat := fld (wd r.body 0) 63 56

/-- The channel of a DMA command (R232). -/
def Run.chan (r : Run) : Fin 16 := ⟨fld (wd r.body 0) 55 52 % 16, Nat.mod_lt _ (by decide)⟩

/-- Change a channel's state. -/
def modChan (core : CoreId) (ch : Fin 16) (f : DmaStat → DmaStat) (s : State) : State :=
  s.modCore core fun k => { k with dma := upd k.dma ch f }

/-- A channel stops: its residue names the descriptor in progress and how much of it was written, and its holding contents are
discarded (R247, R248, R250). -/
def chanStop (n : CtxId) (core : CoreId) (ch : Fin 16) (cause : Nat) (s : State) : State :=
  let d := (s.core core).dma[ch.val]
  let p : DmaPart := match d.queue.head?.bind fun (x : Nat × Nat) => findRun s n x.1 x.2 with
    | some r => r.part.getD { idx := 0, bytes := 0, ref := if r.opcode = 0x60 then wd r.body 1 else 0 }
    | none => { idx := 0, bytes := 0, ref := 0 }
  let s := s.modCtx n fun c => { c with runs := c.runs.filter fun r => !(d.queue.contains (r.thread, r.cmd)) }
  modChan core ch (fun d => { d with
    state := 4, cmd := 0, cause := BitVec.ofNat 8 cause, ref := p.ref, bytes := BitVec.ofNat 40 p.bytes
    index := BitVec.ofNat 16 p.idx, queue := [], hold := [], pendingWins := [] }) s

/-- Pause the context's DMA channels: validating and running become paused (R248). -/
def pauseDma (n : CtxId) (s : State) : State :=
  s.allCores fun k => (chansOf k n).foldl (fun k i =>
    { k with dma := upd k.dma i fun d => if d.state = 1 || d.state = 2 then { d with state := 3 } else d }) k

/-- Had the running command of a channel begun to read when it paused? Until then it validates (R247). -/
def chanBegan (s : State) (n : CtxId) (d : DmaStat) : Bool :=
  match d.queue.head?.bind fun (x : Nat × Nat) => findRun s n x.1 x.2 with
  | some r => r.part.isSome
  | none => false

/-- Continue the context's paused DMA channels (R248). -/
def resumeDma (n : CtxId) (s : State) : State :=
  s.allCores fun k => (chansOf k n).foldl (fun k i =>
    { k with dma := upd k.dma i fun d => if d.state = 3 then { d with state := if chanBegan s n d then 2 else 1 } else d }) k

/-- Halt a running context: STATE 0x03, its channels pause (R253, R128, R248). -/
def haltCtx (n : CtxId) (cause : Nat) (received : Bool) (s : State) : State :=
  if (s.ctx n).state = 2 then
    let s := setMode n 3 cause s
    let g := if received then frozenFrame s else openFrame s
    let s := s.modCtx n fun c => { c with v := { c.v with haltAt := some (min g (c.v.haltAt.getD g)) } }
    pauseDma n s
  else s

/-- A halt mark of this device, for a cause other than its own thread fault (R253, R390). -/
def haltMark (n : CtxId) (s : State) : State := haltCtx n 3 false s

/-- Mark job halt for every running context. -/
def haltAll (s : State) : State := allCtxIds.foldl (fun s n => haltMark n s) s

/-! ### The end of a step attempt in its record (R445 to R449) -/

/-- Where a slab is bound, in the group's own binding or in its mirror. -/
def slabBindOf (c : Ctx) (mir : Bool) (slab : Nat) : Option SlabBind :=
  match (if mir then c.b.mirrors.find? (fun b => b.slab == slab) else none) with
  | some b => some b
  | none => c.b.slabs.find? fun b => b.slab == slab

/-- The reference that a word holds. -/
def Ref.ofWord (w : Word) : Ref := { space := fld w 63 62, num := fld w 61 40, off := fld w 39 0 }

/-- The 64 bytes at the job's tag reference (R447). -/
def tagBytes (s : State) (c : Ctx) : List Byte :=
  let r := Ref.ofWord ((c.job.map (·.tagRef)).getD 0)
  match slabBindOf c false r.num with
  | some b => s.readB (b.base + r.off) 64
  | none => List.replicate 64 0

/-- MEM_REFRESH of a die (R346). -/
def refreshBits (d : DieSt) : Nat := d.ddr2x.toNat * 2 ^ 24 + d.hbm2x.toNat * 2 ^ 16 + d.changes.toNat

/-- The attempt of an open record ends now: its end instant, the tag bytes and the refresh rates of the step's end are kept
(R445, R447, R449). A record whose attempt has ended stays as it is. -/
def endStep (s : State) (c : Ctx) (r : OpenRec) : OpenRec :=
  if r.endNs.isSome then r
  else { r with
    endNs := some (nsNow s), tag := tagBytes s c, refresh := s.dies.toList.map refreshBits }

/-- Close the step part of the pending attempt's record with a status, when that record is open (R445). A record whose attempt
has committed is left as it is. -/
def markRecord (n : CtxId) (status : Nat) (s : State) : State :=
  s.modCtx n fun c => { c with record := c.record.map fun r =>
    if r.t = c.v.t ∧ r.attempt = c.v.a then { endStep s c r with status := status } else r }

/-- Did a halt or a condemnation in time keep the attempt from its commit at a frame (R480)? -/
def commitBarred (v : AttemptSt) (cf : FrameNo) : Bool :=
  (match v.haltAt with | some g => decide (g ≤ cf) | none => false) ||
  (match v.condemnAt with | some g => decide (g ≤ cf) | none => false)

/-- Does a cause raised now come after close(C) of an attempt that commits at C (R480, R488)? -/
def afterClose (s : State) (n : CtxId) : Bool :=
  match (s.ctx n).v.commitAt with
  | some (_, cf) => closedFrame s cf && !commitBarred (s.ctx n).v cf
  | none => false

/-- Pending host windows of a context open again (R544). -/
def reopenWindows (n : CtxId) (s : State) : State :=
  { s with host := { s.host with windows := s.host.windows.map fun w =>
      if w.ctx = n && w.state = 1 then { w with state := 0 } else w } }

/-- STATE 0x04 with the halt that the other devices see (steps 2 and 3 of R53). A faulted attempt's pending host windows open
again, unless its commit is already decided (R480, R544). -/
def faultCtx (n : CtxId) (s : State) : State :=
  let st := (s.ctx n).state
  if st = 2 || st = 3 then
    let s := setMode n 4 5 s
    let s := s.modCtx n fun c => { c with v := { c.v with
      haltAt := some (min (openFrame s) (c.v.haltAt.getD (openFrame s))) } }
    let s := if afterClose s n then s else reopenWindows n s
    markRecord n 2 (pauseDma n s)
  else s

/-- A fault of the context itself, with its event (steps 2 to 4 of R53; R260, R471, R485). -/
def ctxFault (n : CtxId) (code : Nat) (s : State) : State :=
  raiseEvent evCtxFault (some n) [put code 56] (faultCtx n s)

/-- Does a context still take part in the running cycle: it runs, or its first thread fault came at this very instant (R55)? -/
def runsNow (s : State) (n : CtxId) : Bool :=
  (s.ctx n).state == 2 || ((s.ctx n).state == 4 && (s.ctx n).v.faultNs == some (nsNow s))

/-- The six words of a fault, put among those of its cycle in ascending thread and command (R55). -/
def insertFault (ws l : List Word) : List Word :=
  let key (x : List Word) : Nat × Nat := ((x.getD 0 0).toNat % 2 ^ 32, (x.getD 1 0).toNat % 2 ^ 32)
  (sortBy (fun a b => decide ((key a).1 < (key b).1) || ((key a).1 == (key b).1 && decide ((key a).2 ≤ (key b).2)))
    (chunks 6 l ++ [ws])).flatten

/-- Report a thread fault: the faults of one context in one cycle share one event (R55). -/
def faultEvent (n : CtxId) (ws : List Word) (s : State) : State :=
  let same (e : Ev) : Bool := e.code == evThreadFault && e.ctx == some n && e.ns == nsNow s && e.sentAt.isNone
  if s.host.events.any same then
    { s with host := { s.host with events := modFirst same (fun e => { e with detail := insertFault ws e.detail }) s.host.events } }
  else raiseEvent evThreadFault (some n) ws s

/-- A thread fault (R53): the thread halts, the context faults, and the owner learns the code, the thread, the command
and the datum. PROGRAM is set when the fault recurs in a replay that the owner ordered (R56). A command faults once. `need` is the
REQ of a wait that timed out (R281); word 1 has room for it above CMD (log entry 54). -/
def threadFaultReq (n : CtxId) (thread cmd code : Nat) (datum : Word) (dma : List Word) (need : Nat) (s : State) : State :=
  let c := s.ctx n
  if c.v.faults.contains { code, thread, cmd } then s
  else
  let core := (c.threads.find? fun t => t.thread == thread).map (·.core)
  let rec_ : FaultRec := { code, thread, cmd }
  let w0 := put code 56 ||| putB (c.v.prevFaults.contains rec_) 55 ||| putB core.isSome 54 |||
    put (core.getD 0) 32 ||| put thread 0
  let s := s.modCtx n fun c => { c with
    threads := c.threads.map fun t => if t.thread = thread then { t with halted := true } else t
    v := { c.v with faults := c.v.faults ++ [rec_], faultNs := c.v.faultNs.or (some (nsNow s)) } }
  faultEvent n ([w0, put need 32 ||| put cmd 0, datum] ++ (if dma.isEmpty then [0, 0, 0] else dma)) (faultCtx n s)

/-- A thread fault that is no wait's (R53). -/
def threadFault (n : CtxId) (thread cmd code : Nat) (datum : Word) (dma : List Word) (s : State) : State :=
  threadFaultReq n thread cmd code datum dma 0 s

/-! ### Condemnation (R482, R483, R488) -/

/-- The 8 words of a VERDICTS entry (R489). -/
def verdictWords (e : VerdictEnt) : List Word :=
  let dw (d : BitVec 128) : List Word := [BitVec.ofNat 64 (d.toNat % 2 ^ 64), BitVec.ofNat 64 (d.toNat >>> 64)]
  [put e.cause 56 ||| put e.outcome 52 ||| put e.primary 40 ||| put e.checker 32 ||| put e.third 24 ||| put e.role 16,
   put e.thread 32 ||| put e.cmd 0] ++ dw e.digP ++ dw e.digC ++ dw e.digT

/-- Add an entry to the VERDICTS section of the pending attempt's record; where that record is not open, the next record takes the
entry (R489). -/
def addVerdict (n : CtxId) (e : VerdictEnt) (s : State) : State :=
  s.modCtx n fun c => match c.record with
    | some r =>
      if r.t = c.v.t ∧ r.attempt = c.v.a then { c with record := some { r with verdicts := r.verdicts ++ [e] } }
      else { c with verdicts := c.verdicts ++ [e] }
    | none => { c with verdicts := c.verdicts ++ [e] }

/-- Is an attempt pending that a cause can condemn: one of the job here, or of a job that the device only forwards for (R477, R481)? -/
def attemptPending (c : Ctx) : Bool :=
  if c.job.isSome then c.v.started && (c.state = 2 || c.state = 3 || c.state = 4) else c.transit.isSome

/-- A cause after close(C): job halt, a CONDEMN_LATE record and event (R488). -/
def condemnLate (n : CtxId) (cause : Nat) (s : State) : State :=
  raiseEvent evCondemnLate (some n) [put cause 0]
    (raiseRust { ctxRust ruCondemnLate n s with detail := [BitVec.ofNat 8 cause] } (haltMark n s))

/-- Raise a condemnation of the pending attempt (R483). The entry is that of the verdict, or one with outcome 5. -/
def condemn (n : CtxId) (cause : Nat) (entry : Option VerdictEnt) (s : State) : State :=
  if !attemptPending (s.ctx n) then s
  else if afterClose s n then condemnLate n cause s
  else
    let s := match entry with
      | some _ => s
      | none => if (s.ctx n).job.isSome then addVerdict n { cause, outcome := 5 } s else s
    s.modCtx n fun c => { c with v := { c.v with
      causes := if c.v.causes.contains cause then c.v.causes else c.v.causes ++ [cause]
      condemnAt := match c.v.condemnAt with | some g => some g | none => some (openFrame s) } }

/-! ### Small shared pieces -/

/-- Has a bring-up row's limit, in ms from the start of the image read, gone by before READY (R562, R563)? -/
def bootLate (ms : Nat) (s : State) : Bool :=
  2 ≤ s.boot.phase.toNat && s.boot.phase.toNat ≤ 5 && decide (s.boot.started + ms * 1000000 < nsNow s)

/-- Is the device able to run work: Bright (R514)? -/
def isBright (s : State) : Bool := s.pwr.now == 0

/-- A group's core in a context's bindings. -/
def groupCore (c : Ctx) (g : Nat) : Option Nat := assocGet g c.b.cores

/-- The thread descriptor of a thread. -/
def threadDesc (c : Ctx) (t : Nat) : Option ThreadDesc := (c.job.map (·.threads)).getD [] |>.find? fun d => d.thread == t

/-- The device's own number (R555). -/
def devNum (s : State) : Nat := s.boot.cfg.device

/-- The other end of a device's port, with the link's nominal delay in 0.5 ns: device, port, delay. -/
def linkAt (m : TopoMap) (dev port : Nat) : Option (Nat × Nat × Nat) :=
  match m.links.find? fun l => l.devA == dev && l.portA == port with
  | some l => some (l.devB, l.portB, l.delay)
  | none => (m.links.find? fun l => l.devB == dev && l.portB == port).map fun l => (l.devA, l.portA, l.delay)

/-- Next state. -/
abbrev ok (s : State) : Host.Outcome State Fault Refusal := .next s

end Sys2Proof.Machine
end

