-- ==== Sys2Proof/Machine/Tint.lean ====
section
/-! DEFINITION. The tile digest of R437 and R438. -/

namespace Sys2Proof.Machine

/-- Multiplication by x in GF(2^128) with x^128 + x^7 + x^2 + x + 1; bit i is the coefficient of x^i (R438). -/
def gf128Double (a : BitVec 128) : BitVec 128 := if a.msb then (a <<< 1) ^^^ 0x87 else a <<< 1

/-- Multiplication in GF(2^128), over the low `n` bits of the second factor. -/
def gf128MulAux : Nat → BitVec 128 → BitVec 128 → BitVec 128
  | 0, _, _ => 0
  | n + 1, a, b => (if b.getLsbD 0 then a else 0) ^^^ gf128MulAux n (gf128Double a) (b >>> 1)

/-- gf_mul of R438. -/
def gf128Mul (a b : BitVec 128) : BitVec 128 := gf128MulAux 128 a b

/-- The digest key H of an account in step t (R437). -/
def tintKey (J : List (BitVec 32)) (t account : Nat) : BitVec 128 :=
  let msg : List Byte := [0x54, 0x49, 0x4E, 0x54] ++ (List.range 4).flatMap (fun i => leBytes 4 (J.getD i 0).toNat)
    ++ leBytes 8 t ++ leBytes 4 account
  let h := BitVec.ofNat 128 (leNat (shake256 16 msg))
  if h = 0 then 1 else h

/-- The coordinate block C of R438. -/
def tintCoord (thread cmd role len : Nat) : BitVec 128 :=
  BitVec.ofNat 128 (((thread % 2 ^ 32) <<< 96) + ((cmd % 2 ^ 32) <<< 64) + ((role % 256) <<< 56) + len % 2 ^ 56)

/-- The coordinate block of a DMA descriptor's stream (R439, ROLE 0x09). -/
def tintCoordDma (thread cmd desc len : Nat) : BitVec 128 :=
  BitVec.ofNat 128 (((thread % 2 ^ 32) <<< 96) + ((cmd % 2 ^ 32) <<< 64) + (0x09 <<< 56)
    + ((desc % 65536) <<< 40) + len % 2 ^ 40)

/-- tile_digest of R438 over a byte stream. -/
def tileDigest (h c : BitVec 128) (stream : List Byte) : BitVec 128 :=
  (chunks 16 stream).foldl (fun y b => gf128Mul (y ^^^ BitVec.ofNat 128 (leNat b)) h) (gf128Mul c h)

end Sys2Proof.Machine
end

