-- ==== Sys2Proof/Machine/Operands.lean ====
section
/-! DEFINITION. Operand references: slabs and tiles of the scratchpad engines (R98, R104, R257, R591, R67), and the
references of the movers with buffers, views and windows (R19, R23, R30 to R33, R234, R417, R421). -/

namespace Sys2Proof.Machine

/-- The result of a check before issue or at an access: a value, or a fault code with its datum (R52). -/
abbrev Chk (α : Type) := Except (Nat × Word) α

/-- A check that faults with a code when it fails. -/
def req (b : Bool) (code : Nat) : Chk Unit := if b then .ok () else .error (code, 0)

/-- A check whose fault names a resolved address (R549). -/
def reqAt (b : Bool) (code a : Nat) : Chk Unit := if b then .ok () else .error (code, BitVec.ofNat 64 a)

/-- The execution that an operand is read for: the command, its group and core, and whether it is the mirror's. -/
structure EC where
  s : State
  n : CtxId
  mir : Bool
  thread : Nat
  cmd : Nat
  grp : Nat
  core : Nat

/-- The context of an execution. -/
def EC.ctx (e : EC) : Ctx := e.s.ctx e.n

/-- The execution of a command by its thread on the bound core, or on the mirror's. -/
def ecOf (s : State) (n : CtxId) (mir : Bool) (thread cmd : Nat) : EC :=
  let c := s.ctx n
  let g := ((threadDesc c thread).map (·.group)).getD 0
  { s, n, mir, thread, cmd, grp := g,
    core := (assocGet g (if mir then c.b.mirrorCores else c.b.cores)).getD 0 }

/-- Are all banks of an on-chip range owned by context n and in service (R208)? -/
def ownedRange (s : State) (n : CtxId) (a len : Nat) : Bool :=
  let k0 := a / bankBytes
  (List.range ((a + len - 1) / bankBytes + 1 - k0)).all fun i => ownsBank s n (placeOf s ((k0 + i) * bankBytes))

/-- Is a bank of an on-chip range being cleared (R215)? -/
def busyRange (s : State) (a len : Nat) : Bool :=
  let k0 := a / bankBytes
  (List.range ((a + len - 1) / bankBytes + 1 - k0)).any fun i => bankBusy s (placeOf s ((k0 + i) * bankBytes))

/-- A read of a check: it waits while a bank of the range is being cleared (R216). -/
def readable (e : EC) (a len : Nat) : Chk Unit := if busyRange e.s a len then .error (flWait, 0) else .ok ()

/-! ### What the bank arbiter answers at an access (R208, R216) -/

/-- The answer to the accesses of a command: they are served, they wait for a bank that is being cleared, or one of them
falls on a bank that the context does not own. -/
inductive BankAnswer where
  | served
  | waits
  | foreign (addr : Nat)
  deriving DecidableEq, Repr

/-- The on-chip banks that a range touches. -/
def banksIn (s : State) (a len : Nat) : List Nat :=
  let k0 := a / bankBytes
  (((List.range ((a + len - 1) / bankBytes + 1 - k0)).map fun i => (k0 + i) * bankBytes).filter fun b =>
    (placeOf s b).bankBase.isSome)

/-- The answer to accesses of context n to ranges of addresses. Only on-chip banks have owners. -/
def bankAnswer (s : State) (n : CtxId) (rs : List (Nat × Nat)) : BankAnswer :=
  let bs := rs.flatMap fun r => if r.2 = 0 then [] else banksIn s r.1 r.2
  match bs.find? fun b => !ownsBank s n (placeOf s b) with
  | some b => .foreign b
  | none => if bs.any fun b => bankBusy s (placeOf s b) then .waits else .served

/-- The ranges of a list of writes. -/
def writeRanges (ws : List (Nat × List Byte)) : List (Nat × Nat) := ws.map fun w => (w.1, w.2.length)

/-! ### Scratchpad operands -/

/-- An operand reference of R98. -/
structure OpRef where
  slab : Nat
  line : Nat
  hdr : Bool
  rsv : Bool
  pitch : Nat
  deriving DecidableEq, Repr

/-- The reference that a word holds (R98). -/
def OpRef.ofWord (w : Word) : OpRef :=
  { slab := fld w 63 42, line := fld w 41 22, hdr := bit w 21, rsv := bit w 20, pitch := fld w 19 0 }

/-- The address of a line range of a slab of the thread's own group (R257, R98), with the checks of R116. A check of a range that
is being cleared waits (R216). -/
def scratch (e : EC) (slab line bytes : Nat) : Chk Nat :=
  match slabBindOf e.ctx e.mir slab with
  | none => .error (flDescBounds, 0)
  | some b => do
    reqAt (b.kind == 0 && b.group == e.grp) flDescBounds (b.base + line * 64)
    reqAt (decide (line * 64 + bytes ≤ b.lines * 64)) flSlabOverrun (b.base + line * 64)
    reqAt (ownedRange e.s e.n (b.base + line * 64) (max bytes 1)) flDescBounds (b.base + line * 64)
    readable e (b.base + line * 64) (max bytes 1)
    .ok (b.base + line * 64)

/-- The end address of a tile's bytes. -/
def Tile.endAddr (t : Tile) : Nat :=
  let e := t.row0 + (t.rows - 1) * t.stride + rowBytes t.code t.cols
  if fmtMX t.code then max e (t.scale0 + (t.rows - 1) * t.sstride + t.cols / 32) else e

/-- The first address of a tile: its header line, or row 0. -/
def Tile.start (t : Tile) : Nat := if t.hdr.isSome then t.row0 - 64 else t.row0

/-- The range of addresses that a tile's bytes lie in. -/
def Tile.range (t : Tile) : Nat × Nat := (t.start, t.endAddr - t.start)

/-- A headered tile at a line of a slab (R63, R64, R67). -/
def headTile (e : EC) (slab line code rows cols : Nat) : Chk Tile := do
  let a ← scratch e slab line 64
  let h := TileHdr.ofWords (bytesToWords (e.s.readB a 64))
  req (h.ok code rows cols) flFormatMismatch
  let rowEnd := 64 + (rows - 1) * h.stride + rowBytes code cols
  let scEnd := if fmtMX code then h.scaleOff + (rows - 1) * h.scaleStride + cols / 32 else 0
  let _ ← scratch e slab line (max rowEnd scEnd)
  .ok { code, rows, cols, row0 := a + 64, stride := h.stride, scale0 := a + h.scaleOff, sstride := h.scaleStride,
        hdr := some h }

/-- A headerless tile: rows every PITCH lines (R98). -/
def bareTile (e : EC) (slab line pitch code rows cols : Nat) : Chk Tile := do
  req (!fmtMX code) flFormatMismatch
  let a ← scratch e slab line ((rows - 1) * pitch * 64 + rowBytes code cols)
  .ok { code, rows, cols, row0 := a, stride := pitch * 64 }

/-- A one-tile operand (R98, R104). R98 gives a headered one-tile operand PITCH 0, and R116 names no fault for another
value: PITCH is not read there (log entry 43). -/
def tileIn (e : EC) (w : Word) (code rows cols : Nat) : Chk Tile := do
  let r := OpRef.ofWord w
  req (!r.rsv && fmtValid code && decide (1 ≤ cols)) flFormatMismatch
  req (!fmtMX code || cols % 32 == 0) flFormatMismatch
  if r.hdr then headTile e r.slab r.line code rows cols else bareTile e r.slab r.line r.pitch code rows cols

/-- The tiles of a headered panel: tile i holds rows 128 i on, `PITCH` lines after the tile before it (R104). -/
def panelTiles (e : EC) (r : OpRef) (code k cols : Nat) : Nat → Nat → Chk (List Tile)
  | 0, _ => .ok []
  | m + 1, i => do
    let t ← headTile e r.slab (r.line + i * r.pitch) code (min 128 (k - 128 * i)) cols
    let ts ← panelTiles e r code k cols m (i + 1)
    .ok (t :: ts)

/-- A panel operand whose rows run along K (R104). -/
def panelIn (e : EC) (w : Word) (code k cols : Nat) : Chk (List Tile) := do
  let r := OpRef.ofWord w
  req (!r.rsv && fmtValid code) flFormatMismatch
  req (!fmtMX code || cols % 32 == 0) flFormatMismatch
  if r.hdr then do
    req (decide (k ≤ 128) || r.pitch != 0) flFormatMismatch
    panelTiles e r code k cols (ceilDiv k 128) 0
  else do
    let t ← bareTile e r.slab r.line r.pitch code k cols
    .ok [t]

/-- The encodings of row r of a tile. -/
def tileRaw (s : State) (t : Tile) (r : Nat) : List Nat :=
  unpackRow (fmtBits t.code) t.cols (s.readB (t.row0 + r * t.stride) (rowBytes t.code t.cols))

/-- The scale bytes of row r of an MX tile. -/
def tileScales (s : State) (t : Tile) (r : Nat) : List Nat :=
  if fmtMX t.code then (s.readB (t.scale0 + r * t.sstride) (t.cols / 32)).map (·.toNat) else []

/-- The values of row r of a tile. -/
def tileRow (s : State) (t : Tile) (r : Nat) : List Num := decodeRow t.code (tileRaw s t r) (tileScales s t r)

/-- The grid pairs of row r of a tile of format 0xB. -/
def tilePairs (s : State) (t : Tile) (r : Nat) : List GPair := (tileRaw s t r).map GPair.ofNat

/-- Every row of a tile or panel as values. -/
def tilesRows (s : State) (ts : List Tile) : List (List Num) := ts.flatMap fun t => (List.range t.rows).map (tileRow s t)

/-- The largest MAXEXP of a panel's tiles (R104). -/
def tilesExp (ts : List Tile) : Option Int := ts.foldl (fun m t => maxExpO m (t.hdr.bind (·.maxexp))) none

/-- May header mode read these tiles: headered and SEALED (R67)? -/
def tilesSealed (ts : List Tile) : Bool := ts.all fun t => match t.hdr with | some h => h.sealed | none => false

/-- Swap rows and columns of a list of equally long rows. -/
def transposeL {α : Type} (cols : Nat) (d : α) (rows : List (List α)) : List (List α) :=
  (List.range cols).map fun j => rows.map fun r => r.getD j d

/-! ### Tile outputs (R591) -/

/-- Bytes from the first line of an output to the end of its last row or scale row (R591). -/
def outBytes (hdr : Bool) (code rows cols p : Nat) : Nat :=
  let rowsEnd := (if hdr then 64 else 0) + (rows - 1) * p * 64 + rowBytes code cols
  if fmtMX code then max rowsEnd (64 + rows * p * 64 + (rows - 1) * scaleStrideOf cols + cols / 32) else rowsEnd

/-- The form of a tile output's reference: the reserved bit, PITCH against the row length, and an MX output's header
(R98, R591, R62). -/
def outForm (w : Word) (code cols : Nat) : Bool :=
  let r := OpRef.ofWord w
  !r.rsv && (r.pitch == 0 || decide (rowLines code cols ≤ r.pitch)) && (!fmtMX code || (r.hdr && cols % 32 == 0))

/-- Check and place a tile output (R591, R62). -/
def outPlace (e : EC) (w : Word) (code rows cols : Nat) : Chk OutPlace := do
  let r := OpRef.ofWord w
  let l := rowLines code cols
  req (outForm w code cols) flFormatMismatch
  let p := if r.pitch = 0 then l else r.pitch
  let a ← scratch e r.slab r.line (outBytes r.hdr code rows cols p)
  .ok { addr := a, hdr := r.hdr, pitch := p }

/-- The range of a tile output of a shape. -/
def OutPlace.range (p : OutPlace) (code rows cols : Nat) : Nat × Nat := (p.addr, outBytes p.hdr code rows cols p.pitch)

/-- The writes of a tile output in the order of R439: header, rows, scale rows. -/
def outWrites (p : OutPlace) (code : Nat) (hdr : TileHdr) (rows scales : List (List Nat)) : List (Nat × List Byte) :=
  let row0 := p.addr + (if p.hdr then 64 else 0)
  let h := if p.hdr then [(p.addr, hdr.bytes)] else []
  let rs := rows.zipIdx.map fun (r, i) => (row0 + i * p.pitch * 64, packRow (fmtBits code) r)
  let sc := if fmtMX code then scales.zipIdx.map fun (r, i) =>
    (p.addr + hdr.scaleOff + i * hdr.scaleStride, r.map (BitVec.ofNat 8)) else []
  h ++ rs ++ sc

/-- The digest stream of writes (R439). -/
def streamOf (ws : List (Nat × List Byte)) : List Byte := ws.flatMap (·.2)

/-! ### Tint (R436 to R440) -/

/-- The account of a command and the thread and command of its coordinate (R436). -/
def tintOf (c : Ctx) (thread cmd : Nat) : Nat × Nat × Nat :=
  match ((c.job.map (·.tints)).getD []).find? (fun t => t.thread == thread && decide (t.first ≤ cmd) && decide (cmd ≤ t.last)) with
  | some t => (t.account, if t.alias_ then (t.asThread, t.asCmd + (cmd - t.first)) else (thread, cmd))
  | none => (0x6FFFFFFF, thread, cmd)

/-- The job key as four 32-bit words (R161). -/
def jobKey (c : Ctx) : List (BitVec 32) := ((c.job.map (·.key)).getD []).map (BitVec.ofNat 32)

/-- The tile digest of one output role of a command (R438). -/
def roleDigest (c : Ctx) (thread cmd role : Nat) (stream : List Byte) : TintOut :=
  let (acct, th, cm) := tintOf c thread cmd
  { role, low := stream.length,
    digest := tileDigest (tintKey (jobKey c) c.v.t acct) (tintCoord th cm role stream.length) stream }

/-- The digest of one DMA descriptor's stream (R439, ROLE 0x09). -/
def dmaDigest (c : Ctx) (thread cmd desc : Nat) (stream : List Byte) : TintOut :=
  let (acct, th, cm) := tintOf c thread cmd
  { role := 0x09, low := desc * 2 ^ 40 + stream.length,
    digest := tileDigest (tintKey (jobKey c) c.v.t acct) (tintCoordDma th cm desc stream.length) stream }

/-! ### References of the movers (R234) -/

/-- The word of a reference. -/
def Ref.word (r : Ref) : Word := put r.space 62 ||| put r.num 40 ||| put r.off 0

/-- A reference moved by a number of bytes. -/
def Ref.add (r : Ref) (k : Nat) : Ref := { r with off := r.off + k }

/-- The shard whose READ view has a number (R415). -/
def readShard (c : Ctx) (num : Nat) : Option ShardDesc := ((c.job.map (·.shards)).getD []).find? fun d => d.read == num

/-- The shard with a NEXT view of a number. -/
def nextShard (c : Ctx) (num : Nat) : Option ShardDesc :=
  ((c.job.map (·.shards)).getD []).find? fun d => d.next == num && !d.frozen

/-- The state of a shard. -/
def shardOf (c : Ctx) (shard : Nat) : Option ShardState := c.w.shards.find? fun x => x.shard == shard

/-- The pin whose thread range holds a thread (R416). -/
def pinOf (c : Ctx) (thread : Nat) : Option PinDesc :=
  ((c.job.map (·.pins)).getD []).find? fun p => decide (p.tFirst ≤ thread) && decide (thread ≤ p.tLast)

/-- The buffer index that was current at a generation (R417). -/
def curAt (x : ShardState) (g : Nat) : Nat :=
  match x.hist.find? (fun h => decide (h.1 ≤ g)) with
  | some h => h.2
  | none => x.cur

/-- The buffer number that a SPACE 1 number resolves to for a thread, none standing for a serve window's reference. A
shard's physical buffers are reached only through its views (R415, R417, R421). -/
def viewBuf (c : Ctx) (thread : Option Nat) (num : Nat) : Option Nat :=
  match readShard c num with
  | some d =>
    match shardOf c d.shard with
    | some x =>
      let held := thread.bind fun t => (pinOf c t).bind fun p => c.w.pins.find? fun h => h.pin == p.pin
      d.bufs[match held with | some h => curAt x h.gen | none => x.cur]?
    | none => none
  | none =>
    match nextShard c num with
    | some d => (shardOf c d.shard).bind fun x => x.alt.bind fun i => d.bufs[i]?
    | none =>
      if ((c.job.map (·.shards)).getD []).any fun d => d.bufs.contains num then none else some num

/-- Does a reference wait for an alternate buffer (R421)? -/
def refWaits (c : Ctx) (r : Ref) : Bool :=
  r.space == 1 && (readShard c r.num).isNone && (match nextShard c r.num with
    | some d => (match shardOf c d.shard with
      | some x => x.alt.isNone
      | none => false)
    | none => false)

/-- Do ranges (base, length) cover the addresses from `a` to `e`? The fuel is the number of ranges and one more. -/
def coversTo (ranges : List (Nat × Nat)) (e : Nat) : Nat → Nat → Bool
  | 0, a => decide (e ≤ a)
  | f + 1, a =>
    if e ≤ a then true
    else match ranges.find? fun r => decide (r.1 ≤ a) && decide (a < r.1 + r.2) with
      | some r => coversTo ranges e f (r.1 + r.2)
      | none => false

/-- Is a DRAM range inside the context's assigned ranges (R23, R600)? -/
def inRanges (c : Ctx) (a len : Nat) : Bool := coversTo c.ranges (a + len) (c.ranges.length + 1) a

/-- Is a resolved local range usable by a context: owned banks, or populated DRAM of its ranges (R23, R30, R33)? -/
def usable (s : State) (n : CtxId) (a len : Nat) : Bool :=
  match placeOf s a with
  | .hbm _ => dramRange s a len && inRanges (s.ctx n) a len
  | .ddr _ _ => dramRange s a len && inRanges (s.ctx n) a len
  | .control => false
  | .hole => false
  | _ => ownedRange s n a len

/-- The registered host window of a context (R543). -/
def hostWin (s : State) (n : CtxId) (win : Nat) : Option HostWin :=
  s.host.windows.find? fun w => w.ctx == n && w.win == win

/-- The local address of `len` bytes at a reference of SPACE 0, 1 or 3 for a thread (R234, R240). -/
def refAddr (s : State) (n : CtxId) (mir : Bool) (thread : Option Nat) (r : Ref) (len : Nat) : Chk Nat :=
  let c := s.ctx n
  match r.space with
  | 0 =>
    match slabBindOf c mir r.num with
    | none => .error (flDescBounds, 0)
    | some b => do
      reqAt (decide (r.off + len ≤ b.lines * 64)) flSlabOverrun (b.base + r.off)
      reqAt (usable s n (b.base + r.off) (max len 1)) flDescBounds (b.base + r.off)
      .ok (b.base + r.off)
  | 1 =>
    match (viewBuf c thread r.num).bind fun k => assocGet k c.b.bufs with
    | none => .error (flDescBounds, 0)
    | some (base, size) => do
      reqAt (decide (r.off + len ≤ size)) flSlabOverrun (base + r.off)
      reqAt (usable s n (base + r.off) (max len 1)) flDescBounds (base + r.off)
      .ok (base + r.off)
  | 3 =>
    match hostWin s n r.num with
    | none => .error (flDescBounds, 0)
    | some w => do
      reqAt (decide (r.off + len ≤ w.len)) flSlabOverrun (w.base + r.off)
      reqAt (usable s n (w.base + r.off) (max len 1)) flDescBounds (w.base + r.off)
      .ok (w.base + r.off)
  | _ => .error (flDescBounds, 0)

/-- Where bytes that arrive for a reference land: an access to a bank of another owner, or of none, is a BANK_OWNER fault (R208). -/
def landAddr (s : State) (n : CtxId) (r : Ref) (len : Nat) : Chk Nat :=
  match refAddr s n false none r len with
  | .ok a => .ok a
  | .error e => .error (if e.1 = flDescBounds && e.2 != 0 && !(banksIn s e.2.toNat (max len 1)).isEmpty then flBankOwner else e.1, e.2)

/-- The context's bytes at a local reference, for the fabric sequencer (R405): they wait for an alternate and for a bank's clear, and
a bank of another owner, or of none, is a BANK_OWNER fault (R208, R216, R421). -/
def serveAddr (s : State) (n : CtxId) (r : Ref) (len : Nat) : Chk Nat :=
  if refWaits (s.ctx n) r then .error (flWait, 0)
  else do
    let a ← landAddr s n r len
    match bankAnswer s n [(a, len)] with
    | .served => .ok a
    | .waits => .error (flWait, 0)
    | .foreign b => .error (flBankOwner, BitVec.ofNat 64 b)

/-- The mirror's copy of a slab that bytes land in: both executions read what arrived (R312; log entry 54). -/
def mirrorAddr (c : Ctx) (r : Ref) : Option Nat :=
  if r.space = 0 then (c.b.mirrors.find? fun b => b.slab == r.num).map fun b => b.base + r.off else none

/-- Does a range meet a host window that is pending or published (R544)? -/
def pubHeld (s : State) (a len : Nat) : Bool :=
  s.host.windows.any fun w => w.dir && w.state != 0 && decide (a < w.base + w.len) && decide (w.base < a + len)

/-- The references through which bytes of a window land: its own, and those of an XE flow's experts (R404, R408). -/
def landRefs (w : WinDecl) (flow : Option FlowInfo) : List Ref :=
  Ref.ofWord w.dstRef :: (flow.map fun i => i.experts.flatMap fun (x : Nat × Word × Word) => [Ref.ofWord x.2.1, Ref.ofWord x.2.2]).getD []

/-- Does a window that is served, or a cell that arrived, wait for an alternate in the context (R421)? -/
def landWaiting (s : State) (n : CtxId) : Bool :=
  let c := s.ctx n
  let wins := (c.job.map (·.wins)).getD []
  (c.v.live && c.state == 2 && wins.any fun w =>
    w.kind == 1 && w.src == devNum s && decide (c.v.stepFrame + w.frameMin ≤ frameNow s) && !c.x.applied.contains w.win &&
    (refWaits c (Ref.ofWord w.srcRef) || (w.dst == devNum s && refWaits c (Ref.ofWord w.dstRef)))) ||
  c.x.waiting.any fun h => match wins.find? fun w => w.win == h.plan.win with
    | some w => (landRefs w h.flow).any (refWaits c)
    | none => false

/-- Does a reference to NEXT wait for an alternate in the context: of a command, of a window that is served, or of a cell that
arrived (R421, R426)? -/
def nextWaiting (s : State) (n : CtxId) : Bool :=
  let c := s.ctx n
  c.w.nextWaits.any (fun x => (match shardOf c x.2.2 with | some y => y.alt.isNone | none => false) &&
    c.runs.any fun r => r.thread == x.1 && r.cmd == x.2.1 && !r.executed) || landWaiting s n

/-- The pin that a reference takes: its thread's pin, while it is not held, on a READ view (R417). -/
def pinToTake (c : Ctx) (thread : Nat) (r : Ref) : Option Nat :=
  if r.space = 1 && (readShard c r.num).isSome then
    (pinOf c thread).bind fun p => if c.w.pins.any (fun h => h.pin == p.pin) then none else some p.pin
  else none

/-- Take a pin at the context's generation (R417), with its entry in the PINS section (R446). -/
def takePin (n : CtxId) (pin : Nat) (s : State) : State :=
  s.modCtx n fun c =>
    if c.w.pins.any fun h => h.pin == pin then c
    else
      { c with
        w := { c.w with pins := c.w.pins ++ [{ pin, gen := c.w.gen.toNat, takenIn := (c.v.t, c.v.a) }] }
        record := c.record.map fun r => { r with pins := r.pins ++ [(pin, true, c.w.gen.toNat)] } }

end Sys2Proof.Machine
end

