-- ==== Sys2Proof/Machine/RegMap.lean ====
section
/-! DEFINITION. The register map: every control register with its address (R34, R35 and the chapters' register
tables). -/

namespace Sys2Proof.Machine

/-- The control registers. n is a context, c a core, d a die, p a fabric port, b a bank. -/
inductive Reg where
  | contractRev
  | owner
  | ctxMode (n : Fin 8)
  | tdcA (n : Fin 8)
  | tdcB (n : Fin 8)
  | wver (n : Fin 8)
  | wscrub
  | wscrubStat
  | rust
  | bootStatus
  | bootProg
  | bootMeas (k : Fin 12)
  | fuseCtl
  | signer (i : Fin 4) (w : Fin 4)
  | recov (i : Fin 2) (w : Fin 4)
  | vendor (w : Fin 4)
  | secId (w : Fin 4)
  | pwrLimit
  | pwrEst
  | pwrTemp
  | pwrVf
  | pwrDroop
  | pwrStat
  | pwrState
  | pwrWake
  | pwrRail
  | pwrAon
  | pwrSeq
  | energy (n : Fin 8)
  | energyDev
  | indNs
  | indPos
  | indEpoch
  | indStatus
  | indOffset
  | indRef
  | stretchA
  | stretchB
  | cadence
  | facility
  | ptp
  | alarm
  | alarmCtl
  | indRoot (k : Fin 8)
  | sepRing
  | sepHead
  | sepFloor
  | sepStat
  | sepFine (n : Fin 8)
  | sepCtl (n : Fin 8)
  | sepCkpt (n : Fin 8)
  | fabStatus (p : Fin 8)
  | fabErr (p : Fin 8)
  | fabFec (p : Fin 8)
  | xeCnt (d : Fin 2) (n : Fin 8)
  | ctxLim (d : Fin 2) (n : Fin 8)
  | dl (d : Fin 2) (n : Fin 8)
  | dlStat (d : Fin 2) (n : Fin 8)
  | ddrCh (d : Fin 2) (k : Fin 8)
  | memScrub (d : Fin 2)
  | ecc (d : Fin 2)
  | ue (d : Fin 2)
  | refresh (d : Fin 2)
  | retire (d : Fin 2)
  | stgOwn (d : Fin 2) (g : Fin 8) (b : Fin 48)
  | stgForce (d : Fin 2) (g : Fin 8) (b : Fin 48)
  | stgRepair (d : Fin 2) (g : Fin 8) (b : Fin 48)
  | poolOwn (d : Fin 2) (b : Fin 128)
  | poolForce (d : Fin 2) (b : Fin 128)
  | poolRepair (d : Fin 2) (b : Fin 128)
  | shdCtl (d : Fin 2) (n : Fin 8)
  | shdSeed (d : Fin 2) (n : Fin 8)
  | shdCnt (d : Fin 2) (n : Fin 8)
  | shdQuar (d : Fin 2)
  | coreStall (c : Fin 128) (n : Fin 8)
  | ipat (c : Fin 128) (e : Fin 4) (h : Fin 2)
  | bankOwn (c : Fin 128) (b : Fin 56)
  | bankForce (c : Fin 128) (b : Fin 56)
  | bankRepair (c : Fin 128) (b : Fin 56)
  | meSplit (c : Fin 128)
  | meGrid (c : Fin 128) (n : Fin 8)
  | dbgCtrl (c : Fin 128)
  | dbgSel (c : Fin 128)
  | dbgAcc0 (c : Fin 128)
  | dbgAcc1 (c : Fin 128)
  | dbgSet (c : Fin 128)
  | eeSplit (c : Fin 128)
  | eeExc (c : Fin 128) (n : Fin 8)
  | reCnt (c : Fin 128) (n : Fin 8)
  | dmaAbort (c : Fin 128)
  | dmaChan (c : Fin 128) (h : Fin 16)
  | dmaStat (c : Fin 128) (h : Fin 16)
  | resRef (c : Fin 128) (h : Fin 16)
  | resCnt (c : Fin 128) (h : Fin 16)
  deriving DecidableEq, Repr

/-- The offset of a register in control space. -/
def Reg.offset : Reg → Nat
  | .contractRev => 0x10
  | .owner => 0x20
  | .ctxMode n => 0x400 + n.val * 0x20
  | .tdcA n => 0x408 + n.val * 0x20
  | .tdcB n => 0x410 + n.val * 0x20
  | .wver n => 0x418 + n.val * 0x20
  | .wscrub => 0x700
  | .wscrubStat => 0x708
  | .rust => 0x800
  | .bootStatus => 0x10010
  | .bootProg => 0x10018
  | .bootMeas k => 0x10100 + k.val * 0x8
  | .fuseCtl => 0x20010
  | .signer i w => 0x20100 + i.val * 0x20 + w.val * 0x8
  | .recov i w => 0x20180 + i.val * 0x20 + w.val * 0x8
  | .vendor w => 0x201C0 + w.val * 0x8
  | .secId w => 0x201E0 + w.val * 0x8
  | .pwrLimit => 0x40010
  | .pwrEst => 0x40018
  | .pwrTemp => 0x40020
  | .pwrVf => 0x40030
  | .pwrDroop => 0x40040
  | .pwrStat => 0x40048
  | .pwrState => 0x40050
  | .pwrWake => 0x40058
  | .pwrRail => 0x40060
  | .pwrAon => 0x40068
  | .pwrSeq => 0x40070
  | .energy n => 0x40100 + n.val * 0x8
  | .energyDev => 0x40140
  | .indNs => 0x80010
  | .indPos => 0x80018
  | .indEpoch => 0x80020
  | .indStatus => 0x80030
  | .indOffset => 0x80038
  | .indRef => 0x80040
  | .stretchA => 0x80050
  | .stretchB => 0x80058
  | .cadence => 0x80060
  | .facility => 0x80070
  | .ptp => 0x80078
  | .alarm => 0x80080
  | .alarmCtl => 0x80088
  | .indRoot k => 0x80100 + k.val * 0x8
  | .sepRing => 0xC0010
  | .sepHead => 0xC0018
  | .sepFloor => 0xC0020
  | .sepStat => 0xC0028
  | .sepFine n => 0xC0100 + n.val * 0x20
  | .sepCtl n => 0xC0108 + n.val * 0x20
  | .sepCkpt n => 0xC0110 + n.val * 0x20
  | .fabStatus p => 0x1000010 + p.val * 0x10000
  | .fabErr p => 0x1000018 + p.val * 0x10000
  | .fabFec p => 0x1000020 + p.val * 0x10000
  | .xeCnt d n => 0x2000200 + d.val * 0x100000 + n.val * 0x8
  | .ctxLim d n => 0x3000100 + d.val * 0x100000 + n.val * 0x8
  | .dl d n => 0x3000200 + d.val * 0x100000 + n.val * 0x10
  | .dlStat d n => 0x3000208 + d.val * 0x100000 + n.val * 0x10
  | .ddrCh d k => 0x4000100 + d.val * 0x100000 + k.val * 0x8
  | .memScrub d => 0x4000200 + d.val * 0x100000
  | .ecc d => 0x4000210 + d.val * 0x100000
  | .ue d => 0x4000218 + d.val * 0x100000
  | .refresh d => 0x4000220 + d.val * 0x100000
  | .retire d => 0x4000230 + d.val * 0x100000
  | .stgOwn d g b => 0x4008000 + d.val * 0x100000 + g.val * 0x200 + b.val * 0x8
  | .stgForce d g b => 0x400A000 + d.val * 0x100000 + g.val * 0x200 + b.val * 0x8
  | .stgRepair d g b => 0x400C000 + d.val * 0x100000 + g.val * 0x200 + b.val * 0x8
  | .poolOwn d b => 0x4009000 + d.val * 0x100000 + b.val * 0x8
  | .poolForce d b => 0x400B000 + d.val * 0x100000 + b.val * 0x8
  | .poolRepair d b => 0x400D000 + d.val * 0x100000 + b.val * 0x8
  | .shdCtl d n => 0x5000100 + d.val * 0x100000 + n.val * 0x20
  | .shdSeed d n => 0x5000108 + d.val * 0x100000 + n.val * 0x20
  | .shdCnt d n => 0x5000110 + d.val * 0x100000 + n.val * 0x20
  | .shdQuar d => 0x5000200 + d.val * 0x100000
  | .coreStall c n => 0x10000200 + c.val * 0x10000 + n.val * 0x8
  | .ipat c e h => 0x10000400 + c.val * 0x10000 + e.val * 0x10 + h.val * 0x8
  | .bankOwn c b => 0x10001000 + c.val * 0x10000 + b.val * 0x8
  | .bankForce c b => 0x10001400 + c.val * 0x10000 + b.val * 0x8
  | .bankRepair c b => 0x10001800 + c.val * 0x10000 + b.val * 0x8
  | .meSplit c => 0x11000010 + c.val * 0x10000
  | .meGrid c n => 0x11000200 + c.val * 0x10000 + n.val * 0x8
  | .dbgCtrl c => 0x11000300 + c.val * 0x10000
  | .dbgSel c => 0x11000308 + c.val * 0x10000
  | .dbgAcc0 c => 0x11000310 + c.val * 0x10000
  | .dbgAcc1 c => 0x11000318 + c.val * 0x10000
  | .dbgSet c => 0x11000320 + c.val * 0x10000
  | .eeSplit c => 0x12000010 + c.val * 0x10000
  | .eeExc c n => 0x12000200 + c.val * 0x10000 + n.val * 0x8
  | .reCnt c n => 0x13000200 + c.val * 0x10000 + n.val * 0x8
  | .dmaAbort c => 0x15000010 + c.val * 0x10000
  | .dmaChan c h => 0x15000100 + c.val * 0x10000 + h.val * 0x8
  | .dmaStat c h => 0x15000200 + c.val * 0x10000 + h.val * 0x8
  | .resRef c h => 0x15000300 + c.val * 0x10000 + h.val * 0x10
  | .resCnt c h => 0x15000308 + c.val * 0x10000 + h.val * 0x10

/-- The address of a register. -/
def regAddr (r : Reg) : Nat := ctlBase + r.offset

/-- Index of an offset in a run of `n` places of one stride. -/
def place1 (off base stride n : Nat) : Option (Fin n) :=
  let i := (off - base) / stride
  if h : i < n then (if base + i * stride = off then some ⟨i, h⟩ else none) else none

/-- Indices of an offset in `n` rows of one stride, each of `m` places of another. -/
def place2 (off base s1 n s2 m : Nat) : Option (Fin n × Fin m) :=
  let i := (off - base) / s1
  if h : i < n then (place1 off (base + i * s1) s2 m).map fun j => (⟨i, h⟩, j) else none

/-- Indices of an offset in three nested runs. -/
def place3 (off base s1 n s2 m s3 k : Nat) : Option (Fin n × Fin m × Fin k) :=
  let i := (off - base) / s1
  if h : i < n then (place2 off (base + i * s1) s2 m s3 k).map fun j => (⟨i, h⟩, j.1, j.2) else none

/-- The first entry that is present. -/
def firstSome : List (Option Reg) → Option Reg
  | [] => none
  | some r :: _ => some r
  | none :: rest => firstSome rest

/-- The register at an offset of a package block. -/
def regPackage (o : Nat) : Option Reg :=
  firstSome [
  (if o = 0x10 then some .contractRev else none),
  (if o = 0x20 then some .owner else none),
  ((place1 o 0x400 0x20 8).map .ctxMode),
  ((place1 o 0x408 0x20 8).map .tdcA),
  ((place1 o 0x410 0x20 8).map .tdcB),
  ((place1 o 0x418 0x20 8).map .wver),
  (if o = 0x700 then some .wscrub else none),
  (if o = 0x708 then some .wscrubStat else none),
  (if o = 0x800 then some .rust else none),
  (if o = 0x10010 then some .bootStatus else none),
  (if o = 0x10018 then some .bootProg else none),
  ((place1 o 0x10100 0x8 12).map .bootMeas),
  (if o = 0x20010 then some .fuseCtl else none),
  ((place2 o 0x20100 0x20 4 0x8 4).map (fun i => .signer i.1 i.2)),
  ((place2 o 0x20180 0x20 2 0x8 4).map (fun i => .recov i.1 i.2)),
  ((place1 o 0x201C0 0x8 4).map .vendor),
  ((place1 o 0x201E0 0x8 4).map .secId),
  (if o = 0x40010 then some .pwrLimit else none),
  (if o = 0x40018 then some .pwrEst else none),
  (if o = 0x40020 then some .pwrTemp else none),
  (if o = 0x40030 then some .pwrVf else none),
  (if o = 0x40040 then some .pwrDroop else none),
  (if o = 0x40048 then some .pwrStat else none),
  (if o = 0x40050 then some .pwrState else none),
  (if o = 0x40058 then some .pwrWake else none),
  (if o = 0x40060 then some .pwrRail else none),
  (if o = 0x40068 then some .pwrAon else none),
  (if o = 0x40070 then some .pwrSeq else none),
  ((place1 o 0x40100 0x8 8).map .energy),
  (if o = 0x40140 then some .energyDev else none),
  (if o = 0x80010 then some .indNs else none),
  (if o = 0x80018 then some .indPos else none),
  (if o = 0x80020 then some .indEpoch else none),
  (if o = 0x80030 then some .indStatus else none),
  (if o = 0x80038 then some .indOffset else none),
  (if o = 0x80040 then some .indRef else none),
  (if o = 0x80050 then some .stretchA else none),
  (if o = 0x80058 then some .stretchB else none),
  (if o = 0x80060 then some .cadence else none),
  (if o = 0x80070 then some .facility else none),
  (if o = 0x80078 then some .ptp else none),
  (if o = 0x80080 then some .alarm else none),
  (if o = 0x80088 then some .alarmCtl else none),
  ((place1 o 0x80100 0x8 8).map .indRoot),
  (if o = 0xC0010 then some .sepRing else none),
  (if o = 0xC0018 then some .sepHead else none),
  (if o = 0xC0020 then some .sepFloor else none),
  (if o = 0xC0028 then some .sepStat else none),
  ((place1 o 0xC0100 0x20 8).map .sepFine),
  ((place1 o 0xC0108 0x20 8).map .sepCtl),
  ((place1 o 0xC0110 0x20 8).map .sepCkpt)]

/-- The register at an offset of a port or die block. -/
def regDie (o : Nat) : Option Reg :=
  firstSome [
  ((place1 o 0x1000010 0x10000 8).map .fabStatus),
  ((place1 o 0x1000018 0x10000 8).map .fabErr),
  ((place1 o 0x1000020 0x10000 8).map .fabFec),
  ((place2 o 0x2000200 0x100000 2 0x8 8).map (fun i => .xeCnt i.1 i.2)),
  ((place2 o 0x3000100 0x100000 2 0x8 8).map (fun i => .ctxLim i.1 i.2)),
  ((place2 o 0x3000200 0x100000 2 0x10 8).map (fun i => .dl i.1 i.2)),
  ((place2 o 0x3000208 0x100000 2 0x10 8).map (fun i => .dlStat i.1 i.2)),
  ((place2 o 0x4000100 0x100000 2 0x8 8).map (fun i => .ddrCh i.1 i.2)),
  ((place1 o 0x4000200 0x100000 2).map .memScrub),
  ((place1 o 0x4000210 0x100000 2).map .ecc),
  ((place1 o 0x4000218 0x100000 2).map .ue),
  ((place1 o 0x4000220 0x100000 2).map .refresh),
  ((place1 o 0x4000230 0x100000 2).map .retire),
  ((place3 o 0x4008000 0x100000 2 0x200 8 0x8 48).map (fun i => .stgOwn i.1 i.2.1 i.2.2)),
  ((place3 o 0x400A000 0x100000 2 0x200 8 0x8 48).map (fun i => .stgForce i.1 i.2.1 i.2.2)),
  ((place3 o 0x400C000 0x100000 2 0x200 8 0x8 48).map (fun i => .stgRepair i.1 i.2.1 i.2.2)),
  ((place2 o 0x4009000 0x100000 2 0x8 128).map (fun i => .poolOwn i.1 i.2)),
  ((place2 o 0x400B000 0x100000 2 0x8 128).map (fun i => .poolForce i.1 i.2)),
  ((place2 o 0x400D000 0x100000 2 0x8 128).map (fun i => .poolRepair i.1 i.2)),
  ((place2 o 0x5000100 0x100000 2 0x20 8).map (fun i => .shdCtl i.1 i.2)),
  ((place2 o 0x5000108 0x100000 2 0x20 8).map (fun i => .shdSeed i.1 i.2)),
  ((place2 o 0x5000110 0x100000 2 0x20 8).map (fun i => .shdCnt i.1 i.2)),
  ((place1 o 0x5000200 0x100000 2).map .shdQuar)]

/-- The register at an offset of a core block. -/
def regCore (o : Nat) : Option Reg :=
  firstSome [
  ((place2 o 0x10000200 0x10000 128 0x8 8).map (fun i => .coreStall i.1 i.2)),
  ((place3 o 0x10000400 0x10000 128 0x10 4 0x8 2).map (fun i => .ipat i.1 i.2.1 i.2.2)),
  ((place2 o 0x10001000 0x10000 128 0x8 56).map (fun i => .bankOwn i.1 i.2)),
  ((place2 o 0x10001400 0x10000 128 0x8 56).map (fun i => .bankForce i.1 i.2)),
  ((place2 o 0x10001800 0x10000 128 0x8 56).map (fun i => .bankRepair i.1 i.2)),
  ((place1 o 0x11000010 0x10000 128).map .meSplit),
  ((place2 o 0x11000200 0x10000 128 0x8 8).map (fun i => .meGrid i.1 i.2)),
  ((place1 o 0x11000300 0x10000 128).map .dbgCtrl),
  ((place1 o 0x11000308 0x10000 128).map .dbgSel),
  ((place1 o 0x11000310 0x10000 128).map .dbgAcc0),
  ((place1 o 0x11000318 0x10000 128).map .dbgAcc1),
  ((place1 o 0x11000320 0x10000 128).map .dbgSet),
  ((place1 o 0x12000010 0x10000 128).map .eeSplit),
  ((place2 o 0x12000200 0x10000 128 0x8 8).map (fun i => .eeExc i.1 i.2)),
  ((place2 o 0x13000200 0x10000 128 0x8 8).map (fun i => .reCnt i.1 i.2)),
  ((place1 o 0x15000010 0x10000 128).map .dmaAbort),
  ((place2 o 0x15000100 0x10000 128 0x8 16).map (fun i => .dmaChan i.1 i.2)),
  ((place2 o 0x15000200 0x10000 128 0x8 16).map (fun i => .dmaStat i.1 i.2)),
  ((place2 o 0x15000300 0x10000 128 0x10 16).map (fun i => .resRef i.1 i.2)),
  ((place2 o 0x15000308 0x10000 128 0x10 16).map (fun i => .resCnt i.1 i.2))]

/-- The register at an address: none where no register is, or where the address is not 8-byte aligned (R35). -/
def regAt (a : Nat) : Option Reg :=
  if a < ctlBase then none
  else
    let o := a - ctlBase
    if o < 0x1000000 then regPackage o else if o < 0x10000000 then regDie o else regCore o

end Sys2Proof.Machine
end

