-- ==== Sys2Proof/Machine/RegRead.lean ====
section
/-! DEFINITION. What a read of each control register returns (the register tables of all chapters; reserved fields read
as 0, R15). -/

namespace Sys2Proof.Machine

/-- The word of a bank's OWN register (R210). -/
def ownWord (o : BankOwn) (retainable : Bool) : Word :=
  putB o.busy 11 ||| putB o.disabled 10 ||| putB (o.retain && retainable) 9 ||| putB o.valid 8 ||| put o.ctx.val 0

/-- The bank state at an index of a list, unowned where there is none. -/
def ownAt (l : List BankOwn) (i : Nat) : BankOwn := l.getD i {}

/-- Distinct generations below G that pins or a checkpoint hold keep (R426). -/
def oldGens (s : State) (n : CtxId) : Nat :=
  let c := s.ctx n
  let g := c.w.gen.toNat
  let held := (c.w.pins.map (·.gen)) ++ (if s.sep.held[n.val] then [s.sep.heldGen[n.val].toNat] else [])
  (dedup (held.filter (· < g))).length

/-- The ME set under inspection: the run of the context in that accumulator set of the core (R125, R126). -/
def dbgRun (s : State) (c : CoreId) : Option Run :=
  let k := s.core c
  if k.dbgEn then
    (s.ctx k.dbgCtx).runs.find? fun r =>
      decide (r.eng = .me) && r.core == c.val && r.set == k.dbgSet.toNat && !r.executed
  else none

/-- PHASE of a set (R125). A tile that waits to start its repeat is in the judge pass on the final stage, and again in its products
on another. -/
def dbgPhase (r : Run) : Nat := if r.phase = 7 then (if r.role = 0 || r.role = 3 then 4 else 2) else r.phase

/-- The selected element of the set under inspection as a grid pair (R125). -/
def dbgPair (s : State) (c : CoreId) : GPair :=
  let k := s.core c
  match dbgRun s c with
  | some r => match r.partials with
    | .sum rows => (((rows.getD k.dbgRow.toNat []).getD k.dbgCol.toNat {}).toPair r.s)
    | _ => GElem.toPair {} r.s
  | none => { el := {}, s := 0 }

/-- Pack the entries of a split register: context n in bits [4n + 3 : 4n]. -/
def maskBits (bs : List Bool) : Nat := bs.reverse.foldl (fun a b => 2 * a + (if b then 1 else 0)) 0

/-- LEASE_MS of MGT_OWNER (R532). -/
def leaseMs (s : State) : Nat := if s.host.owner.isSome then (s.host.leaseEnd - nsNow s) / 1000000 else 0

/-- A read of a register (R35; the fields as the register's own table has them). -/
def regGet (s : State) (r : Reg) : Word :=
  match r with
  | .contractRev => put 9 16 ||| put 1 0
  | .owner => put s.host.badMsg.toNat 48 ||| put s.host.changes.toNat 32 ||| put (min (leaseMs s) 0xFFFF) 16 |||
      putB s.host.owner.isSome 8 ||| put (match s.host.owner with | some st => st.val | none => 0) 0
  | .ctxMode n => let c := s.ctx n
      put c.state.toNat 8 ||| putB c.priv 2 ||| putB c.borrow 1 ||| putB c.loose 0
  | .tdcA n => put (s.ctx n).scatter.toNat 32 ||| put (s.ctx n).overflow.toNat 0
  | .tdcB n => put (s.ctx n).cntRead.toNat 32
  | .wver n => let w := (s.ctx n).w
      put w.gen.toNat 32 ||| put (min w.pins.length 1024) 21 ||| put (oldGens s n) 10 ||| putB (nextWaiting s n) 0
  | .wscrub => put s.wscrub.steps.toNat 32 ||| put s.wscrub.minutes.toNat 16 ||| putB s.wscrub.en 0
  | .wscrubStat => put s.wscrub.passes.toNat 32 ||| put s.wscrub.mismatch.toNat 16 ||| put s.wscrub.abandoned.toNat 0
  | .rust => put s.rust.seq.toNat 32 ||| put (min s.rust.store.length 1024) 16 |||
      put ((s.rust.store.filter fun r => decide (r.acks.length < s.boot.cfg.rust.length)).length) 0
  | .bootStatus => let b := s.boot
      put b.count.toNat 32 ||| put b.fail.toNat 24 ||| put b.phase.toNat 20 ||| putB b.lateTime 18 |||
      putB b.lateMem 17 ||| putB b.lateLink 16 ||| put b.readyMs.toNat 0
  | .bootProg => put s.boot.progState.toNat 62 ||| put s.boot.progFail.toNat 56 ||| put s.boot.progBytes.toNat 0
  | .bootMeas k => s.boot.meas[k.val]
  | .fuseCtl => let f := s.boot.fuses
      put f.slotSet.toNat 14 ||| put f.revoked.toNat 10 ||| put f.recovSet.toNat 8 ||| put f.rollback.toNat 0
  | .signer i w => wd s.boot.fuses.signer[i.val] w.val
  | .recov i w => wd s.boot.fuses.recov[i.val] w.val
  | .vendor w => wd s.boot.fuses.vendor w.val
  | .secId w => wd s.boot.fuses.ident w.val
  | .pwrLimit => put s.pwr.boardMax.toNat 48 ||| put s.pwr.limit.toNat 16
  | .pwrEst => put s.pwr.nominal.toNat 48 ||| put s.pwr.calib.toNat 32 ||| put s.pwr.avg.toNat 16 |||
      putB s.pwr.guard 1 ||| putB s.pwr.hot 0
  | .pwrTemp => put s.pwr.tjD0.toNat 48 ||| put s.pwr.tjD1.toNat 32 ||| put s.pwr.tjPeak.toNat 16
  | .pwrVf => put s.pwr.vD1.toNat 56 ||| put s.pwr.vD0.toNat 48 ||| put s.pwr.fLevel.toNat 44 |||
      putB s.pwr.heldV.isSome 39 ||| putB s.pwr.heldF.isSome 38
  | .pwrDroop => put s.pwr.droopEvents.toNat 32 ||| put s.pwr.droopLost.toNat 0
  | .pwrStat => put s.pwr.guardIntervals.toNat 32 ||| put s.pwr.hotEvents.toNat 16 ||| put s.pwr.vfExpired.toNat 8 |||
      put s.pwr.vfLate.toNat 0
  | .pwrState => put s.pwr.now.toNat 6 ||| putB s.pwr.busy 5 ||| put s.pwr.req.toNat 0
  | .pwrWake => put s.pwr.wakeCause.toNat 8 ||| putB s.pwr.enAlarm 3 ||| putB s.pwr.enCell 2 ||| putB s.pwr.enSignal 1
  | .pwrRail => put s.sup.glitches.toNat 48 ||| put s.sup.rails.toNat 0
  | .pwrAon => put s.sup.switches.toNat 32 ||| putB s.sup.feed 0
  | .pwrSeq => put s.sup.ramps.toNat 48 ||| put s.sup.causes.toNat 40 ||| put s.sup.faults.toNat 32 |||
      put s.sup.faultRail.toNat 0
  | .energy n => s.pwr.uj[n.val]
  | .energyDev => s.pwr.ujDev
  | .indNs => s.ind.ns
  | .indPos => s.ind.pos
  | .indEpoch => s.ind.epochL
  | .indStatus => let i := s.ind
      put i.root.toNat 48 ||| put i.rootIdx.toNat 45 ||| putB i.isRoot 44 ||| put i.parent.toNat 36 |||
      put i.state.toNat 32 ||| put i.rootChanges.toNat 24 ||| put i.reparents.toNat 16 ||| put i.losses.toNat 0
  | .indOffset => put s.ind.theta.toNat 32 ||| put s.ind.delay.toNat 0
  | .indRef => put s.ind.devA.toNat 48 ||| put s.ind.devB.toNat 32 ||| putB s.ind.failB 3 ||| putB s.ind.failA 2 |||
      put s.ind.sel.toNat 0
  | .stretchA => let a := s.ind.strA
      put a[0].toNat 48 ||| put a[1].toNat 32 ||| put a[2].toNat 16 ||| put a[3].toNat 0
  | .stretchB => put s.ind.overrun.toNat 48 ||| put s.ind.units.toNat 16 ||| put s.ind.ownCnt.toNat 0
  | .cadence => put s.ind.cadChanges.toNat 16 ||| put s.ind.cadReq.toNat 8 ||| put s.ind.cadNext.toNat 4 |||
      put s.ind.cadNow.toNat 0
  | .facility => s.ind.facOffset
  | .ptp => put s.ind.ptpPort.toNat 4 ||| putB s.ind.ptpValid 0
  | .alarm => s.ind.alarmAt
  | .alarmCtl => putB s.ind.alarmFired 1 ||| putB s.ind.alarmEn 0
  | .indRoot k => put s.ind.roots[k.val].toNat 0
  | .sepRing => put s.sep.size.toNat 32 ||| putB s.sep.stall 0
  | .sepHead => s.sep.head
  | .sepFloor => s.sep.floor
  | .sepStat => put s.sep.records.toNat 32 ||| put s.sep.overwritten.toNat 16 ||| put s.sep.fineLost.toNat 0
  | .sepFine n => put s.sep.account[n.val].toNat 32 ||| put s.sep.mask[n.val].toNat 0
  | .sepCtl n => put s.sep.every[n.val].toNat 32 ||| putB s.sep.fineEn[n.val] 1
  | .sepCkpt n => put s.sep.heldGen[n.val].toNat 32 ||| put s.sep.skipped[n.val].toNat 16 ||| putB s.sep.held[n.val] 0
  | .fabStatus p => let f := s.port p
      put f.peer.toNat 49 ||| put f.peerPort.toNat 46 ||| put f.mode.toNat 6 ||| putB f.failed 5 |||
      putB f.miscabled 4 ||| putB f.up 3
  | .fabErr p => let f := s.port p
      put f.retries.toNat 48 ||| put f.fecUncorr.toNat 32 ||| put f.cellBad.toNat 16 ||| put f.hdrDiscard.toNat 0
  | .fabFec p => (s.port p).fecCorr
  | .xeCnt d n => let x := (s.die d).xe[n.val]; put x.drop.toNat 32 ||| put x.tokens.toNat 0
  | .ctxLim d n => let x := (s.die d).lim[n.val]; put x.table.toNat 32 ||| put x.resident.toNat 0
  | .dl _ n => let x := (s.ctx n).dl
      put x.waitLimit.toNat 48 ||| put x.deadline.toNat 24 ||| put x.fbHold.toNat 16 ||| putB x.fbEn 1
  | .dlStat _ n => let x := (s.ctx n).dl
      put x.misses.toNat 32 ||| put x.timeouts.toNat 16 ||| put x.holdLeft.toNat 8 ||| put x.stream.toNat 0
  | .ddrCh d k => let c := (s.die d).ddr[k.val]
      put c.cap.toNat 32 ||| put c.type.toNat 20 ||| put c.speed.toNat 16 ||| put c.dimms.toNat 10 |||
      put c.width.toNat 8 ||| putB c.used 1 ||| putB c.trained 0
  | .memScrub _ => put s.scrub.sramMin.toNat 32 ||| put s.scrub.dramH.toNat 16 ||| putB s.scrub.en 0
  | .ecc d => let e := (s.die d).ecc
      put e.sram.toNat 48 ||| put e.hbm.toNat 32 ||| put e.ddr.toNat 16 ||| put e.seam.toNat 0
  | .ue d => let e := (s.die d).ue
      put e.sram.toNat 48 ||| put e.hbm.toNat 32 ||| put e.ddr.toNat 16 ||| put e.seam.toNat 0
  | .refresh d => let x := s.die d
      put x.ddr2x.toNat 24 ||| put x.hbm2x.toNat 16 ||| put x.changes.toNat 0
  | .retire _ => put (min s.scrub.list.length 32768) 48 ||| put s.scrub.pending.toNat 32 |||
      put (min s.scrub.withheld.length 0xFFFF) 16 ||| putB s.scrub.full 0
  | .stgOwn d g b => ownWord (ownAt ((s.die d).stg[g.val]).toList b.val) false
  | .stgForce d g b => ownWord (ownAt ((s.die d).stg[g.val]).toList b.val) false
  | .stgRepair d g b => put (((s.die d).stgRepair[g.val]).toList.getD b.val 0).toNat 0
  | .poolOwn d b => ownWord (ownAt (s.die d).pool.toList b.val) false
  | .poolForce d b => ownWord (ownAt (s.die d).pool.toList b.val) false
  | .poolRepair d b => put ((s.die d).poolRepair.toList.getD b.val 0).toNat 0
  | .shdCtl _ n => put (s.ctx n).sel.fraction.toNat 0
  | .shdSeed _ n => (s.ctx n).sel.seed
  | .shdCnt d n => let x := (s.die d).shd[n.val]
      put x.selected.toNat 32 ||| put x.mismatches.toNat 16 ||| put x.skipped.toNat 0
  | .shdQuar d => put (maskBits ((List.finRange 64).map fun i =>
      (s.core ⟨64 * d.val + i.val, by have := d.isLt; have := i.isLt; omega⟩).quarantined)) 0
  | .coreStall c n => let x := (s.core c).stall[n.val]; put x.loc.toNat 32 ||| put x.rem.toNat 0
  | .ipat c e h => (s.core c).ipat[e.val * 2 + h.val]'(by have := e.isLt; have := h.isLt; omega)
  | .bankOwn c b => ownWord (s.core c).own[b.val] true
  | .bankForce c b => ownWord (s.core c).own[b.val] true
  | .bankRepair c b => put (s.core c).repair[b.val].toNat 0
  | .meSplit c => put (s.core c).acc.toNat 32 ||| put (s.core c).que.toNat 0
  | .meGrid c n => let g := (s.core c).grid[n.val]
      put g.repeats.toNat 32 ||| put g.nonfinite.toNat 16 ||| put g.saturated.toNat 0
  | .dbgCtrl c => put (s.core c).dbgCtx.val 4 ||| putB (s.core c).dbgEn 0
  | .dbgSel c => let k := s.core c
      put k.dbgSet.toNat 16 ||| put k.dbgRow.toNat 8 ||| put k.dbgCol.toNat 0
  | .dbgAcc0 c => if (dbgRun s c).isSome then wd (dbgPair s c).words 0 else 0
  | .dbgAcc1 c => if (dbgRun s c).isSome then wd (dbgPair s c).words 1 else 0
  | .dbgSet c => match dbgRun s c with
    | some r => put (twos 16 r.s) 48 ||| put (r.repeats % 256) 40 ||| put (dbgPhase r) 36 |||
        put (r.kdone % 2 ^ 20) 16 ||| put (r.cmd % 2 ^ 16) 0
    | none => 0
  | .eeSplit c => put (s.core c).sets.toNat 0
  | .eeExc c n => let e := (s.core c).exc[n.val]
      put e.invalid.toNat 32 ||| put e.divzero.toNat 16 ||| put e.overflow.toNat 0
  | .reCnt c n => let e := (s.core c).reCnt[n.val]
      put e.rowsIn.toNat 32 ||| put e.finals.toNat 16 ||| put e.nanExcl.toNat 0
  | .dmaAbort _ => 0
  | .dmaChan c h => let x := (s.core c).chan[h.val]
      put x.slices.toNat 8 ||| putB x.valid 3 ||| put x.ctx.val 0
  | .dmaStat c h => let x := (s.core c).dma[h.val]
      put x.state.toNat 61 ||| put (min (x.queue.length - (if x.state = 0 then 0 else 1)) 8) 57 ||| put x.cmd.toNat 0
  | .resRef c h => (s.core c).dma[h.val].ref
  | .resCnt c h => let x := (s.core c).dma[h.val]
      put x.bytes.toNat 24 ||| put x.cause.toNat 16 ||| put x.index.toNat 0

/-- Latch IND_NOW_POS and IND_EPOCH at a read of IND_NOW_NS (R349). -/
def latchNow (s : State) : State :=
  let p := posAt s (nsNow s)
  { s with ind := { s.ind with
      pos := put s.ind.frac.toNat 48 ||| put p.2 46 ||| put p.1 32 ||| put s.ind.frame.toNat 0
      epochL := put s.ind.epoch.toNat 0 } }

/-- A read of a control address: its status, value and the state after it (R35, R349). -/
def regRead (s : State) (addr : Nat) : Nat × Word × State :=
  match regAt addr with
  | none => (stAddressFault, 0, s)
  | some .indNs => (stOk, s.ind.ns, latchNow s)
  | some r => (stOk, regGet s r, s)

end Sys2Proof.Machine
end

