-- ==== Sys2Proof/Machine/Wake.lean ====
section
/-! DEFINITION. Wake sources (R520, R524) and the alarm's firing (R379). -/

namespace Sys2Proof.Machine

/-- Does a wake source of a cause wake from a state (R520)? Causes: 1 owner, 2 M0, 3 cell, 4 signal, 5 alarm. An entry in progress is
judged by the state it enters (R524). -/
def wakesFrom (s : State) (cause : Nat) : Bool :=
  let enabled := match cause with
    | 3 => s.pwr.enCell
    | 4 => s.pwr.enSignal
    | 5 => s.pwr.enAlarm
    | _ => true
  let fromDim := cause == 1 || cause == 2 || cause == 3 || cause == 5
  let fromGrey := cause == 2 || cause == 3 || cause == 4 || cause == 5
  let fromBlack := cause == 2
  enabled && (match s.pwr.trans with
    | .dimIn => fromDim
    | .greyIn _ => fromGrey
    | .none => (match s.pwr.now.toNat with
      | 0 => false
      | 1 => fromDim
      | 2 => fromGrey
      | _ => fromBlack)
    | _ => false)

/-- The end of a transition: an owner halt that arrived during it applies now (R516). -/
def endTransition (s : State) : State :=
  allCtxIds.foldl (fun s n =>
    if (s.ctx n).v.haltPend then haltCtx n 2 false (s.modCtx n fun c => { c with v := { c.v with haltPend := false } }) else s) s

/-- Back in Bright from Dim or Grey: the first issue of every context triggers its ramp (R285). -/
def toBright (s : State) : State :=
  endTransition { (s.allCtxs fun c => { c with ramp := { c.ramp with onIssue := true } }) with
    pwr := { s.pwr with now := 0, busy := false, trans := .none, exitAfter := none, isolated := false } }

/-- An entry is abandoned (R516, R524): the device is in Bright, where it was, or to where it returns from Dim. -/
def abandonEntry (s : State) : State :=
  if s.pwr.now = 0 then endTransition { s with pwr := { s.pwr with busy := false, trans := .none } } else toBright s

/-- A wake source acts (R516, R520, R523, R524): it abandons an entry whose clamps are not set, waits for one whose
clamps are, or starts the way back to Bright. Leaving Black is LOCAL_WAKE's own (R521). -/
def wakeBy (cause : Nat) (s : State) : State :=
  if !wakesFrom s cause then s
  else
    let p := s.pwr
    let c := BitVec.ofNat 8 cause
    match p.trans with
    | .dimIn => abandonEntry { s with pwr := { p with req := 0, wakeCause := c } }
    | .greyIn false => abandonEntry { s with pwr := { p with req := 0, wakeCause := c } }
    | .greyIn true => { s with pwr := { p with exitAfter := some cause } }
    | .none =>
      if p.now = 1 then { s with pwr := { p with trans := .dimOut, busy := true, req := 0, wakeCause := c } }
      else if p.now = 2 then { s with pwr := { p with trans := .greyOut false, busy := true, req := 0, wakeCause := c } }
      else s
    | _ => s

/-- The Indigo alarm fires (R379): FIRED is set, EN cleared, and it counts as a wake source. -/
def fireAlarm (s : State) : State :=
  wakeBy 5 { s with ind := { s.ind with alarmFired := true, alarmEn := false } }

end Sys2Proof.Machine
end

