-- ==== Sys2Proof/Machine/RegWrite.lean ====
section
/-! DEFINITION. Register writes: the judgement of R590, then the rule of the register. -/

namespace Sys2Proof.Machine

/-- Who writes a register: the owner by an order, or the Renine controller (R14). -/
inductive Who where
  | owner | renine
  deriving DecidableEq, Repr

/-- Bits [hi:lo] set. -/
def ones (hi lo : Nat) : Word := BitVec.ofNat 64 ((2 ^ (hi + 1 - lo) - 1) <<< lo)

/-- The OW fields of a register. -/
def owMask : Reg → Word
  | .ctxMode _ => ones 1 0
  | .wscrub => ones 47 16 ||| ones 0 0
  | .pwrLimit => ones 31 16
  | .pwrState => ones 1 0
  | .pwrWake => ones 3 1
  | .alarm => ones 63 0
  | .alarmCtl => ones 0 0
  | .sepRing => ones 0 0
  | .sepFloor => ones 63 0
  | .sepFine _ => ones 63 0
  | .sepCtl _ => ones 63 32 ||| ones 1 1
  | .ctxLim _ _ => ones 46 32 ||| ones 5 0
  | .dl _ _ => ones 63 16 ||| ones 1 1
  | .memScrub _ => ones 47 16 ||| ones 0 0
  | .stgOwn _ _ _ => ones 8 8 ||| ones 2 0
  | .poolOwn _ _ => ones 8 8 ||| ones 2 0
  | .shdCtl _ _ => ones 2 0
  | .shdSeed _ _ => ones 63 0
  | .ipat _ _ _ => ones 63 0
  | .bankOwn _ _ => ones 9 8 ||| ones 2 0
  | .meSplit _ => ones 63 0
  | .dbgCtrl _ => ones 6 4 ||| ones 0 0
  | .eeSplit _ => ones 31 0
  | .dmaAbort _ => ones 15 0
  | .dmaChan _ _ => ones 15 8 ||| ones 3 0
  | _ => 0

/-- The TW fields of a register. -/
def twMask : Reg → Word
  | .ctxMode _ => ones 2 2
  | .pwrVf => ones 63 44
  | .cadence => ones 11 8
  | .stgForce _ _ _ => ones 8 8 ||| ones 2 0
  | .poolForce _ _ => ones 8 8 ||| ones 2 0
  | .stgRepair _ _ _ => ones 47 0
  | .poolRepair _ _ => ones 47 0
  | .bankForce _ _ => ones 9 8 ||| ones 2 0
  | .bankRepair _ _ => ones 47 0
  | _ => 0

/-- The RW fields of a register. -/
def rwMask : Reg → Word
  | .dbgSel _ => ones 18 0
  | _ => 0

/-- The result of a write: its status and the state after it. -/
abbrev Wrote := Nat × State

/-- A write that is refused changes nothing (R590). -/
def refuse (st : Nat) (s : State) : Wrote := (st, s)

/-- Sum of the eight 4-bit fields of a split register. -/
def nibbleSum (v lo : Nat) : Nat := ((List.range 8).map fun n => (v >>> (lo + 4 * n)) % 16).foldl (· + ·) 0

/-- The field of context n in a split register's 4-bit fields. -/
def nibble (v : BitVec 32) (n : Nat) : Nat := (v.toNat >>> (4 * n)) % 16

/-- Does a change of 4-bit fields touch a context whose STATE is not 0x00? -/
def splitBusy (s : State) (cur new : BitVec 32) : Bool :=
  allCtxIds.any fun n => nibble cur n.val != nibble new n.val && (s.ctx n).state != 0

/-- Is a slab of a context bound in a bank? -/
def bankBound (s : State) (n : CtxId) (p : Place) : Bool :=
  match p.bankBase with
  | none => false
  | some b =>
    let c := s.ctx n
    (c.b.slabs ++ c.b.mirrors).any fun l => decide (l.base < b + bankBytes) && decide (b < l.base + 64 * l.lines)

/-- A write to an OWN or FORCE register (R213 to R216). DEDUCED (log entry 61): the rows about RETAIN judge the bit as written, before
the clear of the same write drops it (R215). -/
def bankWrite (force : Bool) (p : Place) (v : Word) (s : State) : Wrote :=
  match ownOf s p with
  | none => (stAddressFault, s)
  | some o =>
    let valid := bit v 8
    let ctx := ctxOf (fld v 2 0)
    let retain := bit v 9
    let changes := o.valid != valid || (o.valid && valid && o.ctx != ctx)
    let run (n : CtxId) : Bool := (s.ctx n).state == 2
    let retained : Nat := match p with
      | .spad c b => ((List.finRange 56).filter fun i =>
          if i.val = b then retain else (s.core c).own[i.val].retain).length
      | _ => 0
    if o.busy then refuse stCtxBusy s
    else if !force && changes && ((o.valid && run o.ctx) || (valid && run ctx)) then refuse stCtxBusy s
    else if !force && changes && o.valid && bankBound s o.ctx p then refuse stCtxBusy s
    else if valid && o.disabled then refuse stCtxResource s
    else if retain && !valid then refuse stPrivLimit s
    else if retained > 8 then refuse stPrivLimit s
    else
      let clear := (o.valid && !valid) || (o.valid && valid && o.ctx != ctx)
      let arb := if changes && o.valid && run o.ctx then some (some o.ctx) else o.arb
      (stOk, modOwn s p fun o => { o with
        valid := valid, ctx := ctx, busy := clear, retain := retain && !clear, arb := arb })

/-- A write to a REPAIR register (R226). DEDUCED (log entry 61): COLUMN is judged in entries with VALID = 1 alone. -/
def repairBad (cur new : BitVec 48) : Bool :=
  let ent (v : BitVec 48) (n : Nat) : Nat := (v.toNat >>> (12 * n)) % 4096
  let valid (e : Nat) : Bool := e.testBit 11
  let news := (List.range 4).map (ent new)
  let cols := (news.filter valid).map (· % 1024)
  (List.range 4).any (fun n => ent cur n != ent new n && valid (ent cur n) && !(ent cur n).testBit 10) ||
  cols.any (fun c => decide (639 < c)) || !distinct cols

/-- The core set point of a level in units of 5 mV (R501). -/
def setPoint (level : Nat) : Nat := [160, 152, 144, 132, 120].getD level 120

/-- A write of PWR_VF (R502, R503). -/
def vfWrite (v : Word) (s : State) : Wrote :=
  let d1 := fld v 63 56
  let d0 := fld v 55 48
  let f := fld v 47 44
  let inR (x : Nat) : Bool := decide (120 ≤ x) && decide (x ≤ 170)
  if !(inR d1 && inR d0 && f ≤ 4) then refuse stAddressFault s
  else
    let p := s.pwr
    let need := setPoint p.fLevel.toNat
    let p1 : PwrSt := if d1 < need || d0 < need then
        { p with heldV := some { d1 := BitVec.ofNat 8 d1, d0 := BitVec.ofNat 8 d0, at_ := nsNow s } }
      else { p with vD1 := BitVec.ofNat 8 d1, vD0 := BitVec.ofNat 8 d0, heldV := none }
    let p2 : PwrSt := if setPoint f > p.vD1.toNat || setPoint f > p.vD0.toNat then
        { p1 with heldF := some (BitVec.ofNat 4 f, nsNow s), heldCad := false, heldReady := false }
      else { p1 with fLevel := BitVec.ofNat 4 f, heldF := none, heldCad := false, heldReady := false }
    (stOk, { s with pwr := p2 })

/-- Does a plan record route a cell to, from or through this device's ports (R515)? -/
def planTouches (s : State) (r : PlanRec) : Bool :=
  r.dev == devNum s || (match linkAt s.boot.cfg.map r.dev r.port with | some l => l.1 == devNum s | none => false)

/-- A write of PWR_STATE (R515). Black is left only by LOCAL_WAKE. -/
def stateWrite (v : Word) (s : State) : Wrote :=
  let req := fld v 1 0
  let p := s.pwr
  let any (f : Ctx → Bool) : Bool := allCtxIds.any fun n => f (s.ctx n)
  let now := p.now.toNat
  if p.busy then refuse stCtxBusy s
  else if 1 ≤ req && any (fun c => c.state == 2) then refuse stCtxBusy s
  else if req = 2 && any (fun c => c.state == 3 || c.state == 4) then refuse stCtxBusy s
  else if req = 2 && any (fun c => c.x.plan.any (planTouches s)) then refuse stCtxBusy s
  else if (req ≤ 1 && 2 ≤ now) || (req = 2 && now = 3) then refuse stCtxBusy s
  else
    let tr : Trans := if req = now then .none else match req with
      | 0 => .dimOut
      | 1 => .dimIn
      | 2 => .greyIn false
      | _ => .blackIn
    let mark := allCoreIds.flatMap fun c => ((List.finRange 56).filter fun b => (s.core c).own[b.val].retain).map
      fun b => (c, b.val)
    (stOk, { s with pwr := { p with
      req := BitVec.ofNat 2 req, trans := tr, busy := !decide (req = now)
      retainMark := if req = 2 then mark else p.retainMark, greyAsked := if req = 2 then frameNow s else p.greyAsked } })

/-- A write of DMA_ABORT (R250): refused where the context is not halted or faulted, or a resume of it was accepted before. A channel
that has stopped keeps the residue of that stop. -/
def abortWrite (c : CoreId) (v : Word) (s : State) : Wrote :=
  let k := s.core c
  let named := (List.finRange 16).filter fun i => bit v i.val
  let okCh (i : Fin 16) : Bool :=
    let ch := k.chan[i.val]
    let x := s.ctx ch.ctx
    ch.valid && (x.state == 4 || (x.state == 3 && (x.v.resumeAt.isNone || x.v.toReplay)))
  if !named.all okCh then refuse stCtxBusy s
  else
    let one (s : State) (i : Fin 16) : State :=
      let d := (s.core c).dma[i.val]
      let n := (s.core c).chan[i.val].ctx
      if d.state = 0 then s
      else
        let s := if d.state = 4 then modChan c i (fun d => { d with cause := 1 }) s else chanStop n c i 1 s
        raiseEvent evDmaAborted (some n)
          [put c.val 8 ||| put i.val 0, regGet s (.resRef c i), regGet s (.resCnt c i)] s
    (stOk, named.foldl one s)

/-- The rule of each register for an accepted write of a value (the chapter of the register). -/
def regApply (r : Reg) (v : Word) (s : State) : Wrote :=
  match r with
  | .ctxMode n =>
    let c := s.ctx n
    let priv := bit v 2
    if (c.loose != bit v 0 || c.borrow != bit v 1) && c.state != 0 then refuse stCtxBusy s
    else if priv != c.priv && c.state != 0 then refuse stCtxBusy s
    else if priv && !c.priv && 2 ≤ ((allCtxIds.filter fun m => (s.ctx m).priv).length) then refuse stPrivLimit s
    else (stOk, s.modCtx n fun c => { c with loose := bit v 0, borrow := bit v 1, priv := priv })
  | .wscrub =>
    let st := fld v 47 32
    let mi := fld v 31 16
    if st = 0 || mi = 0 || 1440 < mi then refuse stAddressFault s
    else (stOk, { s with wscrub := { s.wscrub with steps := BitVec.ofNat 16 st, minutes := BitVec.ofNat 16 mi, en := bit v 0 } })
  | .pwrVf => vfWrite v s
  | .pwrLimit =>
    let l := fld v 31 16
    if l < 1800 || s.pwr.boardMax.toNat < l then refuse stAddressFault s
    else (stOk, { s with pwr := { s.pwr with limit := BitVec.ofNat 16 l } })
  | .pwrState => stateWrite v s
  | .pwrWake => (stOk, { s with pwr := { s.pwr with enAlarm := bit v 3, enCell := bit v 2, enSignal := bit v 1 } })
  | .cadence =>
    let q := fld v 11 8
    if 4 < q then refuse stAddressFault s
    else (stOk, { s with ind := { s.ind with cadReq := BitVec.ofNat 4 q } })
  | .alarm =>
    let s := { s with ind := { s.ind with alarmAt := v } }
    (stOk, if s.ind.alarmEn && v.toNat ≤ nsNow s then fireAlarm s else s)
  | .alarmCtl => (stOk, { s with ind := { s.ind with
      alarmEn := bit v 0, alarmFired := s.ind.alarmFired && !bit v 1 } })
  | .sepRing => (stOk, { s with sep := { s.sep with stall := bit v 0 } })
  | .sepFloor =>
    if v.toNat < s.sep.floor.toNat || s.sep.head.toNat < v.toNat || v.toNat % 64 != 0 then refuse stAddressFault s
    else (stOk, { s with sep := { s.sep with floor := v, index := s.sep.index.filter fun e => v.toNat ≤ e.1 } })
  | .sepFine n => (stOk, { s with sep := { s.sep with
      account := upd s.sep.account n fun _ => BitVec.ofNat 32 (fld v 63 32)
      mask := upd s.sep.mask n fun _ => BitVec.ofNat 32 (fld v 31 0) } })
  | .sepCtl n => (stOk, { s with sep := { s.sep with
      every := upd s.sep.every n fun _ => BitVec.ofNat 32 (fld v 63 32)
      fineEn := upd s.sep.fineEn n fun _ => bit v 1
      held := upd s.sep.held n fun h => h && !bit v 0 } })
  | .ctxLim d n =>
    let cur := (s.die d).lim[n.val]
    let tab := fld v 46 32
    let res := fld v 5 0
    let sum (f : CtxLim → Nat) (new : Nat) : Nat :=
      (allCtxIds.map fun m => if m = n then new else f ((s.die d).lim[m.val])).foldl (· + ·) 0
    if (cur.table.toNat != tab || cur.resident.toNat != res) && (s.ctx n).state != 0 then refuse stCtxBusy s
    else if 16384 < sum (·.table.toNat) tab || 48 < sum (·.resident.toNat) res then refuse stPrivLimit s
    else (stOk, s.modDie d fun x => { x with
      lim := upd x.lim n fun _ => { table := BitVec.ofNat 15 tab, resident := BitVec.ofNat 6 res } })
  | .dl _ n => (stOk, s.modCtx n fun c => { c with dl := { c.dl with
      waitLimit := BitVec.ofNat 16 (fld v 63 48), deadline := BitVec.ofNat 24 (fld v 47 24)
      fbHold := BitVec.ofNat 8 (fld v 23 16), fbEn := bit v 1 } })
  | .memScrub _ =>
    let m := fld v 47 32
    let h := fld v 31 16
    if m = 0 || 1440 < m || h = 0 || 168 < h then refuse stAddressFault s
    else (stOk, { s with scrub := { s.scrub with sramMin := BitVec.ofNat 16 m, dramH := BitVec.ofNat 16 h, en := bit v 0 } })
  | .stgOwn d g b => bankWrite false (.stg ⟨8 * d.val + g.val, by have := d.isLt; have := g.isLt; omega⟩ b.val) v s
  | .stgForce d g b => bankWrite true (.stg ⟨8 * d.val + g.val, by have := d.isLt; have := g.isLt; omega⟩ b.val) v s
  | .poolOwn d b => bankWrite false (.pool d b.val) v s
  | .poolForce d b => bankWrite true (.pool d b.val) v s
  | .bankOwn c b => bankWrite false (.spad c b.val) v s
  | .bankForce c b => bankWrite true (.spad c b.val) v s
  | .stgRepair d g b =>
    let new := BitVec.ofNat 48 (fld v 47 0)
    if repairBad (((s.die d).stgRepair[g.val]).toList.getD b.val 0) new then refuse stAddressFault s
    else (stOk, s.modDie d fun x => { x with stgRepair := upd x.stgRepair g fun w => upd w b fun _ => new })
  | .poolRepair d b =>
    let new := BitVec.ofNat 48 (fld v 47 0)
    if repairBad (s.die d).poolRepair[b.val] new then refuse stAddressFault s
    else (stOk, s.modDie d fun x => { x with poolRepair := upd x.poolRepair b fun _ => new })
  | .bankRepair c b =>
    let new := BitVec.ofNat 48 (fld v 47 0)
    if repairBad (s.core c).repair[b.val] new then refuse stAddressFault s
    else (stOk, s.modCore c fun k => { k with repair := upd k.repair b fun _ => new })
  | .shdCtl _ n =>
    let f := fld v 2 0
    if 5 ≤ f then refuse stAddressFault s
    else (stOk, s.modCtx n fun c => { c with sel := { c.sel with fraction := BitVec.ofNat 3 f } })
  | .shdSeed _ n => (stOk, s.modCtx n fun c => { c with sel := { c.sel with seed := v } })
  | .ipat c e h =>
    let i : Fin 8 := ⟨e.val * 2 + h.val, by have := e.isLt; have := h.isLt; omega⟩
    let cur := (s.core c).ipat[i.val]
    let busyCtx (x : Nat) : Bool := x.testBit 3 && (s.ctx (ctxOf x)).state != 0
    let bad := (List.range 16).any fun k =>
      let a := fld cur (4 * k + 3) (4 * k)
      let b := fld v (4 * k + 3) (4 * k)
      a != b && (busyCtx a || busyCtx b)
    if bad then refuse stCtxBusy s
    else (stOk, s.modCore c fun k => { k with ipat := upd k.ipat i fun _ => v })
  | .meSplit c =>
    let acc := BitVec.ofNat 32 (fld v 63 32)
    let que := BitVec.ofNat 32 (fld v 31 0)
    let k := s.core c
    if splitBusy s k.acc acc || splitBusy s k.que que then refuse stCtxBusy s
    else if 8 < nibbleSum v.toNat 32 || 8 < nibbleSum v.toNat 0 then refuse stPrivLimit s
    else (stOk, s.modCore c fun k => { k with acc := acc, que := que })
  | .eeSplit c =>
    let sets := BitVec.ofNat 32 (fld v 31 0)
    if splitBusy s (s.core c).sets sets then refuse stCtxBusy s
    else if 4 < nibbleSum v.toNat 0 then refuse stPrivLimit s
    else (stOk, s.modCore c fun k => { k with sets := sets })
  | .dbgCtrl c =>
    let n := ctxOf (fld v 6 4)
    if bit v 0 && (s.ctx n).state != 3 then refuse stCtxBusy s
    else (stOk, s.modCore c fun k => { k with dbgCtx := n, dbgEn := bit v 0 })
  | .dbgSel c => (stOk, s.modCore c fun k => { k with
      dbgSet := BitVec.ofNat 3 (fld v 18 16), dbgRow := BitVec.ofNat 8 (fld v 15 8), dbgCol := BitVec.ofNat 8 (fld v 7 0) })
  | .dmaAbort c => abortWrite c v s
  | .dmaChan c h =>
    let cur := (s.core c).chan[h.val]
    let valid := bit v 3
    let n := ctxOf (fld v 2 0)
    let sl := fld v 15 8
    let changes := cur.valid != valid || cur.ctx != n || cur.slices.toNat != sl
    let busyOwner := (cur.valid && (s.ctx cur.ctx).state != 0) || (valid && (s.ctx n).state != 0)
    let sum : Nat := ((List.finRange 16).map fun i => if i = h then sl else (s.core c).chan[i.val].slices.toNat).foldl (· + ·) 0
    if changes && busyOwner then refuse stCtxBusy s
    else if 64 < sum then refuse stPrivLimit s
    else (stOk, s.modCore c fun k => { k with
      chan := upd k.chan h fun _ => { slices := BitVec.ofNat 8 sl, valid := valid, ctx := n } })
  | _ => (stOk, s)

/-- The W1C and WO fields of a register: a write passes their bits as written. -/
def strobeMask : Reg → Word
  | .alarmCtl => ones 1 1
  | .sepCtl _ => ones 0 0
  | _ => 0

/-- The fields of a register that a write can set. -/
def writeMask (r : Reg) : Word := owMask r ||| twMask r ||| rwMask r ||| strobeMask r

/-- The word that a register takes from an accepted write: its writable fields from the value, the others as they were (R590). -/
def mergeWrite (r : Reg) (cur v : Word) : Word := (cur &&& ~~~(writeMask r)) ||| (v &&& writeMask r)

/-- A register write, judged as a whole (R590), then by the register's rule. -/
def regWriteBy (who : Who) (r : Reg) (v : Word) (s : State) : Wrote :=
  let cur := regGet s r
  let ch := cur ^^^ v
  if ch &&& owMask r ≠ 0 ∧ who ≠ .owner then refuse stNotOwner s
  else if ch &&& twMask r ≠ 0 ∧ who ≠ .renine then refuse stAddressFault s
  else regApply r (mergeWrite r cur v) s

/-- A write to a control address (R35). -/
def regWriteAt (who : Who) (addr : Nat) (v : Word) (s : State) : Wrote :=
  match regAt addr with
  | none => refuse stAddressFault s
  | some r => regWriteBy who r v s

end Sys2Proof.Machine
end

