-- ==== Sys2Proof/Machine/Image.lean ====
section
/-! DEFINITION. Reading a job image: header, directory, manifest, chunk markers and the sections' tables (R27, R28, R592,
R598, and the layouts R195, R256, R261, R266, R311, R395, R415, R416, R436 they name). -/

namespace Sys2Proof.Machine

/-- A section of an image: its TYPE and its bytes. -/
structure Sect where
  type : Nat
  bytes : List Byte
  deriving DecidableEq, Repr

/-- A manifest entry (R28). -/
structure ManEnt where
  type : Nat
  first : Nat
  count : Nat
  digest : List Byte
  deriving DecidableEq, Repr

/-- A chunk that the image holds: TYPE, FIRST, COUNT and its bytes. -/
structure Chunk where
  type : Nat
  first : Nat
  count : Nat
  bytes : List Byte
  deriving DecidableEq, Repr

/-- An image after its framing has been checked. -/
structure RawImage where
  contract : Nat
  steps : Nat
  progDig : List Word
  manifest : List ManEnt
  sects : List Sect
  chunks : List Chunk
  deriving DecidableEq, Repr

/-- A check with a status: nothing when it passes. -/
def need (b : Bool) (status : Nat) : Except Nat Unit := if b then .ok () else .error status

/-- The logical section types other than the manifest (R28). -/
def logicalTypes : List Nat := [0x02, 0x03, 0x04, 0x05, 0x06, 0x07, 0x08, 0x09, 0x0A, 0x0B, 0x0C, 0x0D, 0x0E, 0x0F, 0x10]

/-- The placed section types (R28). -/
def placedTypes : List Nat := [0x20, 0x21, 0x22]

/-- The directory: TYPE, OFFSET and LENGTH of each entry (R27). -/
def imageDir (rd : Nat → Nat → List Byte) (size n : Nat) : Except Nat (List (Nat × Nat × Nat)) :=
  let ents := (chunks 16 (rd 64 (16 * n))).map bytesToWords
  let dec (w : List Word) : Nat × Nat × Nat := (fld (wd w 0) 63 56, fld (wd w 0) 39 0, fld (wd w 1) 39 0)
  let good (w : List Word) : Bool :=
    let e := dec w
    fld (wd w 0) 55 40 == 0 && fld (wd w 1) 63 40 == 0 && e.2.1 % 64 == 0 && decide (64 + 16 * n ≤ e.2.1 || e.2.2 = 0) &&
    decide (e.2.1 + e.2.2 ≤ size)
  if ents.all good then .ok (ents.map dec) else .error stFormatMismatch

/-- The manifest's entries (R28). -/
def manifestOf (bs : List Byte) : List ManEnt :=
  (chunks 48 bs).map fun e =>
    let w := bytesToWords (e.take 16)
    { type := fld (wd w 0) 63 56, first := fld (wd w 0) 39 0, count := fld (wd w 1) 39 0, digest := e.drop 16 }

/-- Is the manifest sorted, and do the chunks of each section start at 0 and follow one another (R28)? -/
def manifestOk (bs : List Byte) (m : List ManEnt) : Bool :=
  bs.length % 48 == 0 &&
  (chunks 48 bs).all (fun e => let w := bytesToWords (e.take 16); fld (wd w 0) 55 40 == 0 && fld (wd w 1) 63 40 == 0) &&
  m.all (fun e => logicalTypes.contains e.type && decide (1 ≤ e.count)) &&
  (match m with
   | [] => true
   | e :: _ => e.first == 0) &&
  chainB (fun a b => (decide (a.type < b.type) && b.first == 0) ||
    (a.type == b.type && b.first == a.first + a.count)) m

/-- The chunks of a logical section, each behind its marker (R592); fuel is the section's length in lines. -/
def chunksOf (type : Nat) : Nat → List Byte → Except Nat (List Chunk)
  | 0, _ => .error stFormatMismatch
  | f + 1, bs =>
    if bs.isEmpty then .ok []
    else
      let w := bytesToWords (bs.take 64)
      let nb := fld (wd w 2) 39 0
      let first := fld (wd w 0) 39 0
      let good := decide (64 ≤ bs.length) && fld (wd w 0) 63 56 == type && fld (wd w 0) 55 40 == 0 &&
        fld (wd w 1) 63 40 == 0 && fld (wd w 2) 63 40 == 0 && (w.drop 3).all (· == 0) &&
        decide (64 + nb ≤ bs.length)
      if !good then .error stFormatMismatch
      else
        let c : Chunk := { type, first, count := fld (wd w 1) 39 0, bytes := (bs.drop 64).take nb }
        let rest := (bs.drop 64).drop nb
        if rest.isEmpty then .ok [c]
        else
          let pad := (64 - nb % 64) % 64
          if (rest.take pad).all (· == 0) && decide (pad < rest.length) then
            (chunksOf type f (rest.drop pad)).map fun cs => c :: cs
          else .error stFormatMismatch

/-- Does a chunk match a manifest entry of its section and its digest (R28, R592)? -/
def chunkOk (m : List ManEnt) (c : Chunk) : Bool :=
  m.any fun e => e.type == c.type && e.first == c.first && e.count == c.count && e.digest == shake256 32 c.bytes

/-- The chunks of every logical section, in ascending FIRST within each. -/
def allChunks : List Sect → Except Nat (List Chunk)
  | [] => .ok []
  | s :: rest =>
    if logicalTypes.contains s.type then do
      let cs ← chunksOf s.type (s.bytes.length / 64 + 1) s.bytes
      need (chainB (fun a b => decide (a.first < b.first)) cs) stFormatMismatch
      let more ← allChunks rest
      .ok (cs ++ more)
    else allChunks rest

/-- Read and check the framing of an image: header, directory, manifest, markers and digests (R27, R28, R592). A
transit image holds the manifest and only placed sections. -/
def readImage (rd : Nat → Nat → List Byte) (size : Nat) (transit : Bool) : Except Nat RawImage := do
  need (decide (64 ≤ size)) stFormatMismatch
  let h := bytesToWords (rd 0 64)
  let ndir := fld (wd h 0) 15 0
  let steps := (wd h 1).toNat
  need (fld (wd h 0) 63 32 == 0x574A4F42) stFormatMismatch
  need (decide (fld (wd h 0) 31 16 ≤ 1)) stContractRev
  need (decide (1 ≤ ndir) && decide (ndir ≤ 64) && decide (1 ≤ steps) && decide (steps ≤ 2 ^ 63) &&
    wd h 6 == 0 && wd h 7 == 0 && decide (64 + 16 * ndir ≤ size)) stFormatMismatch
  let dir ← imageDir rd size ndir
  let types := dir.map (·.1)
  need (distinct types && types.all (fun t => t == 1 || logicalTypes.contains t || placedTypes.contains t)) stFormatMismatch
  need (!transit || types.all (fun t => t == 1 || placedTypes.contains t)) stFormatMismatch
  let sects := dir.map fun e => { type := e.1, bytes := rd e.2.1 e.2.2 : Sect }
  let man := ((sects.find? fun s => s.type == 1).map (·.bytes)).getD []
  need (types.contains 1) stFormatMismatch
  need (bytesToWords (shake256 32 man) == (h.drop 2).take 4) stFormatMismatch
  let m := manifestOf man
  need (manifestOk man m) stFormatMismatch
  let cs ← allChunks sects
  need (cs.all (chunkOk m)) stFormatMismatch
  .ok { contract := fld (wd h 0) 31 16, steps, progDig := (h.drop 2).take 4, manifest := m, sects, chunks := cs }

/-- The bytes of a placed section. -/
def RawImage.placed (r : RawImage) (t : Nat) : List Byte := ((r.sects.find? fun s => s.type == t).map (·.bytes)).getD []

/-- The placed image digest: the placed sections in ascending TYPE (R28). -/
def RawImage.placedDig (r : RawImage) : List Word := bytesToWords (shake256 32 (placedTypes.flatMap r.placed))

/-- The bytes of a logical section's chunks in ascending FIRST. -/
def RawImage.logical (r : RawImage) (t : Nat) : List Byte := (r.chunks.filter fun c => c.type == t).flatMap (·.bytes)

/-- Entries of a fixed size as words. -/
def entries (size : Nat) (bs : List Byte) : List (List Word) := (chunks size bs).map bytesToWords

/-- The size of one entry of a fixed-size logical section, 0 for sections of images and for the job key, of which R28 does
not say whether it is one entry or four. -/
def entrySize (t : Nat) : Nat :=
  match t with
  | 0x02 => 32 | 0x03 => 16 | 0x04 => 16 | 0x05 => 32 | 0x06 => 32 | 0x07 => 16 | 0x08 => 32 | 0x09 => 8 | 0x0A => 16
  | 0x0D => 2 | 0x0F => 8
  | _ => 0

/-- The images of a chunk of slab or buffer images or expert tables: number, the rest of word 0, and the bytes. -/
def imagesOf (t : Nat) : Nat → List Byte → Except Nat (List (Nat × Nat × List Byte))
  | 0, bs => if bs.isEmpty then .ok [] else .error stFormatMismatch
  | f + 1, bs =>
    let w := bytesToWords (bs.take 16)
    let len := if t = 0x0E then 24 * fld (wd w 1) 15 0 else fld (wd w 1) 39 0
    let stored := if t = 0x0E then ceilDiv len 64 * 64 else len
    let at_ := if t = 0x0C then fld (wd w 0) 39 0 else fld (wd w 0) 41 22
    let res := if t = 0x0C then fld (wd w 0) 41 40 == 0 && at_ % 64 == 0 else fld (wd w 0) 21 0 == 0
    let resW1 := if t = 0x0E then fld (wd w 1) 63 16 == 0 else fld (wd w 1) 63 40 == 0 && len % 64 == 0
    if decide (16 + stored ≤ bs.length) && res && resW1 then
      (imagesOf t f (bs.drop (16 + stored))).map fun l => (fld (wd w 0) 63 42, at_, (bs.drop 16).take len) :: l
    else .error stFormatMismatch

/-- Images of every chunk of one section. -/
def sectImages (t : Nat) : List Chunk → Except Nat (List (Nat × Nat × List Byte))
  | [] => .ok []
  | c :: rest =>
    if c.type = t then do
      let a ← imagesOf t c.count c.bytes
      let b ← sectImages t rest
      .ok (a ++ b)
    else sectImages t rest

/-- A thread table entry (R261). -/
def threadEnt (w : List Word) : ThreadDesc :=
  { thread := fld (wd w 0) 63 32, group := fld (wd w 0) 31 12, stream := fld (wd w 0) 11 11, slab := fld (wd w 1) 63 42,
    line := fld (wd w 1) 41 22, ncmd := fld (wd w 2) 63 32 }

/-- Does a thread table entry obey R261? -/
def threadEntOk (w : List Word) : Bool :=
  fld (wd w 0) 10 0 == 0 && fld (wd w 1) 21 0 == 0 && fld (wd w 2) 31 0 == 0 && wd w 3 == 0 && fld (wd w 2) 63 32 != 0

/-- A slab table entry (R256). -/
def slabEnt (w : List Word) : SlabDesc :=
  { slab := fld (wd w 0) 63 42, kind := fld (wd w 0) 41 40, group := fld (wd w 0) 39 20, lines := fld (wd w 1) 20 0 }

/-- Does a slab table entry obey R256? -/
def slabEntOk (w : List Word) : Bool :=
  let d := slabEnt w
  let top := [458752, 393216, 1048576].getD d.kind 0
  fld (wd w 0) 19 0 == 0 && fld (wd w 1) 63 21 == 0 && decide (1 ≤ d.lines) && decide (d.lines ≤ top)

/-- A counter table entry (R266). -/
def ctrEnt (w : List Word) : CtrDesc :=
  { ctr := fld (wd w 0) 63 44, ramp := bit (wd w 0) 43, init := fld (wd w 0) 31 0 }

/-- Does a counter table entry obey R266? -/
def ctrEntOk (w : List Word) : Bool := fld (wd w 0) 42 32 == 0 && wd w 1 == 0 && fld (wd w 0) 63 44 != 0

/-- A chain table entry (R195). -/
def chainEnt (w : List Word) : ChainEnt :=
  { chain := fld (wd w 0) 63 48, stage := fld (wd w 0) 47 32, role := fld (wd w 0) 31 30, kind := fld (wd w 0) 29 26,
    kM1 := fld (wd w 0) 25 22, thread := fld (wd w 1) 63 32, cmd := fld (wd w 1) 31 0, rowsM1 := fld (wd w 2) 63 56,
    width := fld (wd w 2) 55 36, idxBase := fld (wd w 3) 63 32, idxLen := fld (wd w 3) 31 0 }

/-- Does a chain table entry obey R195? -/
def chainEntOk (w : List Word) : Bool :=
  let e := chainEnt w
  fld (wd w 0) 21 0 == 0 && fld (wd w 2) 35 0 == 0 && e.chain != 0 && e.role != 0 && decide (e.kind ≤ 7) &&
  (e.kind == 3 || e.kM1 == 0) && e.width != 0

/-- A Tint table entry (R436). -/
def tintEnt (w : List Word) : TintEnt :=
  { thread := fld (wd w 0) 63 32, first := fld (wd w 0) 31 0, last := fld (wd w 1) 63 32, account := fld (wd w 1) 31 0,
    asThread := fld (wd w 2) 63 32, asCmd := fld (wd w 2) 31 0, alias_ := bit (wd w 3) 0 }

/-- Does a Tint table entry obey R435 and R436? -/
def tintEntOk (w : List Word) : Bool :=
  let e := tintEnt w
  let pass := e.account / 2 ^ 28
  fld (wd w 3) 63 1 == 0 && (decide (pass ≤ 6) || pass == 15)

/-- Do two Tint ranges overlap (R436)? A range whose CMD_LAST lies before its CMD_FIRST holds no command. -/
def tintsMeet (a b : TintEnt) : Bool :=
  a.thread == b.thread && decide (max a.first b.first ≤ min a.last b.last)

/-- The accounts that the commands of some threads name, with that of the commands that no entry covers (R436). -/
def accountsOf (tints : List TintEnt) (threads : List ThreadDesc) : List Nat :=
  dedup (threads.flatMap fun d =>
    let es := tints.filter fun e => e.thread == d.thread && decide (e.first ≤ e.last) && decide (e.first < d.ncmd)
    let covered : Nat := es.foldl (fun k e => k + (min (e.last + 1) d.ncmd - e.first)) 0
    es.map (·.account) ++ (if covered < d.ncmd then [0x6FFFFFFF] else []))

/-- A pin table entry (R416). -/
def pinEnt (w : List Word) : PinDesc :=
  { pin := fld (wd w 0) 63 54, hold := bit (wd w 0) 53, relCtr := fld (wd w 0) 52 33, tFirst := fld (wd w 1) 63 32,
    tLast := fld (wd w 1) 31 0 }

/-- Does a pin table obey R416? -/
def pinsOk (ps : List PinDesc) : Bool :=
  ps.all (fun p => !p.hold || p.relCtr != 0) &&
  pairsB (fun a b => decide (a.tLast < b.tFirst) || decide (b.tLast < a.tFirst)) ps

/-- A shard table entry (R415). -/
def shardEnt (w : List Word) : ShardDesc :=
  let n := fld (wd w 0) 43 42
  { shard := fld (wd w 0) 63 44, nbuf := n, frozen := bit (wd w 0) 41, read := fld (wd w 1) 63 42,
    next := fld (wd w 1) 41 20, sealCtr := fld (wd w 1) 19 0,
    bufs := [fld (wd w 2) 63 42, fld (wd w 2) 41 20] ++ (if n = 3 then [fld (wd w 3) 63 42] else []) }

/-- Does a shard table entry obey R415 by itself? -/
def shardEntOk (w : List Word) : Bool :=
  let e := shardEnt w
  fld (wd w 0) 40 0 == 0 && fld (wd w 2) 19 0 == 0 && fld (wd w 3) 41 0 == 0 && (e.nbuf == 2 || e.nbuf == 3) &&
  (e.nbuf == 3 || fld (wd w 3) 63 42 == 0) && (!e.frozen || e.next == 0) && e.shard != 0 && distinct e.bufs

/-- A buffer table entry (R28). -/
def bufEnt (w : List Word) : BufDesc :=
  { buf := fld (wd w 0) 63 42, tier := fld (wd w 0) 41 40, length := fld (wd w 1) 39 0 }

/-- Does a buffer table entry obey R28? -/
def bufEntOk (w : List Word) : Bool :=
  let e := bufEnt w
  fld (wd w 0) 39 0 == 0 && fld (wd w 1) 63 40 == 0 && decide (e.tier ≤ 2) && e.length % 64 == 0

/-- A declaration table entry (R395). -/
def winEnt (w : List Word) : WinDecl :=
  { win := fld (wd w 0) 63 44, kind := fld (wd w 0) 43 41, flag := bit (wd w 0) 40, frameMin := fld (wd w 0) 39 20,
    src := fld (wd w 1) 63 49, dst := fld (wd w 1) 48 34, chain := fld (wd w 1) 31 16, stage := fld (wd w 1) 15 0,
    volume := fld (wd w 2) 63 24, srcRef := wd w 3, dstRef := wd w 4,
    sigs := ([wd w 5, wd w 6].filter fun x => fld x 63 44 != 0).map fun x => (fld x 63 44, fld x 39 32) }

/-- Bytes of one partial row of a chain kind (R197). -/
def partialRowBytes (kind width : Nat) : Nat :=
  match kind with
  | 0 => 16 * width
  | 1 => 88 * width
  | _ => 8 * width

/-- The volume that R199 gives for a hop of a chain. -/
def hopVolume (e : ChainEnt) (flag : Bool) : Nat :=
  (e.rowsM1 + 1) * partialRowBytes e.kind e.width + (if flag then 16 else 0) + 8

/-- Is a declaration entry valid by itself (R395, R396)? -/
def winEntOk (w : List Word) : Bool :=
  let e := winEnt w
  let sigOk (x : Word) : Bool := fld x 43 40 == 0 && fld x 31 0 == 0 && (fld x 63 44 == 0) == (fld x 39 32 == 0)
  fld (wd w 0) 19 0 == 0 && fld (wd w 1) 33 32 == 0 && fld (wd w 2) 23 0 == 0 && wd w 7 == 0 && e.win != 0 &&
  decide (e.kind ≤ 4) && (!e.flag || e.kind == 2 || e.kind == 3) && (e.kind == 2 || (e.chain == 0 && e.stage == 0)) &&
  e.volume % 8 == 0 && decide (e.volume ≤ 10200547328) && (e.kind == 1 || e.srcRef == 0) &&
  (e.kind != 1 || decide (fld e.srcRef 63 62 ≤ 1)) && (e.kind != 3 || e.dstRef == 0) && sigOk (wd w 5) && sigOk (wd w 6)

/-- Does the declaration table obey R396 as far as the image alone shows? -/
def winsOk (ws : List (List Word)) (chains : List ChainEnt) (loose : Bool) : Bool :=
  let es := ws.map winEnt
  ws.all winEntOk && distinct (es.map (·.win)) &&
  chainB (fun a b => decide (a.frameMin < b.frameMin) || (a.frameMin == b.frameMin && decide (a.win < b.win))) es &&
  es.all (fun e => !(e.kind == 3 && e.flag) || loose) &&
  es.all (fun e => e.kind != 2 || match chains.find? (fun c => c.chain == e.chain) with
    | some c => e.volume == hopVolume c e.flag
    | none => true)

/-- The digests over a job's placed sections alone (R394): what a TRANSIT_LOAD keeps. -/
def transitJob (r : RawImage) (loose : Bool) : Except Nat Job := do
  need (placedTypes.all fun t => r.sects.any fun s => s.type == t) stFormatMismatch
  need (winsOk (entries 64 (r.placed 0x22)) [] loose && (r.placed 0x22).length % 64 == 0) stFormatMismatch
  .ok { progDig := r.progDig, placedDig := r.placedDig, contract := r.contract, steps := r.steps,
        groups := (entries 8 (r.placed 0x20)).map fun w => (fld (wd w 0) 63 44, fld (wd w 0) 43 29),
        ctrDevs := (entries 8 (r.placed 0x21)).map fun w => (fld (wd w 0) 63 44, fld (wd w 0) 43 29),
        wins := (entries 64 (r.placed 0x22)).map winEnt }

/-- The job that an image holds for a device: the tables, and the refusals of R28, R396, R415, R416, R436 and R598 that
need no binding. DESIGN CHOICE (log entry 61): a chunk whose BYTES are not COUNT entries of its section is FORMAT_MISMATCH too. -/
def jobOf (r : RawImage) (dev : Nat) (loose : Bool) : Except Nat Job := do
  let ent (t : Nat) : List (List Word) := entries (entrySize t) (r.logical t)
  need (r.chunks.all fun c => entrySize c.type = 0 || c.bytes.length == c.count * entrySize c.type) stFormatMismatch
  need (placedTypes.all fun t => r.sects.any fun s => s.type == t) stFormatMismatch
  need (r.chunks.any fun c => c.type == 0x0F) stFormatMismatch
  need (r.manifest.all fun e => !([0x0D, 0x0E, 0x0F, 0x10].contains e.type) ||
    r.chunks.any fun c => c.type == e.type && c.first == e.first) stFormatMismatch
  let place (t : Nat) : List (Nat × Nat) :=
    (entries 8 (r.placed t)).map fun w => (fld (wd w 0) 63 44, fld (wd w 0) 43 29)
  let placeOk (t : Nat) : Bool := (r.placed t).length % 8 == 0 &&
    (entries 8 (r.placed t)).all fun w => fld (wd w 0) 28 0 == 0
  need (placeOk 0x20 && placeOk 0x21 && (r.placed 0x22).length % 64 == 0) stFormatMismatch
  let here (g : Nat) : Bool := (place 0x20).any fun p => p.1 == g && p.2 == dev
  let slabs := (ent 0x03).map slabEnt
  let ctrs := (ent 0x04).map ctrEnt
  let bufs := (ent 0x0A).map bufEnt
  let shards := (ent 0x08).map shardEnt
  let pins := (ent 0x07).map pinEnt
  let tints := (ent 0x06).map tintEnt
  let chains := (ent 0x05).map chainEnt
  need ((place 0x21).all fun p => p.2 != dev || ctrs.any fun c => c.ctr == p.1) stFormatMismatch
  need ((place 0x20).all fun p => p.2 != dev || slabs.any fun s => s.group == p.1) stFormatMismatch
  need ((ent 0x03).all slabEntOk && distinct (slabs.map (·.slab)) && (ent 0x0A).all bufEntOk &&
    distinct (bufs.map (·.buf))) stFormatMismatch
  need ((ent 0x06).all tintEntOk && decide (tints.length ≤ 65536) && pairsB (fun a b => !tintsMeet a b) tints &&
    decide ((accountsOf tints (((ent 0x02).map threadEnt).filter fun d => here d.group)).length ≤ 4096)) stFormatMismatch
  need (pinsOk pins && (ent 0x07).all fun w => fld (wd w 0) 32 0 == 0) stFormatMismatch
  need ((ent 0x08).all shardEntOk && distinct (shards.map (·.shard)) && decide (shards.length ≤ 262144)) stFormatMismatch
  need ((ent 0x09).all fun w => fld (wd w 0) 43 0 == 0) stFormatMismatch
  let bis ← sectImages 0x0C r.chunks
  need (bis.all fun b => bufs.any fun d => d.buf == b.1) stFormatMismatch
  let sis ← sectImages 0x0B r.chunks
  let xts ← sectImages 0x0E r.chunks
  need (winsOk (entries 64 (r.placed 0x22)) chains loose) stFormatMismatch
  let beyond (l : Nat × Nat × List Byte) : Bool := match slabs.find? (fun d => d.slab == l.1) with
    | some d => here d.group && decide (d.lines * 64 < l.2.1 * 64 + l.2.2.length)
    | none => false
  need (!(sis.any beyond) && !(xts.any beyond)) stSlabOverrun
  need (bis.all fun b => match bufs.find? (fun d => d.buf == b.1) with
    | some d => decide (b.2.1 + b.2.2.length ≤ d.length)
    | none => true) stSlabOverrun
  let key := (chunks 4 (r.logical 0x10)).map leNat
  .ok { progDig := r.progDig, placedDig := r.placedDig
        keyDig := bytesToWords (shake256 32 (padTo 16 (r.logical 0x10)))
        declDig := bytesToWords (shake256 32 (r.logical 0x0D)), xeDig := bytesToWords (shake256 32 (r.logical 0x0E))
        contract := r.contract, steps := r.steps, threads := (ent 0x02).map threadEnt, slabs, ctrs, chains, tints, pins,
        shards, updates := (ent 0x09).map (fun w => fld (wd w 0) 63 44), bufs
        slabImages := sis.map fun x => { slab := x.1, line := x.2.1, bytes := x.2.2 }
        bufImages := bis.map fun x => { buf := x.1, offset := x.2.1, bytes := x.2.2 }
        declExp := (chunks 2 (r.logical 0x0D)).map fun b => sext 16 (leNat b)
        xeTables := xts.map fun x => { slab := x.1, line := x.2.1, bytes := x.2.2 }
        tagRef := wd ((ent 0x0F).getD 0 []) 0, key := key ++ List.replicate (4 - key.length) 0
        groups := place 0x20, ctrDevs := place 0x21, wins := (entries 64 (r.placed 0x22)).map winEnt
        badTables := !((ent 0x02).all threadEntOk && (ent 0x04).all ctrEntOk && (ent 0x05).all chainEntOk) ||
          !distinct (((ent 0x02).map threadEnt).map (·.thread)) || !distinct (ctrs.map (·.ctr)) }

end Sys2Proof.Machine
end

