-- ==== Sys2Proof/Machine/Ash.lean ====
section
/-! DEFINITION. Ash, the counter-based draw of R161 to R163. -/

namespace Sys2Proof.Machine

/-- The constants C of R161. -/
def ashC : List (BitVec 32) := [0x6A1C4F23, 0xB5E29D47, 0x3C8F1A6D, 0xD2710B39]

/-- The rotations ROT of R161. -/
def ashRot : List Nat := [7, 13, 19, 25, 5, 11, 17, 29]

/-- The working state of Ash: the four keys and x0–x3. -/
structure AshSt where
  k : List (BitVec 32)
  x0 : BitVec 32
  x1 : BitVec 32
  x2 : BitVec 32
  x3 : BitVec 32
  deriving DecidableEq, Repr

/-- One round r of Ash. -/
def ashRound (a : AshSt) (r : Nat) : AshSt :=
  let x0 := a.x0 + (a.x1 ^^^ a.k.getD (r % 4) 0)
  let x1 := rotl32 a.x1 (ashRot.getD (r % 8) 0) ^^^ x0
  let x2 := a.x2 + (a.x3 ^^^ ashC.getD (r % 4) 0)
  let x3 := rotl32 a.x3 (ashRot.getD ((r + 4) % 8) 0) ^^^ x2
  let k := if r % 4 = 3 then a.k.zipWith (fun kn c => kn + (c ^^^ BitVec.ofNat 32 r)) ashC else a.k
  { k := k, x0 := x0, x1 := x3, x2 := x2, x3 := x1 }

/-- The four words of Ash (R161) for key words J, step t, LAYER, SALT, row i, column j and draw d. -/
def ash (J : List (BitVec 32)) (t layer salt i j d : Nat) : List (BitVec 32) :=
  let w := BitVec.ofNat 32
  let k0 : List (BitVec 32) :=
    [J.getD 0 0 ^^^ w t, J.getD 1 0 ^^^ w (t >>> 32), J.getD 2 0 ^^^ w ((layer % 65536) * 65536 + salt % 65536), J.getD 3 0]
  let a := (List.range 12).foldl ashRound
    { k := k0, x0 := w i, x1 := w j, x2 := w d, x3 := 0x41736831 }
  [a.x0 + a.k.getD 0 0, a.x1 + a.k.getD 1 0, a.x2 + a.k.getD 2 0, a.x3 + a.k.getD 3 0]

end Sys2Proof.Machine
end

