-- ==== Sys2Proof/Machine/Matrix.lean ====
section
/-! DEFINITION. The matrix engine's commands: their fields and checks (R96 to R102, R107, R115 to R117, R186), the
products (R103 to R106, R68 to R72), the judgement and the drain with its functions (R81, R82, R113, R114, R118). -/

namespace Sys2Proof.Machine

/-! ### Squares (R184) -/

/-- Add the square of one element to a square sum. -/
def Sq.addNum (q : Sq) (x : Num) : Sq :=
  match x with
  | .nan => { q with nan := true, count := q.count + 1 }
  | .inf _ => { q with inf := true, count := q.count + 1 }
  | .fin _ m e => { q with v := q.v + (m * m) <<< (2 * e + 298).toNat, count := q.count + 1 }

/-- Combine two square sums (R197). -/
def Sq.join (a b : Sq) : Sq := { v := a.v + b.v, count := a.count + b.count, nan := a.nan || b.nan, inf := a.inf || b.inf }

/-- The square sum of stored rows: encodings with their scales. -/
def sqRows (code : Nat) (rows scales : List (List Nat)) : Sq :=
  rows.zipIdx.foldl (fun q (r, i) => (decodeRow code r (scales.getD i [])).foldl Sq.addNum q) {}

/-! ### Chain entries (R196, R596) -/

/-- The chain table entry of a command's stage. -/
def chainOf (c : Ctx) (thread cmd : Nat) : Option ChainEnt :=
  ((c.job.map (·.chains)).getD []).find? fun e => e.thread == thread && e.cmd == cmd

/-- Does a command agree with its chain table entry (R196, R596)? A SOLO command has none. -/
def chainAgrees (c : Ctx) (thread cmd role chain stage kind kM1 rows width : Nat) : Bool :=
  match chainOf c thread cmd with
  | none => role == 0 && chain == 0 && stage == 0
  | some e => role != 0 && e.role == role && e.chain == chain && e.stage == stage && e.kind == kind && e.kM1 == kM1 &&
      e.rowsM1 + 1 == rows && e.width == width

/-! ### The grid exponent's source (R76, R99) -/

/-- The declared exponent that a GRID word gives, none in header mode, with the checks of R76 and R99. -/
def declaredS (e : EC) (src : Nat) (g : Word) : Chk (Option Int) :=
  match src with
  | 0 => do
    req (g == 0) flFormatMismatch
    .ok none
  | 1 => do
    req (fld g 63 16 == 0) flFormatMismatch
    .ok (some (sext 16 (fld g 15 0)))
  | 2 => do
    req (fld g 63 12 == 0) flFormatMismatch
    match (((e.ctx.job.map (·.declExp)).getD [])[fld g 11 0]?) with
    | some x => .ok (some x)
    | none => .error (flFormatMismatch, 0)
  | _ => do
    req (fld g 16 0 == 0) flFormatMismatch
    let a ← scratch e (fld g 63 42) (fld g 41 22) 64
    .ok (some (sext 16 (leNat (e.s.readB (a + 2 * fld g 21 17) 2))))

/-! ### Fields and checks -/

/-- Formats of scale, bias and AUX (R115). -/
def epiFmt (f : Nat) : Bool := [0x3, 0x4, 0x8, 0x9, 0xA].contains f

/-- Formats of the output (R115). -/
def outFmt (f : Nat) : Bool := [0x1, 0x3, 0x4, 0x5, 0x6, 0x8, 0x9, 0xA, 0xB].contains f

/-- A format pair that R107 allows. -/
def pairFmt (a b : Nat) : Bool :=
  let fl (f : Nat) : Bool := [0x1, 0x3, 0x4, 0x5, 0x8, 0x9, 0xA].contains f
  (fl a && fl b) || (fmtInt a && fmtInt b)

/-- An operand of a product (R103, R104). -/
def sideIn (e : EC) (w : Word) (code : Nat) (along : Bool) (mn k : Nat) : Chk Side :=
  if along then (panelIn e w code k mn).map fun ts => { tiles := ts, along := true }
  else (tileIn e w code mn k).map fun t => { tiles := [t], along := false }

/-- The field checks of R116 that need no operand. A reserved format code is named nowhere (R60); another code in the
format field of an epilogue operand that the command does not use is accepted (log entry 43). -/
def meFieldsOk (env body : List Word) : Bool :=
  let c := wd body 0
  let p := wd body 1
  let ch := wd body 3
  let mmd := fld c 63 56 == 0x11
  let k := fld c 19 0
  let k2 := fld (wd body 13) 19 0
  let kt := fld ch 23 0
  let role := fld c 39 38
  let final := role == 0 || role == 3
  let (ta, tb) := (bit c 43, bit c 42)
  let fo := fld c 47 44
  let (sm, bm) := (fld p 63 60, fld p 55 54)
  let (func, deriv, zout, dest) := (fld p 44 40, bit p 39, bit p 34, fld p 33 32)
  let aux := deriv || zout
  let unused (used : Bool) (i : Nat) : Bool := used || wd body i == 0
  (fld c 63 56 == 0x10 || mmd) && fld c 37 36 == 0 && k != 0 && decide (fld c 35 28 ≤ 127) && decide (fld c 27 20 ≤ 127) &&
  decide (sm ≤ 4) && decide (bm ≤ 2) && decide (func ≤ 5) && fld p 29 0 == 0 && fld ch 31 24 == 0 &&
  kt != 0 && decide (kt ≤ 8388608) && (!mmd || (k2 != 0 && fld (wd body 13) 53 20 == 0)) &&
  unused (fld c 41 40 != 0) 2 && unused final 6 && unused (sm != 0) 7 && unused (bm != 0) 8 && unused (bit p 49) 9 &&
  unused aux 10 && unused mmd 11 && unused mmd 12 && unused mmd 13 && wd body 14 == 0 && wd body 15 == 0 &&
  pairFmt (fld c 55 52) (fld c 51 48) && (!mmd || pairFmt (fld (wd body 13) 63 60) (fld (wd body 13) 59 56)) &&
  ((ta && tb) || decide (k ≤ 65535)) &&
  (!mmd || (bit (wd body 13) 55 && bit (wd body 13) 54) || decide (k2 ≤ 65535)) &&
  (role != 0 || (fld ch 63 32 == 0 && kt == k + (if mmd then k2 else 0))) &&
  !(deriv && func == 0) && !(deriv && zout) && !(func != 0 && (fo == 0x6 || fo == 0xB)) &&
  (if final then dest != 3 else dest == 3 && fld p 63 34 == 0) && !((dest == 1 || dest == 2) && fo == 0xB) && outFmt fo &&
  (sm == 0 || epiFmt (fld p 59 56)) && (bm == 0 || epiFmt (fld p 53 50)) &&
  (!bit p 49 || epiFmt (fld p 48 45) || fld p 48 45 == 0xB) && (!aux || epiFmt (fld p 38 35)) &&
  ([fld p 59 56, fld p 53 50, fld p 48 45, fld p 38 35].all fun f => f == 0 || fmtValid f) &&
  !(bit p 31 && (fld (wd env 0) 63 58 == 0 || fo == 0xB))

/-- An operand that is present only under a condition. -/
def optIn {α : Type} (b : Bool) (x : Chk α) : Chk (Option α) := if b then x.map some else .ok none

/-- Check an ME command and read its references (R96 to R117, R186, R596). -/
def meRead (e : EC) (env body : List Word) : Chk MeOps := do
  req (meFieldsOk env body) flFormatMismatch
  let c := wd body 0
  let p := wd body 1
  let ch := wd body 3
  let d := wd body 13
  let mmd := fld c 63 56 == 0x11
  let m := fld c 35 28 + 1
  let n := fld c 27 20 + 1
  let role := fld c 39 38
  let final := role == 0 || role == 3
  req (chainAgrees e.ctx e.thread e.cmd role (fld ch 63 48) (fld ch 47 32) 0 0 m n) flFormatMismatch
  let declared ← declaredS e (fld c 41 40) (wd body 2)
  let a ← sideIn e (wd body 4) (fld c 55 52) (bit c 43) m (fld c 19 0)
  let b ← sideIn e (wd body 5) (fld c 51 48) (bit c 42) n (fld c 19 0)
  let pair2 ← optIn mmd (do
    let a2 ← sideIn e (wd body 11) (fld d 63 60) (bit d 55) m (fld d 19 0)
    let b2 ← sideIn e (wd body 12) (fld d 59 56) (bit d 54) n (fld d 19 0)
    .ok (a2, b2))
  let sm := fld p 63 60
  let bm := fld p 55 54
  let (sr, sc) := if sm = 1 then (1, m) else if sm = 2 then (1, n) else if sm = 3 then (m, n) else (1, 1)
  let scale ← optIn (sm != 0) (tileIn e (wd body 7) (fld p 59 56) sr sc)
  let bias ← optIn (bm != 0) (tileIn e (wd body 8) (fld p 53 50) 1 (if bm = 1 then n else m))
  let res ← optIn (bit p 49) (tileIn e (wd body 9) (fld p 48 45) m n)
  let auxIn ← optIn (bit p 39) (tileIn e (wd body 10) (fld p 38 35) m n)
  let auxOut ← optIn (bit p 34) (outPlace e (wd body 10) (fld p 38 35) m n)
  let dest := fld p 33 32
  let fo := fld c 47 44
  req (!(final && fmtMX fo) || n % 32 == 0) flFormatMismatch
  req (!final || outForm (wd body 6) fo n) flFormatMismatch
  let out ← optIn (final && dest != 1) (outPlace e (wd body 6) fo m n)
  let inputs := a.tiles ++ b.tiles ++ (match pair2 with | some q => q.1.tiles ++ q.2.tiles | none => []) ++
    scale.toList ++ bias.toList ++ res.toList ++ auxIn.toList
  req (declared.isSome || tilesSealed inputs) flFormatMismatch
  .ok { mmd, role, m, n, kt := fld ch 23 0, chain := fld ch 63 48, stage := fld ch 47 32,
        pairs := (a, b) :: pair2.toList, declared, fmtOut := fo, scaleMode := sm, scale, biasMode := bm, bias, res,
        func := fld p 44 40, deriv := bit p 39, auxFmt := fld p 38 35, auxIn, auxOut, dest, out
        tap := if bit p 31 then fld (wd env 0) 63 58 else 0, fine := bit p 30 }

/-- The ranges that the product phase reads (R103). -/
def MeOps.readRanges (o : MeOps) : List (Nat × Nat) :=
  o.pairs.flatMap fun p => (p.1.tiles ++ p.2.tiles).map Tile.range

/-- The ranges that the drain reads and writes (R113). -/
def MeOps.drainRanges (o : MeOps) : List (Nat × Nat) :=
  (o.scale.toList ++ o.bias.toList ++ o.res.toList ++ o.auxIn.toList).map Tile.range ++
  (o.out.toList.map fun p => p.range o.fmtOut o.m o.n) ++ o.auxOut.toList.map fun p => p.range o.auxFmt o.m o.n

/-! ### Products -/

/-- MAXEXP of each operand panel: Ea, Eb, Ea2, Eb2 (R78, R200). -/
def MeOps.heads (o : MeOps) : List (Option Int) :=
  let es := o.pairs.flatMap fun p => [tilesExp p.1.tiles, tilesExp p.2.tiles]
  es ++ List.replicate (4 - es.length) none

/-- The header-mode exponent from merged panel exponents (R78, R106). -/
def MeOps.headS (o : MeOps) (h : List (Option Int)) : Int :=
  let p := maxExpO (pairP (h.getD 0 none) (h.getD 1 none)) (pairP (h.getD 2 none) (h.getD 3 none))
  let ex (t : Option Tile) : Option (Option Int) := t.map fun t => t.hdr.bind (·.maxexp)
  headerS p o.kt (ex o.scale) (ex o.bias) (ex o.res)

/-- The rows over K of an operand: one for each of the M or N indices (R103). -/
def sideRows (s : State) (x : Side) (mn : Nat) : List (List Num) :=
  if x.along then transposeL mn Num.zero (tilesRows s x.tiles) else tilesRows s x.tiles

/-- Add the products of one row of A with one of B (R68, R70 to R72). -/
def dotAdd (sv : Int) (g : GElem) (as bs : List Num) : GElem :=
  (as.zip bs).foldl (fun g p => g.addNum (mulNum p.1 p.2) sv) g

/-- Add the products of a pair of operands into rows of accumulator elements. -/
def addProducts (s : State) (o : MeOps) (sv : Int) (acc : List (List GElem)) (p : Side × Side) : List (List GElem) :=
  let as := sideRows s p.1 o.m
  let bs := sideRows s p.2 o.n
  (acc.zip as).map fun (row, a) => (row.zip bs).map fun (g, b) => dotAdd sv g a b

/-- The accumulator set after the product phase at s (R103, R106). -/
def MeOps.products (o : MeOps) (s : State) (sv : Int) : List (List GElem) :=
  o.pairs.foldl (addProducts s o sv) (List.replicate o.m (List.replicate o.n {}))

/-! ### Epilogue and drain -/

/-- The element of a tile's rows at (i, j). -/
def atRC (rows : List (List Num)) (i j : Nat) : Num := (rows.getD i []).getD j Num.zero

/-- The totals after the epilogue (R81). -/
def MeOps.totals (o : MeOps) (s : State) (sv : Int) (parts : List (List GElem)) : List (List FElem) :=
  let sc := tilesRows s o.scale.toList
  let bi := tilesRows s o.bias.toList
  let pairRes : Bool := match o.res with | some t => t.code == 0xB | none => false
  let rp : List (List GPair) := match o.res with
    | some t => if pairRes then (List.range t.rows).map (tilePairs s t) else []
    | none => []
  let rs := if pairRes then [] else tilesRows s o.res.toList
  parts.zipIdx.map fun (row, i) => row.zipIdx.map fun (g, j) =>
    let c : Option Num := match o.scaleMode with
      | 0 => none
      | 1 => some (atRC sc 0 i)
      | 2 => some (atRC sc 0 j)
      | 3 => some (atRC sc i j)
      | _ => some (atRC sc 0 0)
    let b : Option Addend := match o.biasMode with
      | 1 => some (.num (atRC bi 0 j))
      | 2 => some (.num (atRC bi 0 i))
      | _ => none
    let r : Option Addend :=
      if o.res.isNone then none
      else if pairRes then ((rp.getD i [])[j]?).map .pair
      else some (.num (atRC rs i j))
    epilogue g c b r sv

/-- The binary32 value of a total (R113 step 5). -/
def toB32 (x : FElem) (sv : Int) : Num := decodeElem 0xA (encodeNum 0xA (x.toNum sv)).raw

/-- A drained row of OUT: the conversions of R113 steps 4 to 6. -/
def MeOps.outRow (o : MeOps) (aux : List Num) (xs : List FElem) (sv : Int) : OutRow :=
  if o.func = 0 then drainRow o.fmtOut xs sv
  else
    let vs := if o.deriv then
        xs.zipIdx.map fun (x, j) =>
          decodeElem 0xA (mulNum2 0xA (toB32 x sv) (drainDeriv o.func (aux.getD j Num.zero))).raw
      else xs.map fun x => drainFn o.func (toB32 x sv)
    let r := Machine.outRow o.fmtOut vs
    { r with nonfin := r.nonfin || xs.any (·.special) }

/-- A tile output: its header, rows and scales. -/
structure TileOut where
  hdr : TileHdr
  rows : List (List Nat)
  scales : List (List Nat)
  sat : Bool
  nonfin : Bool

/-- Gather drained rows into a tile with its header (R90). -/
def mkTile (code cols pitch : Nat) (rs : List OutRow) (rep : Bool) (sv : Int) : TileOut :=
  let st := rs.foldl (fun a r => a.join r.st) ({} : TileStats)
  let sat := rs.any (·.sat)
  { hdr := mkHdr code rs.length cols pitch st sat rep sv, rows := rs.map (·.raws), scales := rs.map (·.scales), sat,
    nonfin := rs.any (·.nonfin) }

/-- What the drain of a judged tile writes, digests, taps and counts (R113, R118, R119). -/
def MeOps.drain (o : MeOps) (e : EC) (sv : Int) (reps : Nat) (totals : List (List FElem)) : Effects :=
  let aux := tilesRows e.s o.auxIn.toList
  let rs := totals.zipIdx.map fun (xs, i) => o.outRow (aux.getD i []) xs sv
  let p : OutPlace := o.out.getD { addr := 0, hdr := true, pitch := rowLines o.fmtOut o.n }
  let t := mkTile o.fmtOut o.n p.pitch rs (decide (0 < reps)) sv
  let ws := outWrites p o.fmtOut t.hdr t.rows t.scales
  let at_ : Option (TileOut × List (Nat × List Byte)) := o.auxOut.map fun q =>
    let a := mkTile o.auxFmt o.n q.pitch (totals.map fun xs => drainRow o.auxFmt xs sv) (decide (0 < reps)) sv
    (a, outWrites q o.auxFmt a.hdr a.rows a.scales)
  { writes := (if o.out.isSome then ws else []) ++ (match at_ with | some a => a.2 | none => [])
    tints := roleDigest e.ctx e.thread e.cmd 0x01 (streamOf ws) ::
      (match at_ with | some a => [roleDigest e.ctx e.thread e.cmd 0x02 (streamOf a.2)] | none => [])
    fineAll := o.fine
    tap := if o.tap = 0 then none else some (sqRows o.fmtOut t.rows t.scales)
    nonfin := t.nonfin || (match at_ with | some a => a.1.nonfin | none => false)
    sat := t.sat || (match at_ with | some a => a.1.sat | none => false)
    gridTile := true
    queue := if o.dest = 1 || o.dest = 2 then
        some { ctx := e.n, thread := e.thread, cmd := e.cmd, hdr := t.hdr, rows := t.rows, scales := t.scales }
      else none }

end Sys2Proof.Machine
end

