-- ==== Sys2Proof/Machine/Element.lean ====
section
/-! DEFINITION. The element engine: program encoding and checks (R136 to R146), its registers, sections, instructions
(R139 to R158, R161 to R163) and outputs (R138, R150, R439). -/

namespace Sys2Proof.Machine

/-! ### Instructions and programs (R143 to R146) -/

/-- The fields of an instruction word. -/
def Ins.ofWord (w : Word) : Ins :=
  { opc := fld w 63 56, fmt := fld w 55 54, d := fld w 53 48, a := fld w 47 42, b := fld w 41 36, c := fld w 35 30,
    pg := fld w 29 27, zi := bit w 26, imm := fld w 25 0 }

/-- How an operand field is used. -/
inductive Slot where
  | none | src | dst | pred | predDst | wreg | vreg
  deriving DecidableEq, Repr

/-- The operand fields D, A, B, C of an opcode (R145), none for an invalid opcode. -/
def insSlots (opc : Nat) : Option (Slot × Slot × Slot × Slot) :=
  if opc = 0x04 then some (.dst, .src, .src, .src)
  else if decide (0x01 ≤ opc) && decide (opc ≤ 0x07) then some (.dst, .src, .src, .none)
  else if decide (0x08 ≤ opc) && decide (opc ≤ 0x0B) then some (.dst, .src, .none, .none)
  else if decide (0x10 ≤ opc) && decide (opc ≤ 0x13) then some (.predDst, .src, .src, .none)
  else if decide (0x14 ≤ opc) && decide (opc ≤ 0x16) then some (.predDst, .pred, .pred, .none)
  else if opc = 0x17 then some (.predDst, .pred, .none, .none)
  else if opc = 0x18 then some (.dst, .src, .src, .none)
  else if decide (0x20 ≤ opc) && decide (opc ≤ 0x2E) then some (.dst, .src, .none, .none)
  else if opc = 0x30 || opc = 0x48 then some (.vreg, .none, .none, .none)
  else if opc = 0x31 then some (.none, .vreg, .none, .none)
  else if opc = 0x32 || opc = 0x42 then some (.wreg, .none, .none, .none)
  else if opc = 0x33 then some (.none, .wreg, .none, .none)
  else if opc = 0x38 || opc = 0x39 then some (.wreg, .src, .none, .none)
  else if opc = 0x41 then some (.none, .src, .none, .none)
  else if opc = 0x49 then some (.dst, .none, .none, .none)
  else if opc = 0x4A then some (.predDst, .none, .none, .none)
  else if opc = 0x40 || opc = 0x43 || opc = 0x44 then some (.none, .none, .none, .none)
  else if decide (0x7C ≤ opc) && decide (opc ≤ 0x7F) then some (.none, .none, .none, .none)
  else none

/-- Is a field value valid for its use, in the body or in a row section (R142, R144, R146)? -/
def slotOk (body : Bool) (k : Slot) (v : Nat) : Bool :=
  match k with
  | .none => v == 0
  | .src => (body && decide (v < 0x20)) || (decide (0x20 ≤ v) && decide (v < 0x28)) || decide (0x30 ≤ v)
  | .dst => if body then decide (v < 0x20) else decide (0x20 ≤ v) && decide (v < 0x28)
  | .pred => decide (v ≤ 7)
  | .predDst => decide (1 ≤ v) && decide (v ≤ 7)
  | .wreg => decide (0x20 ≤ v) && decide (v < 0x28)
  | .vreg => decide (v < 0x20)

/-- Does an opcode use its FMT field (R145)? -/
def insUsesFmt (opc : Nat) : Bool :=
  (decide (0x01 ≤ opc) && decide (opc ≤ 0x13)) || opc == 0x18 || (decide (0x20 ≤ opc) && decide (opc ≤ 0x33)) ||
  opc == 0x38 || opc == 0x39 || opc == 0x41 || opc == 0x42 || opc == 0x49

/-- Is an IMM value valid for an opcode (R145, R156)? -/
def insImmOk (i : Ins) : Bool :=
  match i.opc with
  | 0x0B => decide (i.imm ≤ 2)
  | 0x18 => decide (i.imm ≤ 7)
  | 0x30 => decide (i.imm ≤ 3)
  | 0x31 => decide (i.imm ≤ 1)
  | 0x32 => decide (i.imm ≤ 3)
  | 0x40 =>
    let low := i.imm % 2 ^ 22
    (match i.imm / 2 ^ 24 with
     | 0 => low % 2 ^ 16 == 0 && decide (low < 2 ^ 18)
     | 1 => decide (low < 2 ^ 16)
     | 2 => decide (low < 2 ^ 12)
     | _ => low % 2 ^ 16 == 0 && decide (low < 2 ^ 21))
  | 0x41 => decide (i.imm ≤ 3)
  | 0x42 => decide (i.imm ≤ 3)
  | 0x43 => decide (i.imm ≤ 3)
  | 0x44 => decide (i.imm ≤ 15)
  | 0x48 => decide (i.imm < 1024)
  | 0x49 => decide (i.imm < 1024)
  | 0x4A => decide (i.imm < 16384)
  | _ => i.imm == 0

/-- A section of a phase (R139). -/
inductive Sec where
  | rowStart | body | rowEnd
  deriving DecidableEq, Repr

/-- May an opcode stand in a section (R145)? -/
def insInSec (opc : Nat) (k : Sec) : Bool :=
  let row := (decide (0x01 ≤ opc) && decide (opc ≤ 0x0B)) || (decide (0x20 ≤ opc) && decide (opc ≤ 0x2E)) ||
    opc == 0x32 || opc == 0x33
  match k with
  | .rowStart => row || opc == 0x40
  | .rowEnd => row || opc == 0x42 || opc == 0x43
  | .body => !(opc == 0x32 || opc == 0x33 || opc == 0x40 || opc == 0x42 || opc == 0x43) && decide (opc < 0x7C)

/-- The stream formats that LD allows for an FMT (R149). -/
def ldAllowed (fmt code : Nat) : Bool :=
  match fmt with
  | 0 => fmtValid code && code != 0xB
  | 1 => [0x3, 0x4, 0x6, 0x7, 0x8].contains code
  | _ => [0x3, 0x4, 0x6, 0x7, 0x9].contains code

/-- Does an instruction fit the formats of the streams it names (R146)? Formats: I0–I3, O0, O1, O2. -/
def insStreamsOk (fm : List Nat) (i : Ins) : Bool :=
  let f (k : Nat) : Nat := fm.getD k 0
  match i.opc with
  | 0x30 => ldAllowed i.fmt (f (i.imm % 4))
  | 0x31 => fmtValid (f (4 + i.imm % 2)) && f (4 + i.imm % 2) != 0xB
  | 0x32 => ldAllowed i.fmt (f (i.imm % 4)) && !fmtMX (f (i.imm % 4))
  | 0x33 => epiFmt (f 6)
  | 0x40 => i.imm / 2 ^ 24 != 0 || (fmtValid (f (i.imm / 2 ^ 16 % 4)) && f (i.imm / 2 ^ 16 % 4) != 0xB)
  | 0x43 => f 6 == 0xB
  | 0x44 => f (i.imm / 4 % 4) == 0xB
  | _ => true

/-- Is an instruction valid in its section (R146)? DESIGN CHOICE (log entry 60): ZI = 1 is valid on an instruction without a V
destination (R145). -/
def insOk (wide : Bool) (fm : List Nat) (k : Sec) (i : Ins) : Bool :=
  match insSlots i.opc with
  | none => false
  | some (d, a, b, c) =>
    let body := k == .body
    slotOk body d i.d && slotOk body a i.a && slotOk body b i.b && slotOk body c i.c && insImmOk i && insInSec i.opc k &&
    i.fmt != 3 && (if wide then i.fmt != 0 else insUsesFmt i.opc || i.fmt == 0) &&
    !(wide && (i.opc == 0x48 || i.opc == 0x44)) && (body || (i.pg == 0 && !i.zi)) && insStreamsOk fm i

/-- A marker word: nothing but its opcode (R145), and a FMT that is not 0 where WIDE = 1 (R146: any instruction of FMT 0). -/
def markerOk (wide : Bool) (i : Ins) : Bool :=
  i.d == 0 && i.a == 0 && i.b == 0 && i.c == 0 && i.pg == 0 && !i.zi && i.imm == 0 && i.fmt != 3 && wide == (i.fmt != 0)

/-- Split a list at each element that satisfies a test. -/
def splitOnB {α : Type} (p : α → Bool) : List α → List (List α)
  | [] => [[]]
  | x :: xs =>
    match splitOnB p xs with
    | [] => [[x]]
    | g :: gs => if p x then [] :: g :: gs else (x :: g) :: gs

/-- Read one phase (R139). -/
def phaseOf (is : List Ins) : Option Phase :=
  match splitOnB (fun i => i.opc == 0x7C) is with
  | [s, rest] =>
    match splitOnB (fun i => i.opc == 0x7D) rest with
    | [b] => some { start := s, body := b, finish := [] }
    | [b, e] => some { start := s, body := b, finish := e }
    | _ => none
  | _ => none

/-- Read phases. -/
def phasesOf : List (List Ins) → Option (List Phase)
  | [] => some []
  | p :: ps =>
    match phaseOf p, phasesOf ps with
    | some q, some qs => some (q :: qs)
    | _, _ => none

/-- Read and check a program (R137, R139, R146). -/
def progOf (wide : Bool) (fm : List Nat) (is : List Ins) : Option (List Phase) :=
  match is.reverse with
  | [] => none
  | e :: rest =>
    if e.opc != 0x7F || rest.any (fun i => i.opc == 0x7F) ||
        !(is.all fun i => decide (i.opc < 0x7C) || markerOk wide i) then none
    else
      match phasesOf (splitOnB (fun i => i.opc == 0x7E) rest.reverse) with
      | none => none
      | some ps =>
        if decide (ps.length ≤ 4) && ps.all (fun p => p.start.all (insOk wide fm .rowStart) &&
            p.body.all (insOk wide fm .body) && p.finish.all (insOk wide fm .rowEnd)) then some ps
        else none

/-! ### Streams (R138) -/

/-- A row of an input element stream as values. -/
def InStream.row' (x : InStream) (s : State) (r : Nat) : List Num :=
  match x with
  | .elems t => tileRow s t r
  | .both t _ _ => tileRow s t r
  | .entry q => decodeRow q.hdr.format (q.rows.getD r []) (q.scales.getD r [])
  | _ => []

/-- A row of grid pairs of an input element stream. -/
def InStream.pairs (x : InStream) (s : State) (r : Nat) : List GPair :=
  match x with
  | .elems t => tilePairs s t r
  | .both t _ _ => tilePairs s t r
  | _ => []

/-- Element r of an input row stream. -/
def InStream.elem (x : InStream) (s : State) (r : Nat) : Num :=
  let get (code addr : Nat) : Num :=
    let w := fmtBits code
    decodeElem code (if w = 4 then (leNat (s.readB (addr + r / 2) 1)) / 16 ^ (r % 2) % 16 else leNat (s.readB (addr + r * (w / 8)) (w / 8)))
  match x with
  | .row code addr => get code addr
  | .both _ code addr => get code addr
  | _ => Num.zero

/-- The header of an input element stream. -/
def InStream.hdr (x : InStream) : Option TileHdr :=
  match x with
  | .elems t => t.hdr
  | .both t _ _ => t.hdr
  | .entry q => some q.hdr
  | _ => .none

/-- The bytes of a row stream of n elements. -/
def rowStreamBytes (code n : Nat) : Nat := ceilDiv (n * fmtBits code) 8

/-- The ranges of memory that an input stream of a number of rows reads. -/
def InStream.ranges (x : InStream) (rows : Nat) : List (Nat × Nat) :=
  match x with
  | .elems t => [t.range]
  | .row code addr => [(addr, rowStreamBytes code rows)]
  | .both t code addr => [t.range, (addr, rowStreamBytes code rows)]
  | _ => []

/-- Check an input element stream (R138, R146, R67). For the EE a header may hold more rows than the command reads (R146); for
the other engines its ROWS agree with the command (R67), and bit [20] of the reference is reserved (R98). -/
def elemIn (e : EC) (exact : Bool) (w : Word) (code rows len : Nat) : Chk Tile := do
  let r := OpRef.ofWord w
  req (!fmtMX code || len % 32 == 0) flFormatMismatch
  req (!exact || !r.rsv) flFormatMismatch
  if r.hdr then do
    let a ← scratch e r.slab r.line 64
    let h := TileHdr.ofWords (bytesToWords (e.s.readB a 64))
    req (h.ok code h.rows len && decide (rows ≤ h.rows) && decide (h.rows ≤ 128) && (!exact || h.rows == rows)) flFormatMismatch
    let stride := if r.pitch = 0 then h.stride else r.pitch * 64
    let rowEnd := 64 + (rows - 1) * stride + rowBytes code len
    let scEnd := if fmtMX code then h.scaleOff + (rows - 1) * h.scaleStride + len / 32 else 0
    let _ ← scratch e r.slab r.line (max rowEnd scEnd)
    .ok { code, rows, cols := len, row0 := a + 64, stride, scale0 := a + h.scaleOff, sstride := h.scaleStride, hdr := some h }
  else bareTile e r.slab r.line r.pitch code rows len

/-- Check a row stream and give its address (R138). -/
def rowIn (e : EC) (w : Word) (code n : Nat) : Chk Nat := do
  let r := OpRef.ofWord w
  req (!r.hdr && !r.rsv && r.pitch == 0) flFormatMismatch
  scratch e r.slab r.line (rowStreamBytes code n)

/-- Every instruction of a program. -/
def phasesIns (ps : List Phase) : List Ins := ps.flatMap fun p => p.start ++ p.body ++ p.finish

/-- Is the I0 reference a queue reference (R138, R164)? -/
def eeQueue (body : List Word) : Bool := bit (wd body 5) 20

/-- Check input stream k (R138, R146, R156, R164). A stream that no instruction names is unused: its format and its reference
are 0 (R136). A QUEUE reference takes its entry whether or not the program loads from it. -/
def eeIn (e : EC) (body : List Word) (is : List Ins) (fm : List Nat) (rows len : Nat) (entry : Option QEntry) (k : Nat) :
    Chk InStream := do
  let w := wd body (5 + k)
  let code := fm.getD k 0
  let asElem := is.any fun i => (i.opc == 0x30 && i.imm % 4 == k) || (i.opc == 0x44 && i.imm / 4 % 4 == k) ||
    (i.opc == 0x40 && i.imm / 2 ^ 24 == 0 && i.imm / 2 ^ 16 % 4 == k)
  let asRow := is.any fun i => i.opc == 0x32 && i.imm % 4 == k
  let sealNeed := is.any fun i => i.opc == 0x40 && i.imm / 2 ^ 24 == 0 && i.imm / 2 ^ 16 % 4 == k
  if code = 0 then do
    req (w == 0) flFormatMismatch
    .ok .none
  else do
    req (fmtValid code && !(bit w 20 && k != 0) && (asElem || asRow || bit w 20)) flFormatMismatch
    if bit w 20 then do
      req (fld w 63 22 == 0 && fld w 19 0 == 0 && !asRow) flFormatMismatch
      match entry with
      | .none => .error (flFormatMismatch, 0)
      | some q => do
        req (q.hdr.format == code && q.hdr.cols == len && decide (rows ≤ q.hdr.rows)) flFormatMismatch
        .ok (.entry q)
    else if asRow && !asElem then (rowIn e w code rows).map fun a => .row code a
    else do
      let t ← elemIn e false w code rows len
      req (!sealNeed || tilesSealed [t]) flFormatMismatch
      if asRow then do
        let a ← rowIn e w code rows
        .ok (.both t code a)
      else .ok (.elems t)

/-- Check an EE command and read its references (R136 to R146, R186, R596). The queue entry is the one it consumes. DESIGN CHOICE (log
entry 60): the program's extent is checked first, then I0 to I3, then O0, O1 and O2; an O0 or O1 with a header whose rows or length
R64 cannot hold is FORMAT_MISMATCH. -/
def eeRead (e : EC) (env body : List Word) (entry : Option QEntry) : Chk EeOps := do
  let c := wd body 0
  let p := wd body 1
  let g := wd body 2
  let f := wd body 12
  let wide := bit c 55
  let rows := fld c 51 44 + 1
  let len := fld c 43 24
  let kt := fld c 23 0
  let nconst := fld p 13 9
  let ninstr := fld p 21 14 + 1
  let fm := (List.range 7).map fun k => fld f (63 - 4 * k) (60 - 4 * k)
  req (fld c 63 56 == 0x20 && fld c 54 52 == 0 && len != 0 && kt != 0 && decide (kt ≤ 8388608) && decide (nconst ≤ 16) &&
    fld p 8 0 == 0 && fld g 21 0 == 0 && fld (wd body 3) 31 0 == 0 && fld f 35 0 == 0 && wd body 13 == 0 &&
    wd body 14 == 0 && wd body 15 == 0) flFormatMismatch
  let pa ← scratch e (fld p 63 42) (fld p 41 22) (8 * ninstr + 4 * nconst)
  let is := (bytesToWords (e.s.readB pa (8 * ninstr))).map Ins.ofWord
  let draws := is.any fun i => i.opc == 0x48 || i.opc == 0x49 || i.opc == 0x4A
  req (draws || (wd body 3 == 0 && wd body 4 == 0)) flFormatMismatch
  match progOf wide fm is with
  | none => .error (flFormatMismatch, 0)
  | some phases => do
    let src3 := is.any fun i => i.opc == 0x40 && i.imm / 2 ^ 24 == 3
    let decl := (e.ctx.job.map (·.declExp)).getD []
    req (src3 || g == 0) flFormatMismatch
    req (is.all fun i => !(i.opc == 0x40 && i.imm / 2 ^ 24 == 2) || decide (i.imm % 4096 < decl.length)) flFormatMismatch
    let gridLine ← if src3 then (scratch e (fld g 63 42) (fld g 41 22) 64).map fun a => e.s.readB a 64 else .ok []
    let i0 ← eeIn e body is fm rows len entry 0
    let i1 ← eeIn e body is fm rows len entry 1
    let i2 ← eeIn e body is fm rows len entry 2
    let i3 ← eeIn e body is fm rows len entry 3
    let out (k : Nat) : Chk (Option (Nat × OutPlace)) :=
      let code := fm.getD (4 + k) 0
      if code = 0 then do
        req (wd body (9 + k) == 0) flFormatMismatch
        .ok none
      else do
        req (fmtValid code && code != 0xB && is.any fun i => i.opc == 0x31 && i.imm % 2 == k) flFormatMismatch
        req (!OpRef.hdr (OpRef.ofWord (wd body (9 + k))) || (decide (rows ≤ 128) && decide (len ≤ 65535))) flFormatMismatch
        (outPlace e (wd body (9 + k)) code rows len).map fun q => some (code, q)
    let o0 ← out 0
    let o1 ← out 1
    let c2 := fm.getD 6 0
    let o2 ← if c2 = 0 then do
        req (wd body 11 == 0) flFormatMismatch
        .ok none
      else do
        req ((epiFmt c2 || c2 == 0xB) && is.any fun i => i.opc == 0x33 || i.opc == 0x43) flFormatMismatch
        (rowIn e (wd body 11) c2 rows).map fun a => some (c2, a)
    let tap := fld (wd env 0) 63 58
    req (tap == 0 || o0.isSome) flFormatMismatch
    let gouts := dedup ((is.filter fun i => i.opc == 0x43).map fun i => i.imm % 4)
    req (match chainOf e.ctx e.thread e.cmd with
      | none => true
      | some x => !gouts.isEmpty && (x.role == 1 || x.role == 2) && x.kind == 0 && x.rowsM1 + 1 == rows && x.width == 1)
      flFormatMismatch
    .ok { wide, rows, len, kt, phases, consts := (chunks 4 (e.s.readB (pa + 8 * ninstr) (4 * nconst))).map leNat,
          prog := e.s.readB pa (8 * ninstr + 4 * nconst), gridLine, declExp := decl, layer := fld (wd body 3) 63 48, salt := fld (wd body 3) 47 32,
          row0 := fld (wd body 4) 63 32, col0 := fld (wd body 4) 31 0, ins := [i0, i1, i2, i3], outs := [o0, o1], o2,
          usesGout := gouts, tap }

/-! ### Registers and instructions -/

/-- Where an instruction runs: the command, its context's step values, the row and the chunk. -/
structure EeAt where
  ops : EeOps
  s : State
  key : List (BitVec 32)
  t : Nat
  chainS : Option Int            -- the s of a return word (R158, R201)
  row : Nat
  chunk : Nat

/-- Elements of a chunk (R131). -/
def EeAt.width (x : EeAt) : Nat := if x.ops.wide then 512 else 256

/-- The raw encoding of a source at element l (R144). -/
def srcRaw (x : EeAt) (st : EeSt) (bits v l : Nat) : Nat :=
  (if v < 0x20 then (st.v.getD v []).getD l 0
   else if v < 0x28 then st.w.getD (v - 0x20) 0
   else match x.ops.consts[v - 0x30]? with
     | some c => c
     | none => (Config.unsetConst (v - 0x30)).toNat) % 2 ^ bits

/-- Is element l of the chunk active under a predicate (R140)? -/
def activeAt (x : EeAt) (st : EeSt) (pg l : Nat) : Bool :=
  decide (x.chunk * x.width + l < x.ops.len) && (pg == 0 || (st.p.getD pg []).getD l false)

/-- The function of an opcode 0x20–0x2E (R145). -/
def fnOf (opc : Nat) : Fn :=
  [Fn.exp, .exp2, .log, .log2, .sqrt, .rsqrt, .rcp, .sigm, .tanh, .erf, .gelu, .softp, .dgelu, .dsigm, .dtanh].getD
    (opc - 0x20) .exp

/-- The encoding of a NaN made canonical (R148). -/
def canon (code raw : Nat) : Nat := if (decodeElem code raw).isNan then nanRaw code else raw

/-- The result of an arithmetic, move, conversion or function instruction at one element (R145, R147, R152). CVT with IMM 0 in
a WIDE = 1 program reads the 16-bit element's bits as a binary32 encoding: R146 forbids FMT 0 there and not IMM 0 (log entry 22). -/
def aluAt (x : EeAt) (st : EeSt) (i : Ins) (l : Nat) : FnOut :=
  let code := fmtOf i.fmt
  let bits := fmtBits code
  let ra := srcRaw x st bits i.a l
  let rb := srcRaw x st bits i.b l
  let a := decodeElem code ra
  let b := decodeElem code rb
  match i.opc with
  | 0x01 => addNum2 code a b
  | 0x02 => addNum2 code a b.opp
  | 0x03 => mulNum2 code a b
  | 0x04 => fmaNum code a b (decodeElem code (srcRaw x st bits i.c l))
  | 0x05 => divNum code a b
  | 0x06 => { raw := minRaw code ra rb }
  | 0x07 => { raw := maxRaw code ra rb }
  | 0x08 => { raw := absRaw code ra }
  | 0x09 => { raw := negRaw code ra }
  | 0x0A => { raw := canon code ra }
  | 0x0B => let from_ := fmtOf i.imm; cvtNum code (decodeElem from_ (srcRaw x st (fmtBits from_) i.a l))
  | 0x18 => { raw := canon code (if (if i.imm = 0 then activeAt x st 0 l else (st.p.getD i.imm []).getD l false) then ra else rb) }
  | _ => (fnOf i.opc).eval code a

/-- The result of a predicate instruction at one element (R145, R147). -/
def predAt (x : EeAt) (st : EeSt) (i : Ins) (l : Nat) : Bool :=
  let code := fmtOf i.fmt
  let bits := fmtBits code
  let a := decodeElem code (srcRaw x st bits i.a l)
  let b := decodeElem code (srcRaw x st bits i.b l)
  let p (k : Nat) : Bool := if k = 0 then activeAt x st 0 l else (st.p.getD k []).getD l false
  match i.opc with
  | 0x10 => eqNum a b
  | 0x11 => ltNum a b
  | 0x12 => ltNum a b || eqNum a b
  | 0x13 => a.isNan || b.isNan
  | 0x14 => p i.a && p i.b
  | 0x15 => p i.a || p i.b
  | 0x16 => p i.a != p i.b
  | _ => !p i.a

/-- The Ash word that an instruction selects at element l (R161, R162). -/
def ashAt (x : EeAt) (imm l : Nat) : BitVec 32 :=
  (ash x.key x.t x.ops.layer x.ops.salt (x.ops.row0 + x.row) (x.ops.col0 + x.chunk * x.width + l) (imm % 256)).getD
    (imm / 256 % 4) 0

/-- The uniform value of an Ash word (R163). -/
def uniformRaw (fmt : Nat) (u : BitVec 32) : Nat :=
  match fmt with
  | 0 => (encodeRat 0xA false (u.toNat >>> 8) 1 (-24)).raw
  | 1 => (encodeRat 0x8 false (u.toNat >>> 24) 1 (-8)).raw
  | _ => (encodeRat 0x9 false (u.toNat >>> 21) 1 (-11)).raw

/-- Write a V register: results at active elements, and old values or zeros elsewhere (R141). -/
def writeV (x : EeAt) (st : EeSt) (i : Ins) (f : Nat → FnOut) : EeSt :=
  let old := st.v.getD i.d []
  let rs := (List.range x.width).map fun l =>
    if activeAt x st i.pg l then (some (f l), 0) else (none, if i.zi then 0 else old.getD l 0)
  { st with v := st.v.set i.d (rs.map fun r => match r.1 with | some o => o.raw | none => r.2)
            exc := rs.foldl (fun c r => match r.1 with | some o => c.add o | none => c) st.exc }

/-- Write a predicate register (R141). -/
def writeP (x : EeAt) (st : EeSt) (i : Ins) (f : Nat → Bool) : EeSt :=
  { st with p := st.p.set i.d ((List.range x.width).map fun l => activeAt x st i.pg l && f l) }

/-- Fold active elements into a W register by minimum or maximum (R145). -/
def foldW (x : EeAt) (st : EeSt) (i : Ins) (f : Nat → Nat → Nat → Nat) : EeSt :=
  let code := fmtOf i.fmt
  let bits := fmtBits code
  let w0 := st.w.getD (i.d - 0x20) 0 % 2 ^ bits
  let w := (List.range x.width).foldl (fun w l => if activeAt x st i.pg l then f code w (srcRaw x st bits i.a l) else w) w0
  { st with w := st.w.set (i.d - 0x20) w }

/-- Add a term per active element into the lanes of a G register (R154, R155). -/
def addLanes (x : EeAt) (st : EeSt) (i : Ins) (f : GElem → Int → Nat → GElem) : EeSt :=
  let k := i.imm % 4
  let g := st.g.getD k {}
  let per := if x.ops.wide then 2 else 1
  let lane (n : Nat) : GElem :=
    (List.range per).foldl (fun a j => let l := n * per + j; if activeAt x st i.pg l then f a g.s l else a) (g.lanes.getD n {})
  { st with g := st.g.set k { g with lanes := (List.range 256).map lane } }

/-- Replace elements of a list of options by the ones that a chunk stores. -/
def mergeAt {α : Type} (old : List (Option α)) (base : Nat) (new : List (Option α)) : List (Option α) :=
  let n := max old.length (base + new.length)
  (List.range n).map fun j =>
    if base ≤ j then (match new.getD (j - base) none with | some v => some v | none => old.getD j none) else old.getD j none

/-- Store a V register's chunk to an output stream (R150). -/
def storeV (x : EeAt) (st : EeSt) (i : Ins) : EeSt :=
  let k := i.imm % 2
  match x.ops.outs.getD k none with
  | none => st
  | some (code, _) =>
    let src := fmtOf i.fmt
    let vals := (List.range x.width).map fun l =>
      if activeAt x st i.pg l then some (decodeElem src (srcRaw x st (fmtBits src) i.a l)) else none
    let (els, sc) : List (Option OutElem) × List (Option Nat) :=
      if fmtMX code then
        let bs := (chunks 32 vals).map fun b =>
          let r := encodeBlock code (b.filterMap id)
          let put_ := b.foldl (fun (acc : List (Option OutElem) × List OutElem) v => match v with
            | some _ => (acc.1 ++ [acc.2.head?], acc.2.drop 1)
            | none => (acc.1 ++ [none], acc.2)) ([], r.2)
          (put_.1, if b.any (·.isSome) then some r.1 else none)
        (bs.flatMap (·.1), bs.map (·.2))
      else (vals.map fun v => v.map (encodeNum code), [])
    let rows := st.o.getD k []
    let rows := rows ++ List.replicate (x.row + 1 - rows.length) {}
    let r := rows.getD x.row {}
    let r' : StRow := { els := mergeAt r.els (x.chunk * x.width) els, sc := mergeAt r.sc (x.chunk * x.width / 32) sc }
    { st with o := st.o.set k (rows.set x.row r') }

/-- One body instruction on one chunk. -/
def bodyIns (x : EeAt) (st : EeSt) (i : Ins) : EeSt :=
  if st.fault.isSome || st.again.isSome then st
  else
    match i.opc with
    | 0x30 =>
      let vs := ((x.ops.ins.getD (i.imm % 4) .none).row' x.s x.row).drop (x.chunk * x.width)
      writeV x st i fun l => cvtNum (fmtOf i.fmt) (vs.getD l Num.zero)
    | 0x31 => storeV x st i
    | 0x38 => foldW x st i maxRaw
    | 0x39 => foldW x st i minRaw
    | 0x41 =>
      let code := fmtOf i.fmt
      addLanes x st i fun g sv l => g.addNum (decodeElem code (srcRaw x st (fmtBits code) i.a l)) sv
    | 0x44 =>
      let ps := ((x.ops.ins.getD (i.imm / 4 % 4) .none).pairs x.s x.row).drop (x.chunk * x.width)
      addLanes x st i fun g sv l => match ps[l]? with | some p => g.addPair p sv | none => g
    | 0x48 => writeV x st i fun l => { raw := (ashAt x i.imm l).toNat }
    | 0x49 => writeV x st i fun l => { raw := uniformRaw i.fmt (ashAt x i.imm l) }
    | 0x4A => writeP x st i fun l => decide (srcRaw x st 32 (0x30 + i.imm / 1024 % 16) l ≤ (ashAt x i.imm l).toNat)
    | _ =>
      if decide (0x10 ≤ i.opc) && decide (i.opc ≤ 0x17) then writeP x st i (predAt x st i)
      else writeV x st i (aluAt x st i)

/-- The exponent that GCFG sets (R156): that of a rerun of the register first, then the one of a returned repeat (R158). -/
def gcfgS (x : EeAt) (rerunS : List (Option Int)) (i : Ins) : Int :=
  let k := i.imm / 2 ^ 22 % 4
  match rerunS.getD k none with
  | some s => s
  | none =>
    match (if x.ops.usesGout.contains k then x.chainS else none) with
    | some s => s
    | none =>
      match i.imm / 2 ^ 24 with
      | 0 => sumS (((x.ops.ins.getD (i.imm / 2 ^ 16 % 4) .none).hdr).bind (·.maxexp)) x.ops.kt
      | 1 => sext 16 i.imm
      | 2 => x.ops.declExp.getD (i.imm % 4096) 0
      | _ => sext 16 (leNat ((x.ops.gridLine.drop (2 * (i.imm / 2 ^ 16 % 32))).take 2))

/-- The row total of a G register (R157). -/
def GReg.total (g : GReg) : FElem :=
  { f := g.lanes.foldl (fun a e => a + e.toInt) 0, nan := g.lanes.any (·.nan), pos := g.lanes.any (·.pos),
    neg := g.lanes.any (·.neg), tex := g.lanes.foldl (fun a e => max a e.tex) 0 }

/-- GFIN (R157, R77). Its result counts in EE_EXC: a NaN of two opposite infinities and an overflow (R151). -/
def gfin (st : EeSt) (i : Ins) : EeSt :=
  let k := i.imm % 4
  let g := st.g.getD k {}
  let f := g.total
  if !sInRange g.s then { st with fault := some (flGridRange, BitVec.ofInt 64 g.s) }
  else
    match judge [f] g.s (st.cnt.getD k 0) with
    | .drain =>
      let o := encodeNum (fmtOf i.fmt) (f.toNum g.s)
      { st with w := st.w.set (i.d - 0x20) o.raw, sat := st.sat || o.sat
                nonfin := st.nonfin || o.ovf || o.sNan || o.sPos || o.sNeg
                exc := { st.exc with
                  invalid := st.exc.invalid + (f.pos && f.neg && !f.nan).toNat, overflow := st.exc.overflow + o.ovf.toNat } }
    | .again s => { st with again := some (k, s) }
    | .range s => { st with fault := some (flGridRange, BitVec.ofInt 64 s) }

/-- One instruction of a row section. -/
def rowIns (x : EeAt) (st : EeSt) (i : Ins) : EeSt :=
  if st.fault.isSome || st.again.isSome then st
  else
    let setO2 (v : Nat) : List (Option Nat) :=
      (st.o2 ++ List.replicate (x.row + 1 - st.o2.length) none).set x.row (some v)
    match i.opc with
    | 0x32 =>
      let o := cvtNum (fmtOf i.fmt) ((x.ops.ins.getD (i.imm % 4) .none).elem x.s x.row)
      { st with w := st.w.set (i.d - 0x20) o.raw, exc := st.exc.add o }
    | 0x33 =>
      let code := fmtOf i.fmt
      let o := encodeNum ((x.ops.o2.map (·.1)).getD 0) (decodeElem code (srcRaw x st (fmtBits code) i.a 0))
      { st with o2 := setO2 o.raw, sat := st.sat || o.sat, nonfin := st.nonfin || o.ovf || o.sNan || o.sPos || o.sNeg }
    | 0x40 => { st with g := st.g.set (i.imm / 2 ^ 22 % 4) { s := gcfgS x st.rerunS i } }
    | 0x42 => gfin st i
    | 0x43 =>
      let g := st.g.getD (i.imm % 4) {}
      { st with o2 := setO2 (g.total.toPair g.s).toNat }
    | _ =>
      let o := aluAt x st i 0
      { st with w := st.w.set (i.d - 0x20) o.raw, exc := st.exc.add o }

/-- Has a command run through its rows, or faulted? -/
def EeSt.done (st : EeSt) (o : EeOps) : Bool := st.fault.isSome || decide (o.rows ≤ st.row)

/-- Go on to the next phase of the row, or to the next row. -/
def EeSt.nextPhase (st : EeSt) (o : EeOps) : EeSt :=
  let st := { st with chunk := 0, cnt := [0, 0, 0, 0], rerunS := [none, none, none, none] }
  if st.phase + 1 < o.phases.length then { st with phase := st.phase + 1 } else { st with phase := 0, row := st.row + 1 }

/-- Start the phase of the row again at the new s of a register: the V, P, W and G registers go back to their values at its
start, and the register is cleared (R157). What the pass before counted in EE_EXC stays counted, and the rerun counts again:
the spec does not say (log entry 22). -/
def EeSt.rerun (st : EeSt) (k : Nat) (s : Int) : EeSt :=
  { st with
    v := st.save.v, p := st.save.p, w := st.save.w, g := st.save.g.set k { s }, again := none, reps := st.reps + 1
    cnt := st.cnt.set k (st.cnt.getD k 0 + 1), rerunS := st.rerunS.set k (some s), chunk := 0 }

/-- One chunk of the loop of R139: the row-start section before the first chunk of a phase, the body, and the row-end section
after the last. A chunk is what a halt does not interrupt (R167). -/
def eeChunk (x : EeAt) (st : EeSt) : EeSt :=
  match x.ops.phases[st.phase]? with
  | none => { st with row := x.ops.rows }
  | some ph =>
    let x := { x with row := st.row, chunk := st.chunk }
    let st := if st.chunk = 0 then
        ph.start.foldl (rowIns x) { st with save := { v := st.v, p := st.p, w := st.w, g := st.g } }
      else st
    let st := ph.body.foldl (bodyIns x) st
    if st.chunk + 1 < ceilDiv x.ops.len x.width then { st with chunk := st.chunk + 1 }
    else
      let st := ph.finish.foldl (rowIns x) st
      match st.again with
      | none => st.nextPhase x.ops
      | some (k, s) => st.rerun k s

/-- Run up to a number of chunks (R139, R167). -/
def eeGo (x : EeAt) : Nat → EeSt → EeSt
  | 0, st => st
  | f + 1, st => if st.done x.ops then st else eeGo x f (eeChunk x st)

/-- The most chunks that a command runs: every phase of every row, with the reruns of four registers (R157). -/
def EeOps.maxChunks (o : EeOps) (wide : Bool) : Nat :=
  o.rows * o.phases.length * ceilDiv o.len (if wide then 512 else 256) * 40

/-- Run a command on from where it stands, to its end or through a number of chunks. Loads read the memory as it stands when
this part of the run begins, also where the command itself has stored into its own stream: those bits depend on timing (R168,
log entry 22). -/
def eeRun (s : State) (c : Ctx) (o : EeOps) (chainS : Option Int) (chunks : Option Nat) (st : EeSt) : EeSt :=
  eeGo { ops := o, s, key := jobKey c, t := c.v.t, chainS, row := 0, chunk := 0 } (chunks.getD (o.maxChunks o.wide)) st

/-! ### Outputs -/

/-- Encodings of a stored row over the old ones. -/
def mergeRaw (old : List Nat) (r : StRow) : List Nat :=
  old.zipIdx.map fun (v, j) => match r.els.getD j none with | some o => o.raw | none => v

/-- The bytes of a row that hold a stored element (R439: what ST writes). -/
def storedBytes (code : Nat) (raws : List Nat) (r : StRow) : List Byte :=
  let has (j : Nat) : Bool := (r.els.getD j none).isSome
  if fmtBits code = 4 then
    ((packRow 4 raws).zipIdx.filter fun b => has (2 * b.2) || has (2 * b.2 + 1)).map (·.1)
  else (raws.zipIdx.filter fun v => has v.2).flatMap fun v => leBytes (fmtBits code / 8) v.1

/-- The writes of the stored rows of one output element stream from row `lo` on: rows, then scale rows. -/
def eeRowWrites (s : State) (o : EeOps) (code : Nat) (p : OutPlace) (lo : Nat) (rows : List StRow) : List (Nat × List Byte) :=
  let row0 := p.addr + (if p.hdr then 64 else 0)
  let sc0 := p.addr + 64 * (1 + o.rows * p.pitch)
  let ss := scaleStrideOf o.len
  let nb := rowBytes code o.len
  let rs := rows.zipIdx.drop lo
  let els := (rs.filter fun x => x.1.els.any (·.isSome)).map fun (r, k) =>
    let a := row0 + k * p.pitch * 64
    (a, packRow (fmtBits code) (mergeRaw (unpackRow (fmtBits code) o.len (s.readB a nb)) r))
  els ++ if fmtMX code then rs.flatMap fun (r, k) =>
      r.sc.zipIdx.filterMap fun ((b, j) : Option Nat × Nat) => b.map fun v => (sc0 + k * ss + j, [BitVec.ofNat 8 v])
    else []

/-- What one output element stream of a finished command comes to. -/
structure EeOut where
  writes : List (Nat × List Byte)
  stream : List Byte
  sat : Bool
  nonfin : Bool
  sq : Sq

/-- The writes from row `lo` on, digest stream, statistics and squares of one output element stream (R150, R185, R439). Where the
spec is silent: REPEATED of the header is 0, also when GFIN repeated; a stream into which nothing was stored gets no header, and
one stored in part gets it at the command's end (log entry 22). -/
def eeOut (e : EC) (o : EeOps) (code : Nat) (p : OutPlace) (lo : Nat) (rows : List StRow) : EeOut :=
  let nb := rowBytes code o.len
  let row0 := p.addr + (if p.hdr then 64 else 0)
  let els := rows.flatMap (·.els)
  let stat (r : StRow) : TileStats := r.els.zipIdx.foldl (fun a (x, j) => match x with
    | some x => a.join (elemStats code ((r.sc.getD (j / 32) none).getD 0) x)
    | none => a) {}
  let st := rows.foldl (fun a r => a.join (stat r)) ({} : TileStats)
  let sat := els.any fun x => match x with | some x => x.sat | none => false
  let hw := if p.hdr && els.any (·.isSome) then [(p.addr, (mkHdr code o.rows o.len p.pitch st sat false 0).bytes)] else []
  let bytes := rows.zipIdx.flatMap fun (r, k) =>
    storedBytes code (mergeRaw (unpackRow (fmtBits code) o.len (e.s.readB (row0 + k * p.pitch * 64) nb)) r) r
  let scales : List Byte := if fmtMX code then rows.flatMap fun r => r.sc.filterMap fun b => b.map (BitVec.ofNat 8) else []
  { writes := hw ++ eeRowWrites e.s o code p lo rows
    stream := streamOf hw ++ bytes ++ scales
    sat
    nonfin := els.any fun x => match x with | some x => x.ovf || x.sNan || x.sPos || x.sNeg | none => false
    sq := rows.foldl (fun q r => r.els.zipIdx.foldl (fun q (x, j) => match x with
      | some x => q.addNum (if fmtMX code then scaleMX ((r.sc.getD (j / 32) none).getD 0) (decodeElem code x.raw)
          else decodeElem code x.raw)
      | none => q) q) {} }

/-- The partial rows that GOUT made: one grid pair per row (R158). -/
def eePartials (st : EeSt) : List GPair := st.o2.map fun v => GPair.ofNat (v.getD 0)

/-- The writes of the row output from row `lo` on (R138). -/
def eeRowOut (o : EeOps) (st : EeSt) (lo : Nat) : List (Nat × List Byte) :=
  match o.o2 with
  | some (code, a) =>
    let w := fmtBits code / 8
    (st.o2.zipIdx.drop lo).filterMap fun (v, r) => v.map fun v => (a + r * w, leBytes w v)
  | none => []

/-- What a part of an EE command that does not end it writes: the rows from `lo` on, as far as they are stored (R167). -/
def eePart (s : State) (o : EeOps) (st : EeSt) (lo : Nat) : List (Nat × List Byte) :=
  ([0, 1].flatMap fun k => match o.outs.getD k none with
    | some (code, p) => eeRowWrites s o code p lo (st.o.getD k [])
    | none => []) ++ eeRowOut o st lo

/-- Does a program judge a total (R157)? -/
def EeOps.judges (o : EeOps) : Bool := (phasesIns o.phases).any fun i => i.opc == 0x42

/-- What a finished EE command does, its rows before `lo` being written already (R150, R151, R185, R439). It counts as a drained
tile in ME_GRID_CNT when it judges a total with GFIN and is no stage of a chain: R85 counts final stages, and the spec does not
say which EE commands have one (log entry 22). -/
def eeEffects (e : EC) (o : EeOps) (chain : Bool) (lo : Nat) (st : EeSt) : Effects :=
  let outs := [0, 1].map fun k => match o.outs.getD k none with
    | some (code, p) => if (st.o.getD k []).isEmpty then none else some (eeOut e o code p lo (st.o.getD k []))
    | none => none
  let rowOut := eeRowOut o st 0
  { writes := outs.flatMap (fun x => match x with | some x => x.writes | none => []) ++ eeRowOut o st lo
    tints := (outs.zipIdx.filterMap fun (x, k) => x.map fun x => roleDigest e.ctx e.thread e.cmd (3 + k) x.stream) ++
      (if rowOut.isEmpty then [] else [roleDigest e.ctx e.thread e.cmd 0x05 (streamOf rowOut)])
    tap := if o.tap = 0 then none else (outs.getD 0 none).map (·.sq)
    exc := st.exc, repeats := st.reps
    nonfin := st.nonfin || outs.any (fun x => match x with | some x => x.nonfin | none => false)
    sat := st.sat || outs.any (fun x => match x with | some x => x.sat | none => false)
    gridTile := o.judges && !chain }

/-- The ranges that a command reads and writes. -/
def EeOps.ranges (o : EeOps) : List (Nat × Nat) :=
  o.ins.flatMap (fun i => i.ranges o.rows) ++
  (o.outs.filterMap fun x => x.map fun (code, p) => p.range code o.rows o.len) ++
  (o.o2.toList.map fun (code, a) => (a, rowStreamBytes code o.rows))

end Sys2Proof.Machine
end

