-- ==== Sys2Proof/Machine/Layout.lean ====
section
/-! DEFINITION. The layout engine: command fields and checks (R169, R170, R176), and what LXPOSE, LGATHER, LCONV and
LSEAL write, row by row (R171 to R173, R177); LCTR's word (R174). -/

namespace Sys2Proof.Machine

/-- Do two address ranges overlap? -/
def overlap (a1 e1 a2 e2 : Nat) : Bool := decide (a1 < e2) && decide (a2 < e1)

/-- Is a counter in the job's counter table and placed on this device (R176)? -/
def ctrHere (s : State) (c : Ctx) (ctr : Nat) : Bool :=
  match c.job with
  | none => false
  | some j => j.ctrs.any (fun d => d.ctr == ctr) && j.ctrDevs.any fun d => d.1 == ctr && d.2 == devNum s

/-- Check an LE command and read its references (R169 to R176). LCTR writes one word into one line: ROWS_M1, HDR and PITCH that
are not 0 are FORMAT_MISMATCH, though the rules name no such case (log entry 44). DESIGN CHOICE (log entry 60): LGATHER with IN_ROWS 0
is FORMAT_MISMATCH (R169, R171), and IN and OUT overlap where their extents from first to last byte meet (R176). -/
def leRead (e : EC) (body : List Word) : Chk LeOps := do
  let c := wd body 0
  let op := fld c 63 56
  let fin := fld c 55 52
  let fout := fld c 51 48
  let rows := fld c 47 41 + 1
  let cols := fld c 40 25
  let par := wd body 4
  let empty : Tile := { code := 0, rows := 0, cols := 0, row0 := 0, stride := 0 }
  req (fld c 24 0 == 0 && (body.drop 5).all (· == 0) && (op == 0x31 || wd body 3 == 0)) flFormatMismatch
  if op = 0x3C then do
    let ctr := fld par 63 44
    let r := OpRef.ofWord (wd body 2)
    req (fin == 0 && fout == 0 && rows == 1 && cols == 0 && wd body 1 == 0 && fld par 43 0 == 0 && !r.rsv && !r.hdr &&
      r.pitch == 0 && ctrHere e.s e.ctx ctr) flFormatMismatch
    let a ← scratch e r.slab r.line 64
    .ok { op, fin, fout, rows, cols, src := empty, out := { addr := a, hdr := false, pitch := 1 }, ctr }
  else do
    req ((op == 0x30 || op == 0x31 || op == 0x32 || op == 0x33) && cols != 0 && fmtValid fin && fmtValid fout) flFormatMismatch
    req (if op = 0x31 then fld par 31 0 == 0 && fld par 63 32 != 0 && fld (wd body 3) 21 0 == 0 else par == 0) flFormatMismatch
    req (match op with
      | 0x30 => fin == fout && !fmtMX fin && decide (cols ≤ 128)
      | 0x31 => fin == fout
      | 0x32 => fout != 0xB
      | _ => fin == fout) flFormatMismatch
    if op = 0x33 then do
      let r := OpRef.ofWord (wd body 1)
      let q := OpRef.ofWord (wd body 2)
      req (r.hdr && q.hdr && r.slab == q.slab && r.line == q.line && !q.rsv) flFormatMismatch
      let t ← tileIn e (wd body 1) fin rows cols
      .ok { op, fin, fout, rows, cols, src := t, out := { addr := t.row0 - 64, hdr := true, pitch := 0 }, inHdr := t.row0 - 64 }
    else do
      let inRows := if op = 0x31 then fld par 63 32 else rows
      let t ← tileIn e (wd body 1) fin inRows cols
      let (orows, ocols) := if op = 0x30 then (cols, rows) else (rows, cols)
      let p ← outPlace e (wd body 2) fout orows ocols
      req (!overlap t.start t.endAddr p.addr (p.addr + outBytes p.hdr fout orows ocols p.pitch)) flFormatMismatch
      let idx ← if op = 0x31 then scratch e (fld (wd body 3) 63 42) (fld (wd body 3) 41 22) (4 * rows) else .ok 0
      .ok { op, fin, fout, rows, cols, src := t, out := p, idx }

/-- Header statistics of rows of copied encodings (R90). -/
def rawStats (code : Nat) (rows scales : List (List Nat)) : TileStats :=
  if code = 0xB then rows.foldl (fun a r => r.foldl (fun a v => a.join (GPair.ofNat v).stats) a) {}
  else rows.zipIdx.foldl (fun a (r, i) => a.join (rowStats code (r.map fun v => { raw := v }) (scales.getD i []))) {}

/-- The ranges that a command reads and writes. -/
def LeOps.ranges (o : LeOps) : List (Nat × Nat) :=
  match o.op with
  | 0x3C => [(o.out.addr, 8)]
  | 0x33 => [o.src.range]
  | 0x30 => [o.src.range, o.out.range o.fout o.cols o.rows]
  | 0x31 => [o.src.range, o.out.range o.fout o.rows o.cols, (o.idx, 4 * o.rows)]
  | _ => [o.src.range, o.out.range o.fout o.rows o.cols]

/-- The output rows that a command writes one after another; LSEAL and LCTR write none. -/
def LeOps.outRows (o : LeOps) : Nat :=
  match o.op with
  | 0x30 => o.cols
  | 0x31 => o.rows
  | 0x32 => o.rows
  | _ => 0

/-- The elements of an output row. -/
def LeOps.outCols (o : LeOps) : Nat := if o.op = 0x30 then o.rows else o.cols

/-- A row of copied encodings. -/
def copyRow (code : Nat) (raws scales : List Nat) : OutRow := { raws, scales, st := rawStats code [raws] [scales] }

/-- LGATHER's indices, an index beyond IN being a DESC_BOUNDS fault before the first write (R171). -/
def leIdx (s : State) (o : LeOps) : Chk (List Nat) :=
  if o.op = 0x31 then do
    let idx := (chunks 4 (s.readB o.idx (4 * o.rows))).map leNat
    req (idx.all fun i => i == 0xFFFFFFFF || decide (i < o.src.rows)) flDescBounds
    .ok idx
  else .ok []

/-- Output row j: a column of IN for LXPOSE, the indexed row for LGATHER, a converted row for LCONV (R171, R172). -/
def leRow (s : State) (o : LeOps) (idx : List Nat) (j : Nat) : OutRow :=
  match o.op with
  | 0x30 => copyRow o.fout ((List.range o.rows).map fun i => (tileRaw s o.src i).getD j 0) []
  | 0x31 =>
    let i := idx.getD j 0
    let n := if fmtMX o.fout then o.cols / 32 else 0
    if i = 0xFFFFFFFF then copyRow o.fout (List.replicate o.cols 0) (List.replicate n 0)
    else copyRow o.fout (tileRaw s o.src i) (tileScales s o.src i)
  | _ => outRow o.fout (if o.fin = 0xB then (tilePairs s o.src j).map (·.toNum) else tileRow s o.src j)

/-- The writes of output rows from row `lo` on: elements, then scale bytes (R591). -/
def leRowWrites (o : LeOps) (lo : Nat) (rows : List OutRow) : List (Nat × List Byte) :=
  let row0 := o.out.addr + (if o.out.hdr then 64 else 0)
  let sc0 := o.out.addr + 64 * (1 + o.outRows * o.out.pitch)
  let rs := rows.zipIdx.drop lo
  (rs.map fun (r, i) => (row0 + i * o.out.pitch * 64, packRow (fmtBits o.fout) r.raws)) ++
  if fmtMX o.fout then rs.map fun (r, i) => (sc0 + i * scaleStrideOf o.outCols, r.scales.map (BitVec.ofNat 8)) else []

/-- The tile that the output rows make (R171, R172). -/
def leTile (o : LeOps) (rows : List OutRow) : TileOut :=
  mkTile o.fout o.outCols o.out.pitch rows false (if o.op = 0x32 then 0 else (o.src.hdr.map (·.srcS)).getD 0)

/-- What LXPOSE, LGATHER or LCONV does once all its rows are formed, those before `lo` being written already. -/
def leEffects (e : EC) (o : LeOps) (lo : Nat) (rows : List OutRow) : Effects :=
  let t := leTile o rows
  { writes := (if o.out.hdr then [(o.out.addr, t.hdr.bytes)] else []) ++ leRowWrites o lo rows
    tints := [roleDigest e.ctx e.thread e.cmd 0x08 (streamOf (outWrites o.out o.fout t.hdr t.rows t.scales))] }

/-- LSEAL (R173). -/
def lsealEff (e : EC) (o : LeOps) : Effects :=
  let st := rawStats o.fin ((List.range o.rows).map (tileRaw e.s o.src)) ((List.range o.rows).map (tileScales e.s o.src))
  let h0 := o.src.hdr.getD (mkHdr o.fin o.rows o.cols 0 {} false false 0)
  let h : TileHdr := { h0 with maxexp := st.maxexp, hasNan := st.hasNan, hasPos := st.hasPos, hasNeg := st.hasNeg,
                               hasSub := st.hasSub, allZero := st.maxexp.isNone, sealed := true }
  let ws := [(o.inHdr, h.bytes)]
  { writes := ws, tints := [roleDigest e.ctx e.thread e.cmd 0x08 (streamOf ws)] }

/-- The word that LCTR writes (R174). -/
def lctrEff (e : EC) (o : LeOps) (value : Nat) (settled : Bool) : Effects :=
  let ws := [(o.out.addr, leBytes 8 (put o.ctr 44 ||| putB settled 32 ||| put (value % 2 ^ 32) 0).toNat)]
  { writes := ws, tints := [roleDigest e.ctx e.thread e.cmd 0x08 (streamOf ws)] }

/-- What a whole layout command other than LCTR does (R171 to R173). -/
def leWhole (e : EC) (o : LeOps) : Chk Effects :=
  if o.op = 0x33 then .ok (lsealEff e o)
  else (leIdx e.s o).map fun idx => leEffects e o 0 ((List.range o.outRows).map (leRow e.s o idx))

end Sys2Proof.Machine
end

