-- ==== Sys2Proof/Machine/Reduce.lean ====
section
/-! DEFINITION. The reduction engine: command fields and checks (R179 to R181, R193, R595, R596), partials of every kind
(R183 to R192, R197) and what the final stage writes (R183, R187, R190, R192). -/

namespace Sys2Proof.Machine

/-- An opcode that ranks elements. -/
def reRanks (op : Nat) : Bool := op == 0x52 || op == 0x53 || op == 0x54

/-- The chain kind of an opcode (R181, R195). -/
def reKind (op : Nat) : Nat :=
  match op with
  | 0x50 => 0 | 0x51 => 1 | 0x59 => 1 | 0x54 => 2 | 0x52 => 3 | 0x53 => 3 | 0x55 => 4 | 0x56 => 5 | 0x57 => 6
  | _ => 7

/-- Are FMT_IN and FMT_OUT allowed (R183, R187, R189, R190, R192, R193)? -/
def reFmtOk (op role fin fout : Nat) (outZero : Bool) : Bool :=
  let noIn := fin == 0 && role == 3
  if op = 0x50 then (noIn || fmtValid fin) && [0x3, 0x4, 0x8, 0x9, 0xA, 0xB].contains fout
  else if op = 0x51 then (noIn || (fmtValid fin && fin != 0xB)) && fout == (if outZero then 0 else 0xA)
  else if op = 0x59 then fin == 0 && fout == (if outZero then 0 else 0xA)
  else if reRanks op then
    (noIn && fout == 0xA) || ([0x3, 0x4, 0x6, 0x7, 0x8, 0x9, 0xA].contains fin &&
      (fout == 0xA || (fout == fin && !fmtInt fin)))
  else (noIn || (fmtValid fin && fin != 0xB)) && fout == 0

/-- Bytes of a packed output (R595). -/
def packedLen (op rows k wOut : Nat) : Nat :=
  match op with
  | 0x50 => rows * wOut
  | 0x52 => rows * k * wOut
  | 0x53 => rows * k * wOut
  | 0x54 => rows * wOut
  | _ => 8 * rows

/-- Bytes of the packed output of a checked command. -/
def ReOps.outLen (o : ReOps) : Nat := packedLen o.op o.rows o.k (fmtBits o.fout / 8)

/-- A packed output or a mask: no header, and no pitch where it is packed (R595). -/
def packedOut (e : EC) (w : Word) (bytes : Nat) : Chk Nat := do
  let r := OpRef.ofWord w
  req (!r.hdr && !r.rsv && r.pitch == 0) flFormatMismatch
  scratch e r.slab r.line bytes

/-- Check an RE command and read its references (R179 to R193, R595, R596). DESIGN CHOICE (log entry 60): an ORIGIN word that an opcode
does not use may hold any value (R179). -/
def reRead (e : EC) (body : List Word) : Chk ReOps := do
  let c := wd body 0
  let ch := wd body 2
  let par := wd body 9
  let op := fld c 63 56
  let fin := fld c 55 52
  let fout := fld c 51 48
  let src := fld c 47 46
  let role := fld c 45 44
  let axis := bit c 42
  let k := fld c 41 38 + 1
  let rows := fld c 37 30 + 1
  let len := fld c 29 10
  let kt := fld ch 23 0
  let final := role == 0 || role == 3
  let tapx := op == 0x59
  let ranks := reRanks op
  let topk := op == 0x52 || op == 0x53
  let col0 := fld (wd body 3) 31 0
  req (decide (0x50 ≤ op) && decide (op ≤ 0x59) && fld c 9 0 == 0 && (body.drop 10).all (· == 0) && fld ch 31 24 == 0 &&
    fld par 23 6 == 0 && decide (kt ≤ 8388608)) flFormatMismatch
  req ((op == 0x53 || (wd body 5 == 0 && wd body 6 == 0)) && (ranks || wd body 8 == 0) &&
    (op == 0x51 || tapx || op == 0x55 || par == 0)) flFormatMismatch
  req (reFmtOk op role fin fout (wd body 7 == 0)) flFormatMismatch
  req ((topk || k == 1) && (op == 0x50 || (!axis && src == 0 && wd body 1 == 0))) flFormatMismatch
  req (if tapx then wd body 4 == 0 && rows == 1 && len == 0 && fld par 5 0 != 0 else len != 0 && (fin != 0 || wd body 4 == 0))
    flFormatMismatch
  req ((op != 0x55 || (fld par 31 24 != 0 && decide (fld par 31 24 < 128))) &&
    (op != 0x53 || wd body 5 != 0 || wd body 6 != 0) &&
    (!ranks || decide (col0 + len ≤ 0xFFFFFFFF))) flFormatMismatch
  req (kt != 0) flFormatMismatch
  req (role != 0 || tapx || kt == (if axis then rows else len)) flFormatMismatch
  req (final || (wd body 7 == 0 && wd body 8 == 0)) flFormatMismatch
  let (prows, width) := if axis then (1, len) else (rows, if topk then k else 1)
  req (chainAgrees e.ctx e.thread e.cmd role (fld ch 63 48) (fld ch 47 32) (reKind op) (if topk then k - 1 else 0) prows width)
    flFormatMismatch
  let declared ← if op = 0x50 then declaredS e src (wd body 1) else .ok (some 0)
  let t ← optIn (fin != 0) (elemIn e true (wd body 4) fin rows len)
  req (declared.isSome || (fin != 0xB && tilesSealed t.toList)) flFormatMismatch
  let mask (w : Word) (n : Nat) : Chk (Option (Nat × Nat)) :=
    if w = 0 then .ok none
    else do
      let r := OpRef.ofWord w
      req (!r.hdr && !r.rsv) flFormatMismatch
      let a ← scratch e r.slab r.line ((n - 1) * r.pitch * 64 + ceilDiv len 8)
      .ok (some (a, r.pitch * 64))
  let rm ← mask (wd body 5) rows
  let cm ← mask (wd body 6) 1
  let outB := packedLen op rows k (fmtBits fout / 8)
  let needOut := final && !((op == 0x51 || tapx) && wd body 7 == 0)
  let out ← optIn (needOut && !axis) (packedOut e (wd body 7) outB)
  let outTile ← optIn (needOut && axis) (outPlace e (wd body 7) fout 1 len)
  req (!(match outTile with | some p => p.hdr | none => false) || decide (len ≤ 65535)) flFormatMismatch
  let idx ← optIn (final && ranks) (packedOut e (wd body 8) (rows * k * 4))
  .ok { op, fin, fout, role, smallest := bit c 43, axis, k, rows, len, kt, declared, col0, src := t, rowMask := rm,
        colMask := cm.map (·.1), out, outTile, idx, normId := fld par 63 32, cls := fld par 31 24, channel := fld par 5 0 }

/-- The ranges that a command reads and writes. -/
def ReOps.ranges (o : ReOps) : List (Nat × Nat) :=
  let nb := ceilDiv o.len 8
  o.src.toList.map Tile.range ++ (o.rowMask.toList.map fun m => (m.1, (o.rows - 1) * m.2 + nb)) ++
  (o.colMask.toList.map fun a => (a, nb)) ++ (o.out.toList.map fun a => (a, o.outLen)) ++
  (o.outTile.toList.map fun p => p.range o.fout 1 o.len) ++ (o.idx.toList.map fun a => (a, o.rows * o.k * 4))

/-! ### Ranking (R189) -/

/-- Is an entry (binary32 key, index) better than another? -/
def entryBetter (smallest : Bool) (a b : Nat × Nat) : Bool :=
  let ka := orderKey 32 a.1
  let kb := orderKey 32 b.1
  if ka = kb then decide (a.2 < b.2) else if smallest then decide (ka < kb) else decide (kb < ka)

/-- Keep the k best of a list, best first. -/
def bestK (smallest : Bool) (k : Nat) (l : List (Nat × Nat)) : List (Nat × Nat) :=
  (sortBy (fun a b => !entryBetter smallest b a) l).take k

/-- Is bit j of a mask row set (R191)? -/
def maskBit (bs : List Byte) (j : Nat) : Bool := ((bs.getD (j / 8) 0).toNat).testBit (j % 8)

/-- The elements of a row that compete, and the number of NaN elements among the eligible ones (R189, R191). -/
def rankRow (s : State) (o : ReOps) (t : Tile) (r : Nat) : List (Nat × Nat) × Nat :=
  let nb := ceilDiv o.len 8
  let rm := o.rowMask.map fun m => s.readB (m.1 + r * m.2) nb
  let cm := o.colMask.map fun a => s.readB a nb
  let on (m : Option (List Byte)) (j : Nat) : Bool := match m with | some bs => maskBit bs j | none => true
  let els := (tileRow s t r).zipIdx.filter fun x => on rm x.2 && on cm x.2
  ((els.filter fun x => !x.1.isNan).map fun x => ((encodeNum 0xA x.1).raw, o.col0 + x.2), (els.filter fun x => x.1.isNan).length)

/-! ### Partials (R197) -/

/-- A command's own partial at s, with its NAN_EXCLUDED count; TAPX gives its channel's square sum (R183 to R192). -/
def reOwn (s : State) (o : ReOps) (sv : Int) (tap : Sq) : Partials × Nat :=
  let rowsOf {α : Type} (f : Tile → Nat → α) (d : α) : List α := match o.src with
    | some t => (List.range o.rows).map (f t)
    | none => List.replicate o.rows d
  match o.op with
  | 0x50 =>
    let add (g : GElem) (t : Tile) (r : Nat) : GElem :=
      if o.fin = 0xB then (tilePairs s t r).foldl (fun g p => g.addPair p sv) g
      else (tileRow s t r).foldl (fun g x => g.addNum x sv) g
    if o.axis then
      let zero : List GElem := List.replicate o.len {}
      let row := match o.src with
        | none => zero
        | some t => (List.range o.rows).foldl (fun acc r =>
            if o.fin = 0xB then (acc.zip (tilePairs s t r)).map fun (g, p) => g.addPair p sv
            else (acc.zip (tileRow s t r)).map fun (g, x) => g.addNum x sv) zero
      (.sum [row], 0)
    else (.sum (rowsOf (fun t r => [add {} t r]) [{}]), 0)
  | 0x51 => (.square (rowsOf (fun t r => (tileRow s t r).foldl Sq.addNum {}) {}), 0)
  | 0x59 => (.square [tap], 0)
  | 0x55 =>
    (.words (rowsOf (fun t r =>
      let sc := tileScales s t r
      ((tileRaw s t r).zipIdx.filter fun (v, j) => o.cls.testBit (classOf o.fin v (sc.getD (j / 32) 0))).length) 0), 0)
  | 0x56 => (.words (rowsOf (fun t r => (tileRaw s t r).foldl (fun a v => a &&& v) (2 ^ fmtBits o.fin - 1)) (2 ^ 64 - 1)), 0)
  | 0x57 => (.words (rowsOf (fun t r => (tileRaw s t r).foldl (fun a v => a ||| v) 0) 0), 0)
  | 0x58 => (.words (rowsOf (fun t r => (tileRaw s t r).foldl (fun a v => a ^^^ v) 0) 0), 0)
  | _ =>
    let rs := rowsOf (fun t r => let x := rankRow s o t r; (bestK o.smallest o.k x.1, x.2)) ([], 0)
    (.ranked (rs.map (·.1)), rs.foldl (fun a x => a + x.2) 0)

/-- Combine two words of a chain kind (R197). -/
def combineWord (kind a b : Nat) : Nat :=
  match kind with
  | 4 => (a + b) % 2 ^ 64
  | 5 => a &&& b
  | 6 => a ||| b
  | _ => a ^^^ b

/-- Update one element of a list. -/
def modAt {α : Type} (l : List α) (i : Nat) (f : α → α) : List α := l.zipIdx.map fun (x, j) => if j = i then f x else x

/-- Combine row r of an incoming partial into a stage's partial (R74, R197). -/
def Partials.addRow (p : Partials) (kind k : Nat) (smallest : Bool) (r : Nat) (q : Partials) (sIn : Int) : Partials :=
  match p, q with
  | .sum rows, .sum qs => .sum (modAt rows r fun row =>
      (row.zip (qs.getD r [])).map fun (g, h) => g.addPartial { el := h, s := sIn })
  | .square rows, .square qs => .square (modAt rows r fun x => x.join (qs.getD r {}))
  | .ranked rows, .ranked qs => .ranked (modAt rows r fun x => bestK smallest k (x ++ qs.getD r []))
  | .words rows, .words qs => .words (modAt rows r fun x => combineWord kind x (qs.getD r 0))
  | p, _ => p

/-- Number of rows of a partial. -/
def Partials.rows : Partials → Nat
  | .none => 0
  | .sum l => l.length
  | .square l => l.length
  | .ranked l => l.length
  | .words l => l.length

/-- The words of one partial row on its way to another device (R184, R197). -/
def Partials.rowWords (p : Partials) (k : Nat) (sv : Int) (r : Nat) : List Word :=
  match p with
  | .none => []
  | .sum l => (l.getD r []).flatMap fun g => (g.toPair sv).words
  | .square l =>
    let q := l.getD r {}
    (List.range 10).map (fun n => BitVec.ofNat 64 (q.v >>> (64 * n))) ++ [put q.count 8 ||| putB q.nan 7 ||| putB q.inf 6]
  | .ranked l =>
    let es := l.getD r []
    (es ++ List.replicate (k - es.length) (0x7FC00000, 0xFFFFFFFF)).map fun (e : Nat × Nat) => put e.1 32 ||| put e.2 0
  | .words l => [BitVec.ofNat 64 (l.getD r 0)]

/-- The partial row that words from another device hold: a partial whose row r alone is filled, and the S of each of its
pairs (R73). -/
def rowOfWords (kind r : Nat) (ws : List Word) : Partials × List Int :=
  let at_ {α : Type} (x d : α) : List α := List.replicate r d ++ [x]
  match kind with
  | 0 =>
    let ps := (chunks 2 ws).map fun w => GPair.ofNat ((wd w 0).toNat + (wd w 1).toNat <<< 64)
    (.sum (at_ (ps.map (·.el)) []), ps.map (·.s))
  | 1 =>
    let v := (List.range 10).foldl (fun a n => a + (wd ws n).toNat <<< (64 * n)) 0
    (.square (at_ { v, count := fld (wd ws 10) 63 8, nan := bit (wd ws 10) 7, inf := bit (wd ws 10) 6 } {}), [])
  | 2 => (.ranked (at_ ((ws.map fun w => (fld w 63 32, fld w 31 0)).filter fun e => e.2 != 0xFFFFFFFF) []), [])
  | 3 => (.ranked (at_ ((ws.map fun w => (fld w 63 32, fld w 31 0)).filter fun e => e.2 != 0xFFFFFFFF) []), [])
  | _ => (.words (at_ (wd ws 0).toNat 0), [])

/-! ### The final stage -/

/-- The norm record of a square sum (R187). -/
def normOf (id : Nat) (q : Sq) : NormRec :=
  let x : Num := .fin false q.v (-298)
  let (sq, nm) : Nat × Nat :=
    if q.nan then (0x7FC00000, 0x7FC00000) else if q.inf then (0x7F800000, 0x7F800000) else if q.v = 0 then (0, 0)
    else ((encodeNum 0xA x).raw, (Fn.sqrt.eval 0xA x).raw)
  { id, nan := q.nan, inf := q.inf, sumsq := sq, norm := nm, count := q.count }

/-- The totals of a sum partial. -/
def sumTotals (rows : List (List GElem)) : List FElem :=
  rows.flatMap fun r => r.map fun g => { f := g.toInt, nan := g.nan, pos := g.pos, neg := g.neg, tex := g.tex }

/-- Effects of packed outputs in the order OUT, IDX (R439, R595). -/
def packedEff (e : EC) (out idx : Option (Nat × List Byte)) : Effects :=
  let role (k : Nat) (x : Option (Nat × List Byte)) : List TintOut := match x with
    | some w => [roleDigest e.ctx e.thread e.cmd k w.2]
    | none => []
  { writes := out.toList ++ idx.toList, tints := role 0x06 out ++ role 0x07 idx }

/-- What the final stage of an RE command writes once it is judged (R183, R187, R190, R192). -/
def reFinish (e : EC) (o : ReOps) (p : Partials) (sv : Int) (reps : Nat) : Effects :=
  match p with
  | .sum rows =>
    let xs := sumTotals rows
    let r := drainRow o.fout xs sv
    match o.outTile with
    | some q =>
      let t := mkTile o.fout o.len q.pitch [r] (decide (0 < reps)) sv
      let ws := outWrites q o.fout t.hdr t.rows t.scales
      { writes := ws, tints := [roleDigest e.ctx e.thread e.cmd 0x06 (streamOf ws)], gridTile := true, sat := r.sat, nonfin := r.nonfin }
    | none =>
      { packedEff e (o.out.map fun a => (a, packRow (fmtBits o.fout) r.raws)) none with
        gridTile := true, sat := r.sat, nonfin := r.nonfin }
  | .square qs =>
    let ns := qs.map (normOf o.normId)
    { packedEff e (o.out.map fun a => (a, ns.flatMap fun n => leBytes 4 n.sumsq ++ leBytes 4 n.norm)) none with norms := ns }
  | .ranked rows =>
    let full := rows.map fun es => (es.map some ++ List.replicate (o.k - es.length) none)
    let val (x : Option (Nat × Nat)) : List Byte := leBytes (fmtBits o.fout / 8)
      (match x with | some x => (encodeNum o.fout (decodeElem 0xA x.1)).raw | none => nanRaw o.fout)
    let ix (x : Option (Nat × Nat)) : List Byte := leBytes 4 (match x with | some x => x.2 | none => 0xFFFFFFFF)
    packedEff e (o.out.map fun a => (a, full.flatMap fun r => r.flatMap val)) (o.idx.map fun a => (a, full.flatMap fun r => r.flatMap ix))
  | .words ws => packedEff e (o.out.map fun a => (a, ws.flatMap (leBytes 8))) none
  | .none => {}

end Sys2Proof.Machine
end

