-- ==== Sys2Proof/Machine/Runs.lean ====
section
/-! DEFINITION. Issued commands: finding and changing them, what an execution leaves behind (accounts, taps, norms and
counts: R85, R118, R151, R185, R187, R440, R443), bank arbitration (R218 to R224), and chain order and words (R197 to
R203). -/

namespace Sys2Proof.Machine

/-! ### Issued commands -/

/-- Do a context's engines work: running, on a core in service (R53, R472)? -/
def working (s : State) (n : CtxId) (core : Nat) : Bool := runsNow s n && !(s.core (coreOf core)).quarantined

/-- Act on an issued command of a working context that satisfies a test; otherwise nothing happens. -/
def withRun (s : State) (n : CtxId) (thread cmd : Nat) (p : Run → Bool) (f : Run → State) : State :=
  match findRun s n thread cmd with
  | some r => if working s n r.core && p r then f r else s
  | none => s

/-- A fault of an issued command, at its thread (R53). -/
def runFault (n : CtxId) (r : Run) (code : Nat) (datum : Word) (s : State) : State :=
  threadFault n r.thread r.cmd code datum [] s

/-- Go on with a checked value, or fault (R53). -/
def orFault {α : Type} (n : CtxId) (r : Run) (x : Chk α) (s : State) (f : α → State) : State :=
  match x with
  | .ok a => f a
  | .error e => if e.1 = flWait then s else runFault n r e.1 e.2 s

/-- The execution of an issued command. -/
def Run.ec (r : Run) (s : State) (n : CtxId) : EC := ecOf s n false r.thread r.cmd

/-- The S of a command's partial row. -/
def Run.sAt (r : Run) (row : Nat) : Int := r.rowS.getD row r.s

/-- Carry out a command's accesses to ranges of memory: they wait while a bank is being cleared, and an access to a bank that the
context no longer owns is a BANK_OWNER fault of the command, which then does nothing (R52, R53, R208, R216). -/
def withBanks (n : CtxId) (r : Run) (rs : List (Nat × Nat)) (s : State) (f : State → State) : State :=
  match bankAnswer s n rs with
  | .served => f s
  | .waits => s
  | .foreign a => runFault n r flBankOwner (BitVec.ofNat 64 a) s

/-! ### What an execution leaves behind -/

/-- Add one tile digest to its account of the step, with a fine entry where one is due (R440, R443). -/
def addTint (n : CtxId) (thread cmd : Nat) (fine : Bool) (t : TintOut) (s : State) : State :=
  let c := s.ctx n
  let acct := (tintOf c thread cmd).1
  match c.record with
  | none => s
  | some r =>
    let old := (r.accounts.find? fun a => a.1 == acct).getD (acct, 0, 0)
    let accounts := (r.accounts.filter fun a => a.1 != acct) ++ [(acct, old.2.1 + 1, old.2.2 + t.digest)]
    let hit := fine || (c.sel.fineEn && ((BitVec.ofNat 32 acct ^^^ c.sel.fineAccount) &&& c.sel.fineMask) == 0)
    let full := decide (1048576 ≤ r.fine.length)
    let e : FineEnt := { thread, cmd, account := acct, role := t.role, digest := t.digest }
    let s := s.modCtx n fun c => { c with record := some { r with
      accounts := accounts
      fine := if hit && !full then r.fine ++ [e] else r.fine
      fineTrunc := r.fineTrunc || (hit && full) } }
    if hit && full then { s with sep := { s.sep with fineLost := satAdd s.sep.fineLost 1 } } else s

/-- Add the digests of a command's writes. -/
def addTints (n : CtxId) (thread cmd : Nat) (eff : Effects) (s : State) : State :=
  eff.tints.foldl (fun s t => addTint n thread cmd eff.fineAll t s) s

/-- Count a drained tile and exception events on a core (R85, R151). -/
def addCounts (n : CtxId) (core : CoreId) (eff : Effects) (s : State) : State :=
  s.modCore core fun k => { k with
    grid := upd k.grid n fun g =>
      { repeats := satAdd g.repeats eff.repeats, nonfinite := satAdd g.nonfinite (if eff.gridTile && eff.nonfin then 1 else 0)
        saturated := satAdd g.saturated (if eff.gridTile && eff.sat then 1 else 0) }
    exc := upd k.exc n fun x =>
      { invalid := satAdd x.invalid eff.exc.invalid, divzero := satAdd x.divzero eff.exc.divzero
        overflow := satAdd x.overflow eff.exc.overflow }
    reCnt := upd k.reCnt n fun x => { x with nanExcl := satAdd x.nanExcl eff.nanExcl } }

/-- Add a tap contribution to a channel of a core (R185). -/
def addTap (n : CtxId) (core : CoreId) (ch : Nat) (q : Sq) (s : State) : State :=
  s.modCore core fun k => { k with taps := assocSet (n, ch) (((assocGet (n, ch) k.taps).getD {}).join q) k.taps }

/-- Write norm records into the step's record (R187). -/
def addNorms (n : CtxId) (ns : List NormRec) (s : State) : State :=
  s.modCtx n fun c => { c with record := c.record.map fun r => { r with norms := r.norms ++ ns } }

/-- Write bytes for a command. A command with a check execution keeps what the bytes were, since that execution reads the operands
as they stood (R464, R465; an output may lie on its own operand, R300). -/
def writeFor (n : CtxId) (r : Run) (ws : List (Nat × List Byte)) (s : State) : State :=
  let old := (ws.map fun w => (w.1, s.readB w.1 w.2.length)).reverse
  let s := if r.check.isSome then modRun n r.thread r.cmd (fun x => { x with before := old ++ x.before }) s else s
  s.writeAll ws

/-- Carry out the effects of an executed command (R118, R119, R150, R185, R187). -/
def applyEffects (n : CtxId) (r : Run) (eff : Effects) (s : State) : State :=
  let core := coreOf r.core
  let s := writeFor n r eff.writes s
  let s := addTints n r.thread r.cmd eff s
  let s := addCounts n core eff s
  let s := match eff.tap with
    | some q => addTap n core (fld (wd r.env 0) 63 58) q s
    | none => s
  let s := addNorms n eff.norms s
  match eff.queue with
  | some q => s.modCore core fun k => { k with queue := k.queue ++ [q] }
  | none => s

/-- A context's field of a split register: 4 bits per context (R93, R134). -/
def splitOf (v : BitVec 32) (n : CtxId) : Nat := fld v (4 * n.val + 3) (4 * n.val)

/-- Has a context room for one more queue entry on a core (R119)? -/
def queueRoom (s : State) (n : CtxId) (core : CoreId) : Bool :=
  decide (((s.core core).queue.filter fun q => q.ctx == n).length < splitOf (s.core core).que n)

/-! ### Bank arbitration (R218 to R224) -/

/-- Where an access stands in its requester's fixed internal order (R219): operand reads in their order, then output writes, and
DMA channels in theirs. -/
def accKey : BankAcc → Nat × Nat
  | .read i => (0, i)
  | .write i => (1, i)
  | .channel c => (0, c.val)

/-- The place of a requester among the remote ones of a bank (R219): a core's network port, the XE, chain transport. -/
def remoteOrder : Requester → Nat
  | .xe _ => 1
  | .chain => 2
  | _ => 0

/-- The rank of a requester in the column of its bank's kind (R218), with the core number that orders the DMA engines of a
staging or pool bank; none for a requester that the column does not name, which is remote. -/
def localRank (p : Place) (q : Requester) : Option (Nat × Nat) :=
  match p, q with
  | .spad c _, .me k => if k = c then some (1, 0) else none
  | .spad c _, .ee k => if k = c then some (2, 0) else none
  | .spad c _, .re k => if k = c then some (3, 0) else none
  | .spad c _, .le k => if k = c then some (4, 0) else none
  | .spad c _, .dma k => if k = c then some (5, 0) else none
  | .stg r _, .xe d => if r.val / 8 = d.val then some (1, 0) else none
  | .stg r _, .dma k => if k.val / 8 = r.val then some (2, k.val) else none
  | .pool d _, .sequencer e => if e = d then some (1, 0) else none
  | .pool d _, .xe e => if e = d then some (2, 0) else none
  | .pool d _, .dma k => if dieOf k = d then some (3, k.val) else none
  | _, _ => none

/-- Lexicographic order of pairs. -/
def ltPair (a b : Nat × Nat) : Bool := decide (a.1 < b.1) || (a.1 == b.1 && decide (a.2 < b.2))

/-- The access that a local requester presents in a bank cycle: one, the first by its internal order (R219). -/
def presents (reqs : List BankReq) (q : Requester) : Option BankReq :=
  argMin (fun a b => ltPair (accKey a.acc) (accKey b.acc)) (reqs.filter fun r => r.who == q)

/-- The local accesses that are presented in a bank cycle, one for each requester, with their ranks (R218, R219). -/
def localReqs (p : Place) (reqs : List BankReq) : List (BankReq × (Nat × Nat)) :=
  (dedup (reqs.map (·.who))).filterMap fun q => match localRank p q, presents reqs q with
    | some k, some r => some (r, k)
    | _, _ => none

/-- The remote access that is presented: the first by the internal order of the remote requesters, the oldest of equals (R219). -/
def remoteReq (p : Place) (reqs : List BankReq) : Option BankReq :=
  argMin (fun a b => decide (remoteOrder a.who < remoteOrder b.who)) (reqs.filter fun r => (localRank p r.who).isNone)

/-- How many consecutive cycles up to the one before a cycle a requester has lost at a bank (R221). -/
def lossesAt (s : State) (bank cycle : Nat) (q : Requester) : Nat :=
  match assocGet (bank, q) s.bankLost with
  | some (count, last) => if last + 1 = cycle then count else 0
  | none => 0

/-- The access that a bank grants in a cycle (R218, R220, R221): none while the bank is being cleared (R216), in a remote cycle
the remote one alone, and otherwise the fabric sequencer at a pool bank, then a local requester that has lost 15 consecutive
cycles, then the highest local rank, then the remote one. -/
def bankGrant (s : State) (cyc : BankCycle) : Option BankReq :=
  let p := placeOf s cyc.bank
  let loc := localReqs p cyc.reqs
  let best (l : List (BankReq × (Nat × Nat))) : Option BankReq := (argMin (fun a b => ltPair a.2 b.2) l).map (·.1)
  let seq := loc.filter fun r => match r.1.who with | .sequencer _ => true | _ => false
  let starved := loc.filter fun r => decide (15 ≤ lossesAt s cyc.bank cyc.cycle r.1.who)
  if bankBusy s p then none
  else if cyc.cycle % 64 = 63 then remoteReq p cyc.reqs
  else (best seq).or ((best starved).or ((best loc).or (remoteReq p cyc.reqs)))

/-- Count one stalled access in CORE_STALL (R224): LOCAL for a core's own engines at its scratchpad banks, REMOTE for remote
accesses there and for a DMA engine at staging and pool banks, in the DMA engine's core. -/
def countStall (p : Place) (r : BankReq) (s : State) : State :=
  let add (c : CoreId) (remote : Bool) : State := s.modCore c fun k => { k with stall := upd k.stall r.ctx fun t =>
    if remote then { t with rem := satAdd t.rem 1 } else { t with loc := satAdd t.loc 1 } }
  match p with
  | .spad c _ => add c (localRank p r.who).isNone
  | _ => match r.who with
    | .dma c => add c true
    | _ => s

/-- One bank cycle: every presented access but the granted one stalls and is counted; the losses of the local ones go on, and
start again at 0 after a grant (R218, R221, R224). -/
def bankCycle (s : State) (cyc : BankCycle) : State :=
  let p := placeOf s cyc.bank
  let g := bankGrant s cyc
  let loc := (localReqs p cyc.reqs).map (·.1)
  let lose (s : State) (r : BankReq) : State :=
    let n := if some r = g then 0 else lossesAt s cyc.bank cyc.cycle r.who + 1
    { s with bankLost := if n = 0 then s.bankLost.filter fun x => x.1 != (cyc.bank, r.who)
        else assocSet (cyc.bank, r.who) (n, cyc.cycle) s.bankLost }
  let s := (loc ++ (remoteReq p cyc.reqs).toList).foldl (fun s r => if some r = g then s else countStall p r s) s
  loc.foldl lose s

/-- The bank cycles that a command reports. -/
def arbitrate (arb : List BankCycle) (s : State) : State := arb.foldl bankCycle s

/-! ### Chains (R195 to R203) -/

/-- The core of a chain stage on this device. -/
def stageCore (c : Ctx) (e : ChainEnt) : Option Nat := (threadDesc c e.thread).bind fun d => groupCore c d.group

/-- The stages of a chain on this device, in physical order (R197). -/
def stagesHere (c : Ctx) (chain : Nat) : List ChainEnt :=
  let key (e : ChainEnt) : Nat × Nat × Nat := (if e.role = 3 then 1 else 0, (stageCore c e).getD 0, e.stage)
  let le (a b : ChainEnt) : Bool :=
    let x := key a
    let y := key b
    decide (x.1 < y.1) || (x.1 == y.1 && (decide (x.2.1 < y.2.1) || (x.2.1 == y.2.1 && decide (x.2.2 ≤ y.2.2))))
  sortBy le (((c.job.map (·.chains)).getD []).filter fun e => e.chain == chain && (stageCore c e).isSome)

/-- The hop window of a chain that enters this device (R197). -/
def hopIn (s : State) (c : Ctx) (chain : Nat) : Option WinDecl :=
  ((c.job.map (·.wins)).getD []).find? fun w => w.kind == 2 && w.chain == chain && w.dst == devNum s && w.src != w.dst

/-- Has a chain a hop window with this device as its SRC_DEV, one that ends here included (R196)? -/
def hopFrom (s : State) (c : Ctx) (chain : Nat) : Bool :=
  ((c.job.map (·.wins)).getD []).any fun w => w.kind == 2 && w.chain == chain && w.src == devNum s

/-- The hop window of a chain that leaves this device. -/
def hopOut (s : State) (c : Ctx) (chain : Nat) : Option WinDecl :=
  ((c.job.map (·.wins)).getD []).find? fun w => w.kind == 2 && w.chain == chain && w.src == devNum s && w.src != w.dst

/-- The place of a device in the snake order of a direct torus; in a switched hall its number (R399). -/
def snake (m : TopoMap) (d : Nat) : Nat :=
  if m.switched then d
  else
    let c := ((m.devs.find? fun x => x.dev == d).map (·.coord)).getD []
    (List.range m.ndim).reverse.foldl (fun idx i =>
      let size := m.sizes.getD i 1
      idx * size + if idx % 2 = 1 then size - 1 - c.getD i 0 else c.getD i 0) 0

/-- The hop windows of a chain that cross devices. -/
def chainHops (c : Ctx) (chain : Nat) : List WinDecl :=
  ((c.job.map (·.wins)).getD []).filter fun w => w.kind == 2 && w.chain == chain && w.src != w.dst

/-- The devices of a chain, as this device knows them: itself and the ends of the chain's hop windows (R197). -/
def chainDevs (s : State) (c : Ctx) (chain : Nat) : List Nat :=
  dedup (devNum s :: (chainHops c chain).flatMap fun w => [w.src, w.dst])

/-- The device of a chain's LAST stage: the one that no hop window leaves (R197). -/
def chainLastDev (s : State) (c : Ctx) (chain : Nat) : Nat :=
  ((chainDevs s c chain).find? fun d => !(chainHops c chain).any fun w => w.src == d).getD (devNum s)

/-- The key by which the devices of a chain are ordered: (snake(d) − snake(L) − 1) mod N (R399). -/
def chainKey (s : State) (c : Ctx) (chain d : Nat) : Nat :=
  let m := s.boot.cfg.map
  let n := if m.switched then 32768 else m.devs.length
  (snake m d + 2 * n - snake m (chainLastDev s c chain) - 1) % n

/-- The chain rank of a device: its position in the ascending order of the keys (R399). -/
def chainRank (s : State) (c : Ctx) (chain d : Nat) : Nat :=
  ((chainDevs s c chain).filter fun x => decide (chainKey s c chain x < chainKey s c chain d)).length

/-- Has a chain stages on another device than its LAST stage (R202)? -/
def crossDevice (c : Ctx) (chain : Nat) : Bool :=
  ((c.job.map (·.wins)).getD []).any fun w => w.kind == 2 && w.chain == chain && w.src != w.dst

/-- The stage before a stage in physical order on this device. -/
def stageBefore (c : Ctx) (e : ChainEnt) : Option ChainEnt :=
  let l := stagesHere c e.chain
  match l.idxOf? e with
  | some (i + 1) => l[i]?
  | _ => none

/-- The stage after a stage in physical order on this device. -/
def stageAfter (c : Ctx) (e : ChainEnt) : Option ChainEnt :=
  let l := stagesHere c e.chain
  match l.idxOf? e with
  | some i => l[i + 1]?
  | none => none

/-- Does a stage receive partials: is it not the first of the physical order, which goes by chain rank first (R197)? -/
def hasBefore (s : State) (c : Ctx) (e : ChainEnt) : Bool :=
  (stageBefore c e).isSome || decide (0 < chainRank s c e.chain (devNum s))

/-- The issued command of a stage. -/
def stageRun (s : State) (n : CtxId) (e : ChainEnt) : Option Run := findRun s n e.thread e.cmd

/-- Entries per cell and bytes per entry of a chain kind (R199, R397). -/
def cellEntries (kind : Nat) : Nat × Nat := if kind = 0 then (38, 16) else if kind = 1 then (6, 88) else (76, 8)

/-- Partial cells of a hop (R397). -/
def partialCells (e : ChainEnt) : Nat := ceilDiv ((e.rowsM1 + 1) * e.width) (cellEntries e.kind).1

/-- The cell of a hop that holds an entry. -/
def cellOfEntry (e : ChainEnt) (flag : Bool) (ent : Nat) : Nat := (if flag then 2 else 0) + ent / (cellEntries e.kind).1

/-- The byte of a hop's landing area at which a partial row starts: the header word comes first (log entry 24). -/
def rowOffset (e : ChainEnt) (flag : Bool) (r : Nat) : Nat := (if flag then 8 else 0) + r * partialRowBytes e.kind e.width

/-- Hand words over to the fabric (R599). -/
def chainSend (n : CtxId) (win cell pass : Nat) (ws : List Word) (s : State) : State :=
  s.modCtx n fun c => { c with x := { c.x with chainOut := assocSet (win, cell, pass) ws c.x.chainOut } }

/-- Hand a finished partial over to the next device: all cells of the pass (R198, R199, R201). -/
def sendPartial (n : CtxId) (e : ChainEnt) (w : WinDecl) (r : Run) (s : State) : State :=
  let ws := (List.range r.partials.rows).flatMap fun i => r.partials.rowWords (e.kM1 + 1) (r.sAt i) i
  let per := (cellEntries e.kind).1 * (cellEntries e.kind).2 / 8
  ((chunks per ws).zipIdx).foldl (fun s (p, i) => chainSend n w.win ((if w.flag then 2 else 0) + i) r.pass p s) s

/-- A return word (R200). -/
def returnWord (kind : Nat) (sv : Int) (reps : Nat) : Word := put (twos 16 sv) 48 ||| put (reps % 256) 40 ||| put kind 32

/-- A stage passes a return word on: it stands for the stage before it here, or leaves on the hop that enters (R200, R201). -/
def sendReturn (n : CtxId) (e : ChainEnt) (kind : Nat) (sv : Int) (reps pass : Nat) (s : State) : State :=
  let s := s.modCtx n fun c => { c with x := { c.x with rets := assocSet (e.chain, e.stage) (kind, sv, reps) c.x.rets } }
  let c := s.ctx n
  match stageBefore c e, hopIn s c e.chain with
  | none, some w =>
    let done := (if w.flag then 2 else 0) + partialCells e
    let cell := if kind = 2 then done else if w.flag then 1 else done
    chainSend n w.win cell pass [returnWord kind sv reps] s
  | _, _ => s

/-- A header word (R200). -/
def headerWord (h : List (Option Int)) : Word :=
  let f (k lo : Nat) : Word := put (match h.getD k none with | some x => twos 16 x | none => 0x8000) lo
  f 0 48 ||| f 1 32 ||| f 2 16 ||| f 3 0

/-- The fields of a header word. -/
def headerFields (w : Word) : List (Option Int) :=
  [fld w 63 48, fld w 47 32, fld w 31 16, fld w 15 0].map fun v => if v = 0x8000 then none else some (sext 16 v)

/-- The field-wise maximum of two header words (R200). -/
def mergeHdr (a b : List (Option Int)) : List (Option Int) :=
  (List.range 4).map fun k => maxExpO (a.getD k none) (b.getD k none)

/-- The chain entry of a run. -/
def runStage (c : Ctx) (r : Run) : Option ChainEnt := if r.role = 0 then none else chainOf c r.thread r.cmd

/-- Has every incoming row of the pass arrived? -/
def rowsIn (s : State) (c : Ctx) (r : Run) : Bool :=
  match runStage c r with
  | none => true
  | some e => !hasBefore s c e || decide (e.rowsM1 + 1 ≤ r.inRows.length)

/-- May the final stage judge: a SOLO command after its products, a LAST stage once its rows are in (R82, R124)? -/
def mayJudge (r : Run) : Bool := r.phase == 4 && (r.role == 0 || r.role == 3)

/-- A stage that holds its own partial and, where it is the LAST, every row of the pass goes on to the judge pass (R125). -/
def toJudge (n : CtxId) (thread cmd : Nat) (s : State) : State :=
  match findRun s n thread cmd with
  | some r => if r.phase == 3 && r.role == 3 && rowsIn s (s.ctx n) r then modRun n thread cmd (fun x => { x with phase := 4 }) s else s
  | none => s

/-- Does an ME command give its tile to the queue (R119)? -/
def queueDest (r : Run) : Bool :=
  let d := fld (wd r.body 1) 33 32
  r.eng == .me && (r.role == 0 || r.role == 3) && (d == 1 || d == 2)

/-- Is an earlier ME command of the context on the core still to enter the queue (R119)? -/
def queueTurn (s : State) (n : CtxId) (r : Run) : Bool :=
  let before := (s.ctx n).runs.takeWhile fun x => !(x.thread == r.thread && x.cmd == r.cmd)
  !before.any fun x => queueDest x && x.core == r.core && !x.executed

/-- Does the stage run a header pass: header mode on an ME stage or an RSUM stage (R79, R183)? -/
def headerMode (r : Run) : Bool :=
  (r.eng == .me && fld (wd r.body 0) 41 40 == 0) || (r.eng == .re && r.opcode == 0x50 && fld (wd r.body 0) 47 46 == 0)

end Sys2Proof.Machine
end

