-- ==== Sys2Proof/Machine/Umber.lean ====
section
/-! DEFINITION. The Umber code of R327 to R330. -/

namespace Sys2Proof.Machine

/-- Multiplication by α in GF(2^8) with the polynomial 0x11D (R327). -/
def gfDouble (a : Byte) : Byte := if a.msb then (a <<< 1) ^^^ 0x1D else a <<< 1

/-- Multiplication in GF(2^8) (R327), over the low `n` bits of the second factor. -/
def gmulAux : Nat → Byte → Byte → Byte
  | 0, _, _ => 0
  | n + 1, a, b => (if b.getLsbD 0 then a else 0) ^^^ gmulAux n (gfDouble a) (b >>> 1)

/-- gmul of R329. -/
def gmul (a b : Byte) : Byte := gmulAux 8 a b

/-- The multipliers m_0 to m_7 of R328. -/
def umberM : List Byte := [0x1D, 0x3A, 0x74, 0xE8, 0xCD, 0x87, 0x13, 0x26]

/-- The check byte c0 of R328. -/
def umberC0 (d : List Byte) : Byte := d.foldl (· ^^^ ·) 0

/-- The check byte c1 of R328. -/
def umberC1 (d : List Byte) : Byte := (d.zipWith gmul umberM).foldl (· ^^^ ·) 0

/-- The stored 80-bit Umber word of eight data bytes (R327). -/
def umberEncode (d : List Byte) : BitVec 80 :=
  BitVec.ofNat 80 (leNat (padTo 8 (d.take 8) ++ [umberC0 (padTo 8 (d.take 8)), umberC1 (padTo 8 (d.take 8))]))

/-- An Umber word as a DDR5 burst carries it (R331): beat 2w in bits [39:0] and beat 2w + 1 in bits [79:40]. In each beat DQ[31:0] is
followed by CB[7:0]; byte k, with c0 as byte 8 and c1 as byte 9, has its low nibble in the first beat and its high one in the
second, so x4 device k carries byte k and nothing else. -/
def ddrBurst (w : BitVec 80) : BitVec 80 :=
  BitVec.ofNat 80 (((leBytes 10 w.toNat).zipIdx.foldl (fun (a : Nat) (x : Byte × Nat) =>
    a + x.1.toNat % 16 * 16 ^ x.2 + x.1.toNat / 16 * 16 ^ (10 + x.2)) 0))

/-- The Umber word of a DDR5 burst. -/
def ddrWord (b : BitVec 80) : BitVec 80 :=
  let nib (k : Nat) : Nat := b.toNat / 16 ^ k % 16
  BitVec.ofNat 80 ((List.range 10).foldl (fun a k => a + (nib k + 16 * nib (10 + k)) * 256 ^ k) 0)

/-- What an HBM access carries of a line's words (R331): the data lanes, and the 128 check bits on the ECC and metadata lanes. -/
def hbmLanes (ws : List (BitVec 80)) : List (BitVec 64) × List (BitVec 16) :=
  (ws.map (BitVec.setWidth 64), ws.map fun w => BitVec.ofNat 16 (w.toNat >>> 64))

/-- The Umber words of the lanes of an HBM access. -/
def hbmWords (l : List (BitVec 64) × List (BitVec 16)) : List (BitVec 80) :=
  l.1.zipWith (fun d c => BitVec.ofNat 80 (d.toNat + c.toNat * 2 ^ 64)) l.2

/-- A stored word with bits in error, as its reader gets it: a DDR5 error strikes the burst, so that a failed x4 device strikes one
nibble of each beat; elsewhere the word is stored as it is (R331). -/
def struckWord (ddr : Bool) (w err : BitVec 80) : BitVec 80 := if ddr then ddrWord (ddrBurst w ^^^ err) else w ^^^ err

/-- The result of a decode (R329). -/
inductive Decode where
  | clean | corrected | uncorrectable
  deriving DecidableEq, Repr

/-- The index i with S1 = m_i · S0, which is q = m_i of R329, if any. -/
def umberLocate (s0 s1 : Byte) : Option Nat :=
  (List.range 8).find? fun i => s1 == gmul (umberM.getD i 0) s0

/-- umber_decode of R329 on an 80-bit word: the data bytes after correction, the column of the corrected
byte (0–9), and the result. -/
def umberDecode (w : BitVec 80) : List Byte × Option Nat × Decode :=
  let bs := leBytes 10 w.toNat
  let d := bs.take 8
  let s0 := bs.getD 8 0 ^^^ umberC0 d
  let s1 := bs.getD 9 0 ^^^ umberC1 d
  if s0 = 0 ∧ s1 = 0 then (d, none, .clean)
  else if s0 = 0 then (d, some 9, .corrected)
  else if s1 = 0 then (d, some 8, .corrected)
  else match umberLocate s0 s1 with
    | some i => (d.set i (d.getD i 0 ^^^ s0), some i, .corrected)
    | none => (d, none, .uncorrectable)

end Sys2Proof.Machine
end

