-- ==== Sys2Proof/Machine/Dma.lean ====
section
/-! DEFINITION. The DMA engine: descriptors and lists (R234 to R237), validation (R240), gathers and headers (R241, R242),
the copy (R237, R405), scatter-add (R243), settle (R245), and what a channel does when it stops (R247, R248). -/

namespace Sys2Proof.Machine

/-! ### Descriptors -/

/-- The descriptor that eight words hold. -/
def Desc.ofWords (w : List Word) : Desc :=
  let c := wd w 0
  { form := fld c 63 62, gather := fld c 61 60, last := bit c 59, hdrs := bit c 58, raw := bit c 57, pitch := fld c 23 0,
    src := Ref.ofWord (wd w 1), dst := Ref.ofWord (wd w 2), rows := fld (wd w 3) 63 44 + 1, len := fld (wd w 3) 39 0,
    nsrc := fld (wd w 4) 63 44, ndst := fld (wd w 5) 63 44, spitch := fld (wd w 4) 39 0, dpitch := fld (wd w 5) 39 0,
    tag := wd w 6, next := wd w 7 }

/-- The rules of R240 that one descriptor's words break or keep by themselves. -/
def descOk (w : List Word) : Bool :=
  let d := Desc.ofWords w
  let rect := d.form == 1
  let list := d.form == 2
  decide (d.form ≤ 2) && decide (d.gather ≤ 2) && fld (wd w 0) 56 24 == 0 && (d.hdrs == (d.pitch != 0)) &&
  fld (wd w 3) 43 40 == 0 && fld (wd w 4) 43 40 == 0 && fld (wd w 5) 43 40 == 0 && (rect || d.rows == 1) &&
  (rect || (d.spitch == 0 && d.dpitch == 0)) && (list || (d.nsrc == 0 && d.ndst == 0)) &&
  d.len % 8 == 0 && decide (8 ≤ d.len) && d.spitch % 8 == 0 && d.dpitch % 8 == 0 && d.src.off % 8 == 0 &&
  d.dst.off % 8 == 0 && fld d.tag 2 0 == 0 && (d.last == (d.next == 0)) && (!rect || decide (d.len ≤ d.dpitch)) &&
  decide (d.rows * d.len ≤ 2 ^ 40 - 8) && ((d.gather == 0) == (d.tag == 0)) && !(d.gather != 0 && list) && !(d.raw && d.hdrs)

/-- A descriptor with its place and the references of its streams. -/
structure DescR where
  d : Desc
  ref : Ref
  src : List (Ref × Nat)
  dst : List (Ref × Nat)

/-- The entries of a list (R236). -/
def listRefs (e : EC) (r : Ref) (n len : Nat) : Chk (List (Ref × Nat)) := do
  req (r.space == 0) flDescBounds
  let a ← refAddr e.s e.n e.mir (some e.thread) r (16 * n)
  readable e a (16 * n)
  let ws := (chunks 16 (e.s.readB a (16 * n))).map bytesToWords
  let es := ws.map fun w => (Ref.ofWord (wd w 0), fld (wd w 1) 39 0)
  req (ws.all fun w => fld (wd w 1) 63 40 == 0) flFormatMismatch
  req (es.all fun (x : Ref × Nat) => x.2 % 8 == 0 && x.2 != 0 && x.1.off % 8 == 0) flFormatMismatch
  req (es.foldl (fun a (x : Ref × Nat) => a + x.2) 0 == len) flFormatMismatch
  .ok es

/-- The references of one stream of a descriptor (R237). -/
def streamRefs (e : EC) (form : Nat) (r : Ref) (rows len pitch n : Nat) : Chk (List (Ref × Nat)) :=
  if form = 1 then .ok ((List.range rows).map fun i => (r.add (i * pitch), len))
  else if form = 2 && n != 0 then listRefs e r n len
  else .ok [(r, len)]

/-- Walk the descriptors of a command (R235, R240); the fuel is the largest number of descriptors. -/
def walkDescs (e : EC) : Nat → Ref → Chk (List DescR)
  | 0, _ => .error (flFormatMismatch, 0)
  | f + 1, r => do
    req (r.space == 0) flDescBounds
    req (r.off % 8 == 0) flFormatMismatch
    let a ← refAddr e.s e.n e.mir (some e.thread) r 64
    readable e a 64
    let w := bytesToWords (e.s.readB a 64)
    req (descOk w) flFormatMismatch
    let d := Desc.ofWords w
    let src ← streamRefs e d.form d.src d.rows d.len d.spitch d.nsrc
    let dst ← streamRefs e d.form d.dst d.rows d.len d.dpitch d.ndst
    req ((d.hdrs || d.raw || src.all fun (x : Ref × Nat) => x.1.space != 3) &&
      (!d.raw || src.all fun (x : Ref × Nat) => x.1.space == 3)) flFormatMismatch
    let x : DescR := { d, ref := r, src, dst }
    if d.last then .ok [x] else (walkDescs e f (Ref.ofWord d.next)).map fun xs => x :: xs

/-- The walk of a DCOPY from its command body (R232). -/
def dcopyWalk (e : EC) (body : List Word) : Chk (List DescR) := do
  req (fld (wd body 0) 51 0 == 0 && (body.drop 2).all (· == 0)) flFormatMismatch
  walkDescs e 65536 (Ref.ofWord (wd body 1))

/-! ### Windows as sources and destinations (R405) -/

/-- A declared window of the context's job. -/
def winDecl (c : Ctx) (win : Nat) : Option WinDecl := ((c.job.map (·.wins)).getD []).find? fun w => w.win == win

/-- A push or serve window that lands on this device. -/
def landWin (s : State) (c : Ctx) (win : Nat) : Option WinDecl :=
  (winDecl c win).bind fun w => if w.kind ≤ 1 && w.dst == devNum s then some w else none

/-- A push window that this device sends. -/
def pushWin (s : State) (c : Ctx) (win : Nat) : Option WinDecl :=
  (winDecl c win).bind fun w => if w.kind == 0 && w.src == devNum s then some w else none

/-- Have the bytes of a landing area arrived in the step (R405)? -/
def hasLanded (c : Ctx) (w : WinDecl) (off len : Nat) : Bool :=
  if w.src = w.dst then
    let rs := (c.x.filled.filter fun f => f.1 == w.win).map fun (f : Nat × Nat × Nat) => (f.2.1, f.2.2 - f.2.1)
    coversTo rs (off + len) (rs.length + 1) off
  else
    (List.range ((off + len - 1) / 608 + 1 - off / 608)).all fun i => c.x.landed.contains (w.win, off / 608 + i, 0)

/-- The bytes of a part. -/
def Seg.len : Seg → Nat
  | .mem _ n => n
  | .push _ _ n _ _ => n

/-- The position of a part in its destination, for alignment. -/
def Seg.pos : Seg → Nat
  | .mem a _ => a
  | .push _ _ _ p _ => p

/-- The bytes of local memory that a part touches: its own, or those where it lands. -/
def Seg.range : Seg → Option (Nat × Nat)
  | .mem a n => some (a, n)
  | .push _ _ n _ l => l.map fun a => (a, n)

/-- The `n` bytes from `lo` on of a part. -/
def Seg.sub (lo n : Nat) : Seg → Seg
  | .mem a _ => .mem (a + lo) n
  | .push w off _ p l => .push w (off + lo) n (p + lo) (l.map (· + lo))

/-- A fault about a landed byte names it in the remote form of the device where it landed (R30, R405). -/
def landedFault (s : State) {α : Type} (x : Chk α) : Chk α :=
  match x with
  | .ok a => .ok a
  | .error e => .error (e.1, if e.2 = 0 then 0 else BitVec.ofNat 64 (remoteForm (devNum s) e.2.toNat))

/-- Resolve a source reference (R234, R405). -/
def srcSeg (e : EC) (x : Ref × Nat) : Chk Seg :=
  if x.1.space = 2 then
    match landWin e.s e.ctx x.1.num with
    | none => .error (flDescBounds, 0)
    | some w => do
      req (decide (x.1.off + x.2 ≤ w.volume)) flSlabOverrun
      let a ← landedFault e.s (refAddr e.s e.n e.mir none ((Ref.ofWord w.dstRef).add x.1.off) x.2)
      .ok (.mem a x.2)
  else (refAddr e.s e.n e.mir (some e.thread) x.1 x.2).map fun a => .mem a x.2

/-- Has a planned cell of a byte range of a window been sent in the step? -/
def cellsSent (c : Ctx) (win off len : Nat) : Bool :=
  (List.range ((off + len - 1) / 608 + 1 - off / 608)).any fun i => c.x.sent.contains (win, off / 608 + i, 0)

/-- Resolve a destination reference (R234, R405, R599). A window whose destination is this device lands at its DST_REF. The mirror
sends nothing, so it checks no cells (R312). -/
def dstSeg (e : EC) (x : Ref × Nat) : Chk Seg :=
  if x.1.space = 2 then
    match pushWin e.s e.ctx x.1.num with
    | none => .error (flDescBounds, 0)
    | some w =>
      let off := (Ref.ofWord w.dstRef).off + x.1.off
      if e.mir then .ok (.push w.win x.1.off x.2 off none)
      else if w.volume < x.1.off + x.2 || (w.src != w.dst && cellsSent e.ctx w.win x.1.off x.2) then
        .error (flExchangeOver, put w.win 44)
      else if w.src = w.dst then
        (refAddr e.s e.n e.mir none ((Ref.ofWord w.dstRef).add x.1.off) x.2).map fun a => .push w.win x.1.off x.2 off (some a)
      else .ok (.push w.win x.1.off x.2 off none)
  else (refAddr e.s e.n e.mir (some e.thread) x.1 x.2).map fun a => .mem a x.2

/-- The reference through which a window's bytes are reached on this device: of a source its landing area, of a destination the one
of a local window. -/
def winRef (e : EC) (dst : Bool) (win : Nat) : Option Ref :=
  ((if dst then (pushWin e.s e.ctx win).bind fun w => if w.src == w.dst then some w else none else landWin e.s e.ctx win)).map
    fun w => Ref.ofWord w.dstRef

/-- The local reference that stands for a reference of a descriptor: itself, or that of its window. -/
def localRef (e : EC) (dst : Bool) (r : Ref) : Ref :=
  if r.space = 2 then (winRef e dst r.num).getD r else r

/-- Does a reference wait: for an alternate, an admission, a pending or published window or a clear (R421, R433, R544, R216)? -/
def refHeld (e : EC) (dst : Bool) (x : Ref × Nat) : Bool :=
  refWaits e.ctx (localRef e dst x.1) ||
  (x.1.space == 3 && (match hostWin e.s e.n x.1.num with
    | some w => !dst && w.artefact && !w.admitted
    | none => false)) ||
  (match refAddr e.s e.n e.mir (some e.thread) x.1 x.2 with
    | .ok a => busyRange e.s a x.2 || (dst && pubHeld e.s a x.2)
    | .error _ => false)

/-- Does a read of a landing area wait for a cell that covers it (R405)? -/
def landingWaits (s : State) (c : Ctx) (x : Ref × Nat) : Bool :=
  x.1.space == 2 && (match landWin s c x.1.num with
    | some w => decide (x.1.off + x.2 ≤ w.volume) && !hasLanded c w x.1.off x.2
    | none => false)

/-- The reference of a stream offset. -/
def refAt : List (Ref × Nat) → Nat → Option Ref
  | [], _ => none
  | (r, n) :: rest, o => if o < n then some (r.add o) else refAt rest (o - n)

/-- What the walk reads of a descriptor's source: the first word of each header, and the header of a gathered shard (R240 to R242). -/
def walkReads (x : DescR) : List (Ref × Nat) :=
  let len := x.src.foldl (fun a (y : Ref × Nat) => a + y.2) 0
  (if x.d.hdrs then ((List.range (ceilDiv len (64 * x.d.pitch))).filterMap fun i => refAt x.src (i * x.d.pitch * 64)).map fun r => (r, 8) else []) ++
  (if x.d.gather != 0 then [(x.d.src, 24)] else [])

/-- Does a command wait before its walk: for a reference, or for a landing that the walk reads? -/
def descsHeld (e : EC) (xs : List DescR) : Bool :=
  xs.any fun x => x.src.any (refHeld e false) || x.dst.any (refHeld e true) ||
    (x.d.gather != 0 && refHeld e true (Ref.ofWord x.d.tag, 24)) || (walkReads x).any (landingWaits e.s e.ctx)

/-! ### Streams -/

/-- The `n` bytes from `lo` on of a stream. -/
def subSegs : List (Seg × Ref) → Nat → Nat → List (Seg × Ref)
  | [], _, _ => []
  | (g, r) :: rest, lo, n =>
    if g.len ≤ lo then subSegs rest (lo - g.len) n
    else if n = 0 then []
    else (g.sub lo (min n (g.len - lo)), r.add lo) :: subSegs rest 0 (n - (g.len - lo))

/-- The length of a stream. -/
def segsLen (l : List (Seg × Ref)) : Nat := l.foldl (fun a x => a + x.1.len) 0

/-- The bytes of a source stream. -/
def segBytes (s : State) (l : List (Seg × Ref)) : List Byte :=
  l.flatMap fun x => match x.1 with
    | .mem a n => s.readB a n
    | .push _ _ _ _ _ => []

/-- The destination position of a stream offset. -/
def segPos : List (Seg × Ref) → Nat → Nat
  | [], _ => 0
  | (g, _) :: rest, o => if o < g.len then g.pos + o else segPos rest (o - g.len)

/-- Do a source and a destination share bytes of local memory, where a local window's bytes land included? -/
def segsMeet (a b : List (Seg × Ref)) : Bool :=
  a.any fun x => b.any fun y => match x.1.range, y.1.range with
    | some p, some q => overlap p.1 (p.1 + p.2) q.1 (q.1 + q.2)
    | _, _ => false

/-- Do two parts share a unit in which destinations are written: a line of memory, a cell payload of a window (R238)? -/
def sameUnit (a b : Seg) : Bool :=
  let meet (u p n q m : Nat) : Bool := decide (p / u ≤ (q + m - 1) / u) && decide (q / u ≤ (p + n - 1) / u)
  match a, b with
  | .mem p n, .mem q m => meet 64 p n q m
  | .push v p n _ _, .push w q m _ _ => v == w && meet 608 p n q m
  | _, _ => false

/-- May the written part of a stream end after `k` bytes: no line or cell holds bytes on both sides, or the stream ends (R239)? -/
def cutOk (dst : List (Seg × Ref)) (k : Nat) : Bool :=
  let post := subSegs dst k (segsLen dst)
  (subSegs dst 0 k).all fun x => post.all fun y => !sameUnit x.1 y.1

/-! ### The walk (R240 to R242) -/

/-- SHARD in word 3 of the shard header at a source, which a VERSION_SKEW names (R413, R549): 0 where the source ends before it. -/
def shardAt (e : EC) (r : Ref) : Nat :=
  match srcSeg e (r, 32) with
  | .ok g => fld (wd (bytesToWords (segBytes e.s [(g, r)])) 3) 63 44
  | .error _ => 0

/-- Resolve one descriptor against the state, check its headers and its gather tag; with it goes the tag that it records
(R240 to R242). -/
def descCheck (e : EC) (x : DescR) : Chk (DescS × List (Nat × List Byte)) := do
  let src ← x.src.mapM fun y => (srcSeg e y).map fun g => (g, y.1)
  let dst ← x.dst.mapM fun y => (dstSeg e y).map fun g => (g, y.1)
  let d := x.d
  req (d.form == 2 || !segsMeet src dst) flFormatMismatch
  let heads := if d.hdrs then (List.range (ceilDiv (segsLen src) (64 * d.pitch))).map fun i => i * d.pitch * 64 else []
  req (heads.all fun p => segPos dst p % 64 == 0) flFormatMismatch
  let stream := if d.hdrs then segBytes e.s src else []
  req (heads.all fun p => (stream.getD p 0) == 1) flFormatMismatch
  let r : DescS := { d, ref := x.ref, src, dst }
  if d.gather = 0 then .ok (r, [])
  else do
    let tag := Ref.ofWord d.tag
    req (tag.space == 0) flDescBounds
    let t ← refAddr e.s e.n e.mir (some e.thread) tag 24
    let from_ ← srcSeg e (d.src, 24)
    let h := segBytes e.s [(from_, d.src)]
    if d.gather = 1 then .ok (r, [(t, h)])
    else if h != e.s.readB t 24 then .error (flVersionSkew, put (shardAt e d.src) 44)
    else .ok (r, [])

/-- May an execution write here: always, or in a mirror only into the mirror's own slabs (R312)? -/
def mayWrite (e : EC) (r : Ref) : Bool := !e.mir || (r.space == 0 && e.ctx.b.mirrors.any fun b => b.slab == r.num)

/-- The checks of a walk, in link order; a check of a tag sees what an earlier descriptor recorded there (R242). -/
def walkChecks (e : EC) : List DescR → Chk (List DescS × State)
  | [] => .ok ([], e.s)
  | x :: rest => do
    let (d, tag) ← descCheck e x
    let e := if mayWrite e (Ref.ofWord x.d.tag) then { e with s := e.s.writeAll tag } else e
    let (ds, s) ← walkChecks e rest
    .ok (d :: ds, s)

/-- A local window whose count would pass its VOLUME with the bytes of some destination parts (R400, R402). -/
def pushOver (c : Ctx) (l : List (Seg × Ref)) : Option Nat :=
  let ps := l.filterMap fun y => match y.1 with
    | .push w _ n _ (some _) => some (w, n)
    | _ => none
  (dedup (ps.map (·.1))).find? fun w =>
    let n := (ps.filter fun p => p.1 == w).foldl (fun a p => a + p.2) 0
    decide (((winDecl c w).map (·.volume)).getD 0 < (assocGet (w, 0) c.x.counts).getD 0 + n)

/-- A window whose VOLUME some destination parts would pass now, or of which they fall into a cell that was sent since the walk
(R400, R402, R599). -/
def copyOver (c : Ctx) (l : List (Seg × Ref)) : Option Nat :=
  (l.findSome? fun y => match y.1 with
    | .push w o n _ none => if cellsSent c w o n then some w else none
    | _ => none).or (pushOver c l)

/-- The whole walk of the descriptors of a command: the resolved streams, and the state with the tags recorded (R240). -/
def dcopyCheck (e : EC) (ds : List DescR) : Chk (List DescS × State) := do
  let x ← walkChecks e ds
  match pushOver e.ctx (x.1.flatMap (·.dst)) with
  | some w => .error (flExchangeOver, put w 44)
  | none => .ok x

/-! ### The copy -/

/-- What a copy has done so far: the state, digests for the accounts and for comparison, and window cells written. -/
structure DmaAcc where
  s : State
  tints : List TintOut := []
  digs : List TintOut := []
  cells : List (Nat × Nat) := []
  ends : List (Nat × Nat) := []

/-- Note a write through a shard's NEXT view (R422). -/
def noteNext (n : CtxId) (r : Ref) (s : State) : State :=
  if r.space = 1 then
    match nextShard (s.ctx n) r.num with
    | some d =>
      let f (x : ShardState) : ShardState :=
        { x with renewed := true, hdrWritten := x.hdrWritten || decide (r.off < 64) }
      s.modCtx n fun c => { c with w := { c.w with shards := modFirst (fun x => x.shard == d.shard) f c.w.shards } }
    | none => s
  else s

/-- Take the pin of every READ reference (R417). -/
def takePins (n : CtxId) (thread : Nat) (refs : List Ref) (s : State) : State :=
  refs.foldl (fun s r => match pinToTake (s.ctx n) thread r with
    | some p => takePin n p s
    | none => s) s

/-- Note that a window wrote through a shard's NEXT view (R423). -/
def noteWrote (n : CtxId) (win : Nat) (r : Ref) (s : State) : State :=
  if r.space = 1 then
    match nextShard (s.ctx n) r.num with
    | some d => s.modCtx n fun c => { c with x := { c.x with wrote := dedup (c.x.wrote ++ [(win, d.shard)]) } }
    | none => s
  else s

/-- Bytes of a window land at an address that its reference resolved to, and in the mirror's copy of the slab (R312, R422, R423). -/
def landWrite (n : CtxId) (win : Nat) (r : Ref) (a : Nat) (bs : List Byte) (s : State) : State :=
  let s := match mirrorAddr (s.ctx n) r with
    | some m => s.writeB m bs
    | none => s
  noteWrote n win r (noteNext n r (s.writeB a bs))

/-- Place bytes into a push window; where the window's destination is this device they land at once (R400, R405). -/
def pushBytes (e : EC) (win off : Nat) (land : Option Nat) (bs : List Byte) (s : State) : State :=
  let s := s.modCtx e.n fun c => { c with x := { c.x with
    push := if land.isSome then c.x.push else assocSet win (memWrite 0 ((assocGet win c.x.push).getD []) off bs) c.x.push
    filled := c.x.filled ++ [(win, off, off + bs.length)]
    counts := if land.isSome then assocSet (win, 0) ((assocGet (win, 0) c.x.counts).getD 0 + bs.length) c.x.counts
      else c.x.counts } }
  match land, winDecl (s.ctx e.n) win with
  | some a, some w => landWrite e.n win ((Ref.ofWord w.dstRef).add off) a bs s
  | _, _ => s

/-- Write a stream to its destination parts. -/
def writeSegs (e : EC) (acc : DmaAcc) : List (Seg × Ref) → List Byte → DmaAcc
  | [], _ => acc
  | (g, r) :: rest, bs =>
    let part := bs.take g.len
    let acc : DmaAcc :=
      if mayWrite e r then
        match g with
        | .mem a _ => { acc with s := noteNext e.n r (acc.s.writeB a part) }
        | .push w off k _ l =>
          { acc with
            s := pushBytes e w off l part acc.s
            cells := acc.cells ++ (if l.isSome then [] else
              (List.range ((off + k - 1) / 608 + 1 - off / 608)).map fun i => (w, off / 608 + i))
            ends := assocSet w (max ((assocGet w acc.ends).getD 0) (off + k)) acc.ends }
      else acc
    writeSegs e acc rest (bs.drop g.len)

/-- The SPACE of the source that a stream offset comes from. -/
def srcSpace : List (Seg × Ref) → Nat → Nat
  | [], _ => 0
  | (g, r) :: rest, o => if o < g.len then r.space else srcSpace rest (o - g.len)

/-- What the write engine makes of stream bytes from `lo` on: SEALED is cleared in the headers that HDRS marks, where the header
comes from a SPACE 3 source; in a list that mixes sources the others stay unchanged (R241; R66 leaves the mixed case open). -/
def clearSealed (x : DescS) (lo : Nat) (bs : List Byte) : List Byte :=
  if x.d.hdrs && x.src.any fun y => y.2.space == 3 then
    bs.zipIdx.map fun (b, i) =>
      if (lo + i) % (64 * x.d.pitch) = 1 && srcSpace x.src (lo + i) == 3 then b &&& 0xFE else b
  else bs

/-- The bytes of Umber words. -/
def heldBytes (ws : List (BitVec 80)) : List Byte := ws.flatMap fun w => leBytes 8 (w.toNat % 2 ^ 64)

/-- Write the bytes of a descriptor's stream from `lo` to `hi`: the held ones first, then bytes that are read now. -/
def copyRange (e : EC) (x : DescS) (held : List Byte) (lo hi : Nat) (acc : DmaAcc) : DmaAcc × List Byte :=
  let bs := (held ++ segBytes acc.s (subSegs x.src (lo + held.length) (hi - lo - held.length))).take (hi - lo)
  let bs := clearSealed x lo bs
  (writeSegs e acc (subSegs x.dst lo (hi - lo)) bs, bs)

/-- Complete a descriptor of which `seen` is written already, and digest its stream (R237, R241, R439). -/
def copyDesc (e : EC) (held seen : List Byte) (acc : DmaAcc) (x : DescS) (i : Nat) : DmaAcc :=
  let (acc, bs) := copyRange e x held seen.length (segsLen x.src) acc
  let dg := dmaDigest e.ctx e.thread e.cmd i (seen ++ bs)
  { acc with
    tints := if x.src.any fun y => y.2.space == 3 then acc.tints ++ [dg] else acc.tints
    digs := acc.digs ++ [dg] }

/-- Complete descriptors in link order; the first may be in progress. -/
def copyDescs (e : EC) (held seen : List Byte) (acc : DmaAcc) : List DescS → Nat → DmaAcc
  | [], _ => acc
  | x :: rest, i => copyDescs e [] [] (copyDesc e held seen acc x i) rest (i + 1)

/-- The pins that the references of a DCOPY take (R417). -/
def copyPins (e : EC) (xs : List DescS) (s : State) : State :=
  if e.mir then s else takePins e.n e.thread (xs.flatMap fun x => (x.src ++ x.dst).map (·.2)) s

/-- The whole copy of a command by a mirror: the state with the mirror's own slabs written, and the digests of every stream
(R312). -/
def mirrorCopy (e : EC) (body : List Word) : State × List TintOut :=
  match (dcopyWalk e body).bind (dcopyCheck e) with
  | .ok (xs, s) => let acc := copyDescs { e with s := s } [] [] { s := s } xs 0; (acc.s, acc.digs)
  | .error _ => (e.s, [])

/-! ### Scatter-add (R243) -/

/-- The checks of a DSCAT, with the walk over its indices: the format, the addresses of SRC and of DST, and the indices. -/
def scatterCheck (e : EC) (body : List Word) : Chk (Nat × Nat × Nat × List Nat) := do
  let c := wd body 0
  let fmt := fld c 51 48
  let cnt := fld c 39 0
  let src := Ref.ofWord (wd body 1)
  let idx := Ref.ofWord (wd body 2)
  let dst := Ref.ofWord (wd body 3)
  req (e.ctx.loose && (fmt == 0x8 || fmt == 0xA) && fld c 47 40 == 0 && cnt != 0 && (body.drop 4).all (· == 0) &&
    src.off % 8 == 0 && idx.off % 8 == 0 && dst.off % 8 == 0) flFormatMismatch
  req (decide (src.space ≤ 1) && idx.space == 0 && decide (dst.space ≤ 1)) flDescBounds
  let w := fmtBits fmt / 8
  let sa ← refAddr e.s e.n e.mir (some e.thread) src (cnt * w)
  let ia ← refAddr e.s e.n e.mir (some e.thread) idx (cnt * 4)
  readable e ia (cnt * 4)
  let ixs := (chunks 4 (e.s.readB ia (cnt * 4))).map leNat
  let as ← (ixs.filter (· != 0xFFFFFFFF)).mapM fun i =>
    (refAddr e.s e.n e.mir (some e.thread) (dst.add (i * w)) w).map fun a => a - i * w
  .ok (fmt, sa, as.headD 0, ixs)

/-- The updates of a DSCAT from one to another: for each the index and the value (R243). -/
def scatterOps (s : State) (fmt sa : Nat) (ixs : List Nat) (lo hi : Nat) : List (Nat × Nat) :=
  let w := fmtBits fmt / 8
  (((ixs.drop lo).take (hi - lo)).zipIdx.filter fun (x : Nat × Nat) => x.1 != 0xFFFFFFFF).map fun (x : Nat × Nat) =>
    (x.1, leNat (s.readB (sa + (lo + x.2) * w) w))

/-- One update: read, add with the canonical NaN, write (R243, R148). With the state goes the sum. -/
def scatterOne (fmt da : Nat) (acc : State × List Byte) (x : Nat × Nat) : State × List Byte :=
  let w := fmtBits fmt / 8
  let a := da + x.1 * w
  let old := leNat (acc.1.readB a w)
  let bs := leBytes w (addNum2 fmt (decodeElem fmt old) (decodeElem fmt x.2)).raw
  (acc.1.writeB a bs, acc.2 ++ bs)

/-- The mirror's run of a DSCAT: where DST is not the mirror's own, its writes are not made (R312). -/
def mirrorScatter (e : EC) (body : List Word) : State × List TintOut :=
  match scatterCheck e body with
  | .ok (fmt, sa, da, ixs) =>
    let x := (scatterOps e.s fmt sa ixs 0 ixs.length).foldl (scatterOne fmt da) (e.s, [])
    (if mayWrite e (Ref.ofWord (wd body 3)) then x.1 else e.s, [dmaDigest e.ctx e.thread e.cmd 0 x.2])
  | .error _ => (e.s, [])

/-! ### Channels -/

/-- Is a command the one that its channel runs (R233)? -/
def chanHead (s : State) (r : Run) : Bool :=
  let d := (s.core (coreOf r.core)).dma[r.chan.val]
  (d.state == 1 || d.state == 2) && d.queue.head? == some (r.thread, r.cmd)

/-- Go on to the next command of a channel (R233). -/
def chanNext (core : CoreId) (ch : Fin 16) (s : State) : State :=
  modChan core ch (fun d =>
    let q := d.queue.drop 1
    match q.head? with
    | some x => { d with queue := q, state := 1, cmd := BitVec.ofNat 16 x.2 }
    | none => { d with queue := [], state := 0, cmd := 0 }) s

/-- A thread fault that a channel raises (R53, R248). -/
def chanFault (n : CtxId) (r : Run) (x : Nat × Word) (s : State) : State :=
  let core := coreOf r.core
  let s := chanStop n core r.chan 2 s
  let d := (s.core core).dma[r.chan.val]
  threadFault n r.thread r.cmd x.1 x.2
    [d.ref, put d.bytes.toNat 24 ||| put d.cause.toNat 16 ||| put d.index.toNat 0, put r.chan.val 0] s

/-- Carry out accesses of a channel: they wait while a bank is being cleared; a bank that the context no longer owns stops the
channel with a BANK_OWNER fault (R52, R208, R216, R248). -/
def chanBanks (n : CtxId) (r : Run) (rs : List (Nat × Nat)) (s : State) (f : State → State) : State :=
  match bankAnswer s n rs with
  | .served => f s
  | .waits => s
  | .foreign a => chanFault n r (flBankOwner, BitVec.ofNat 64 a) s

/-- A failed check of a walk: the command waits for a bank that is being cleared, or its channel faults. -/
def chanRefuse (n : CtxId) (r : Run) (x : Nat × Word) (s : State) : State := if x.1 = flWait then s else chanFault n r x s

/-- The waiting NEXT references of a command show in NEXT_WAIT (R421). -/
def noteNextWait (n : CtxId) (thread cmd : Nat) (refs : List Ref) (s : State) : State :=
  let c := s.ctx n
  let xs := (refs.filter (refWaits c)).filterMap fun r => (nextShard c r.num).map fun d => (thread, cmd, d.shard)
  s.modCtx n fun c => { c with w := { c.w with nextWaits := dedup (c.w.nextWaits ++ xs) } }

/-- The ranges of local memory that the streams of descriptors touch. -/
def streamRanges (xs : List DescS) : List (Nat × Nat) := xs.flatMap fun x => (x.src ++ x.dst).filterMap fun y => y.1.range

/-- Complete a DCOPY. A mirror runs it with the group (R312). -/
def endCopy (n : CtxId) (r : Run) (p : DmaPart) (held : List Byte) (xs : List DescS) (s : State) : State :=
  let m := if r.mirror.isSome then mirrorCopy (ecOf s n true r.thread r.cmd) r.body else (s, [])
  let s := m.1
  let acc := copyDescs (r.ec s n) held p.seen { s := s, tints := p.tints, digs := p.digs, ends := p.ends } xs p.idx
  let s := addTints n r.thread r.cmd { tints := acc.tints } acc.s
  let s := s.modCtx n fun c => { c with x := { c.x with ends := c.x.ends ++ acc.ends } }
  let s := modRun n r.thread r.cmd (fun r => { r with
    executed := true, part := none, digP := acc.digs, digM := m.2, windows := acc.ends.map (·.1), ends := acc.ends }) s
  chanNext (coreOf r.core) r.chan (modChan (coreOf r.core) r.chan (fun d => { d with
    hold := [], pendingWins := d.pendingWins ++ acc.cells }) s)

/-- A part of a DCOPY: the descriptors before `u.desc` are complete, the first `u.written` bytes of its stream are written and the
first `u.read` are read. What is read and not written stands in the channel's slices (R229, R239, R247). Nothing happens
where the slices do not hold so much, or where a line or a cell would be written in part. -/
def partCopy (n : CtxId) (r : Run) (p : DmaPart) (held : List Byte) (xs : List DescS) (u : CopyStop) (s : State) : State :=
  let core := coreOf r.core
  match xs[u.desc - p.idx]? with
  | none => s
  | some x =>
    let here : Bool := u.desc == p.idx
    let seen := if here then p.seen else []
    let old := if here then held else []
    let room := (s.core core).chan[r.chan.val].slices.toNat * 1024
    if u.desc < p.idx || u.written < seen.length || u.read < seen.length + old.length || u.read < u.written ||
        segsLen x.src < u.read || room < u.read - u.written || u.written % 8 != 0 || u.read % 8 != 0 ||
        !(u.written == seen.length || cutOk x.dst u.written) then s
    else
      let e := r.ec s n
      let acc := copyDescs e held p.seen { s := s, tints := p.tints, digs := p.digs, ends := p.ends } (xs.take (u.desc - p.idx)) p.idx
      let all := old ++ segBytes acc.s (subSegs x.src (seen.length + old.length) (u.read - seen.length - old.length))
      let (acc, bs) := copyRange e x (all.take (u.written - seen.length)) seen.length u.written acc
      let now : DmaPart := { idx := u.desc, bytes := u.written, ref := x.ref.word, seen := seen ++ bs
                             tints := acc.tints, digs := acc.digs, ends := acc.ends }
      let s := modRun n r.thread r.cmd (fun r => { r with part := some now }) acc.s
      modChan core r.chan (fun d => { d with
        state := 2, hold := (chunks 8 (all.drop (u.written - seen.length))).map umberEncode
        pendingWins := d.pendingWins ++ acc.cells }) s

/-- The parts of descriptors from an offset in the first of them on: sources, or destinations. -/
def restParts (f : DescS → List (Seg × Ref)) (lo : Nat) : List DescS → List (Seg × Ref)
  | [] => []
  | x :: xs => subSegs (f x) lo (segsLen (f x)) ++ xs.flatMap f

/-- Do source parts wait for their cells, or destination parts for a host window (R405, R544)? -/
def partsWait (s : State) (n : CtxId) (src dst : List (Seg × Ref)) : Bool :=
  (src.any fun y => landingWaits s (s.ctx n) (y.2, y.1.len)) ||
  dst.any fun y => match y.1.range with
    | some a => pubHeld s a.1 a.2
    | none => false

/-- Carry out some of a copy's accesses, when nothing makes them wait and no window would be filled too far (R400, R405, R544, R599). -/
def copyParts (n : CtxId) (r : Run) (src dst : List (Seg × Ref)) (s : State) (f : State → State) : State :=
  if partsWait s n src dst then s
  else match copyOver (s.ctx n) dst with
    | some w => chanFault n r (flExchangeOver, put w 44) s
    | none => chanBanks n r ((src ++ dst).filterMap fun y => y.1.range) s f

/-- How many of the descriptors of a copy, from the one in progress on, need no read or write that waits. -/
def readyDescs (s : State) (n : CtxId) (seen old : Nat) (rest : List DescS) : Nat :=
  ((rest.zipIdx.find? fun (x, i) =>
    partsWait s n (restParts (·.src) (if i = 0 then seen + old else 0) [x]) (restParts (·.dst) (if i = 0 then seen else 0) [x])).map
      (·.2)).getD rest.length

/-- Go on with a checked DCOPY: to its end, or through a part of it. One that is to end and meets a descriptor that waits goes on up
to it (R405). -/
def runCopy (n : CtxId) (r : Run) (xs : List DescS) (upTo : Option CopyStop) (s : State) : State :=
  let p : DmaPart := r.part.getD { idx := 0, bytes := 0, ref := wd r.body 1 }
  let held := heldBytes ((s.core (coreOf r.core)).dma[r.chan.val]).hold
  let rest := xs.drop p.idx
  let seen := p.seen.length
  let part (u : CopyStop) : State :=
    let full := rest.take (u.desc - p.idx)
    let x := rest[u.desc - p.idx]?
    let lo := if u.desc = p.idx then seen else 0
    let lr := if u.desc = p.idx then seen + held.length else 0
    copyParts n r (restParts (·.src) (seen + held.length) full ++ ((x.map fun y => subSegs y.src lr (u.read - lr)).getD []))
      (restParts (·.dst) seen full ++ ((x.map fun y => subSegs y.dst lo (u.written - lo)).getD [])) s (partCopy n r p held rest u)
  let k := readyDescs s n seen held.length rest
  match upTo with
  | some u => part u
  | none =>
    if k = rest.length then
      copyParts n r (restParts (·.src) (seen + held.length) rest) (restParts (·.dst) seen rest) s (endCopy n r p held rest)
    else if k = 0 then s
    else part { desc := p.idx + k, written := 0, read := 0 }

/-- Does the next byte that a checked DCOPY has to read or to write wait (R405, R544)? -/
def copyWaits (s : State) (n : CtxId) (r : Run) (xs : List DescS) : Bool :=
  let p : DmaPart := r.part.getD { idx := 0, bytes := 0, ref := wd r.body 1 }
  let held := heldBytes ((s.core (coreOf r.core)).dma[r.chan.val]).hold
  let rest := xs.drop p.idx
  partsWait s n (subSegs (restParts (·.src) (p.seen.length + held.length) rest) 0 8) (subSegs (restParts (·.dst) p.seen.length rest) 0 8)

/-- A DCOPY at the head of its channel: it is walked once, then it copies. It waits where a reference of its descriptors waits
(R240, R421, R405, R433, R544). -/
def dcopyRun (n : CtxId) (thread cmd : Nat) (upTo : Option CopyStop) (s : State) : State :=
  withRun s n thread cmd (fun r => r.eng == .dma && r.opcode == 0x60 && !r.executed && chanHead s r) fun r =>
    match r.ops with
    | .copy xs => runCopy n r xs upTo s
    | _ =>
      let e := r.ec s n
      match dcopyWalk e r.body with
      | .error x => chanRefuse n r x s
      | .ok ds =>
        if descsHeld e ds then noteNextWait n thread cmd (ds.flatMap fun d =>
            (d.src.map fun y => localRef e false y.1) ++ d.dst.map fun y => localRef e true y.1) s
        else
          match dcopyCheck e ds with
          | .error x => chanRefuse n r x s
          | .ok (xs, s') =>
            let s' := modRun n thread cmd (fun r => { r with ops := .copy xs }) (copyPins e xs s')
            runCopy n { r with ops := .copy xs } xs upTo s'

/-- DCOPY (R231 to R242, R247). `upTo` names where this part of the copy ends; without it the copy completes. -/
def execDcopy (n : CtxId) (thread cmd : Nat) (upTo : Option CopyStop) (arb : List BankCycle) (s : State) :
    Host.Outcome State Fault Refusal :=
  ok (dcopyRun n thread cmd upTo (arbitrate arb s))

/-- DSETTLE (R245): it completes once every covered write has arrived. Local writes have arrived when they leave the
engine; a fabric write when its cell is acknowledged. -/
def execDsettle (n : CtxId) (thread cmd : Nat) (s : State) : Host.Outcome State Fault Refusal :=
  ok <| withRun s n thread cmd (fun r => r.eng == .dma && r.opcode == 0x61 && !r.executed) fun r =>
    if r.written.all fun x => (s.ctx n).x.acked.contains x then modRun n thread cmd (fun r => { r with executed := true }) s
    else s

/-- Apply the updates of a checked DSCAT from the next one on, up to one or to the end (R243). -/
def runScatter (n : CtxId) (r : Run) (fmt sa da : Nat) (ixs : List Nat) (upTo : Option Nat) (s : State) : State :=
  let w := fmtBits fmt / 8
  let p : DmaPart := r.part.getD { idx := 0, bytes := 0, ref := 0 }
  let lo := p.bytes / w
  let hi := max lo (min (upTo.getD ixs.length) ixs.length)
  let ops := scatterOps s fmt sa ixs lo hi
  if ops.any fun x => pubHeld s (da + x.1 * w) w then s
  else chanBanks n r ((sa + lo * w, (hi - lo) * w) :: ops.map fun x => (da + x.1 * w, w)) s fun s =>
    let m := if r.mirror.isSome && hi == ixs.length then mirrorScatter (ecOf s n true r.thread r.cmd) r.body else (s, [])
    let dst := Ref.ofWord (wd r.body 3)
    let x := ops.foldl (scatterOne fmt da) (m.1, [])
    let s := ops.foldl (fun s x => noteNext n (dst.add (x.1 * w)) s) x.1
    let s := s.modCtx n fun c => { c with scatter := satAdd c.scatter ops.length }
    let now : DmaPart := { p with bytes := hi * w, seen := p.seen ++ x.2 }
    if hi < ixs.length then
      modChan (coreOf r.core) r.chan (fun d => { d with state := 2 })
        (modRun n r.thread r.cmd (fun r => { r with part := some now }) s)
    else
      chanNext (coreOf r.core) r.chan (modRun n r.thread r.cmd (fun x => { x with
        executed := true, part := none, digM := m.2
        digP := if r.mirror.isSome then [dmaDigest (s.ctx n) r.thread r.cmd 0 now.seen] else [] }) s)

/-- Does the next update of a checked DSCAT wait for a host window (R544)? -/
def scatterWaits (s : State) (r : Run) (fmt sa da : Nat) (ixs : List Nat) : Bool :=
  let w := fmtBits fmt / 8
  let lo := ((r.part.map (·.bytes)).getD 0) / w
  (scatterOps s fmt sa ixs lo (lo + 1)).any fun x => pubHeld s (da + x.1 * w) w

/-- A DSCAT at the head of its channel: it is checked once, then its updates apply. -/
def dscatRun (n : CtxId) (thread cmd : Nat) (upTo : Option Nat) (s : State) : State :=
  withRun s n thread cmd (fun r => r.eng == .dma && r.opcode == 0x62 && !r.executed && chanHead s r) fun r =>
    match r.ops with
    | .scatter fmt sa da ixs => runScatter n r fmt sa da ixs upTo s
    | _ =>
      let refs := [Ref.ofWord (wd r.body 1), Ref.ofWord (wd r.body 2), Ref.ofWord (wd r.body 3)]
      if refs.any (refWaits (s.ctx n)) then noteNextWait n thread cmd refs s
      else
        match scatterCheck (r.ec s n) r.body with
        | .error x => chanRefuse n r x s
        | .ok (fmt, sa, da, ixs) =>
          let s := modRun n thread cmd (fun r => { r with ops := .scatter fmt sa da ixs }) (takePins n thread refs s)
          runScatter n { r with ops := .scatter fmt sa da ixs } fmt sa da ixs upTo s

/-- DSCAT (R243): floating scatter-add in arrival order, only in a loose context (R45, R46). `upTo` names the update at which this
part of the command ends; without it the command completes. -/
def execDscat (n : CtxId) (thread cmd : Nat) (upTo : Option Nat) (arb : List BankCycle) (s : State) :
    Host.Outcome State Fault Refusal :=
  ok (dscatRun n thread cmd upTo (arbitrate arb s))

end Sys2Proof.Machine
end

