-- ==== Sys2Proof/Machine/Xchg.lean ====
section
/-! DEFINITION. The exchange engine: command fields and checks (R406, R411), the streams of XSEND, XRET and XBLK (R407,
R410) and the landing of flows (R408 to R410). -/

namespace Sys2Proof.Machine

/-- Bytes of a row. -/
def XeOps.rowBytes (o : XeOps) : Nat := o.lines * 64

/-- The windows of an XE command's flows that this device sends. -/
def xeFlows (s : State) (c : Ctx) (first n : Nat) : Chk (List WinDecl) :=
  (List.range n).mapM fun i => match winDecl c (first + i) with
    | some w => if w.src == devNum s then .ok w else .error (flFormatMismatch, 0)
    | none => .error (flFormatMismatch, 0)

/-- Check an XE command and read its references (R406, R411). -/
def xeRead (e : EC) (body : List Word) : Chk XeOps := do
  let c := wd body 0
  let f := wd body 1
  let p := wd body 7
  let op := fld c 63 56
  let k := fld c 55 52 + 1
  let lines := fld c 51 32
  let tokens := fld c 31 0
  let first := fld f 63 44
  let nd := fld f 43 32
  let rank := fld p 47 32
  let nexp := fld p 63 48
  let send := op == 0x70
  let ret := op == 0x71
  req ((send || ret || op == 0x72) && nd != 0 && (body.drop 9).all (· == 0) && lines != 0 && fld p 15 0 == 0 &&
    fld (wd body 8) 43 0 == 0) flFormatMismatch
  req (send || (wd body 5 == 0 && wd body 6 == 0 && wd body 8 == 0)) flFormatMismatch
  req (send || ret || (wd body 3 == 0 && wd body 4 == 0 && p == 0 && k == 1)) flFormatMismatch
  req ((body.drop 2).take 5 |>.all fun w => fld w 2 0 == 0) flFormatMismatch
  let addr (w : Word) (n : Nat) : Chk Nat := do
    req (decide ((Ref.ofWord w).space ≤ 1)) flDescBounds
    refAddr e.s e.n e.mir (some e.thread) (Ref.ofWord w) n
  let src ← addr (wd body 2) (tokens * lines * 64)
  let flows ← xeFlows e.s e.ctx first nd
  req (flows.all fun w => if send then w.kind == 3 else if ret then w.kind == 4 else w.kind == 0 || w.kind == 3 || w.kind == 4)
    flFormatMismatch
  if send then do
    let ia ← addr (wd body 3) (tokens * k * 4)
    let ma ← addr (wd body 4) (nexp * 24)
    let da ← addr (wd body 5) (tokens * k * lines * 64)
    let ka ← addr (wd body 6) (ceilDiv (tokens * k) 8)
    readable e ia (tokens * k * 4)
    readable e ma (nexp * 24)
    let idx := (chunks 4 (e.s.readB ia (tokens * k * 4))).map leNat
    let tab := (chunks 24 (e.s.readB ma (nexp * 24))).map fun b =>
      let w := bytesToWords b
      ({ dest := fld (wd w 0) 63 48, cap := fld (wd w 0) 31 0, rows := wd w 1, index := wd w 2 } : Expert)
    req ((chunks 24 (e.s.readB ma (nexp * 24))).all fun b => fld (wd (bytesToWords b) 0) 47 32 == 0) flFormatMismatch
    req (tab.all fun x => decide (x.dest < nd)) flFormatMismatch
    req (idx.all fun x => decide (x < nexp) || x == 0xFFFFFFFF) flFormatMismatch
    req ((chunks k idx).all fun r => distinct (r.filter (· != 0xFFFFFFFF))) flFormatMismatch
    let rd := fld (wd body 8) 63 44
    req (rd == 0 || (List.range nd).all fun i => match winDecl e.ctx (rd + i) with
      | some w => w.kind == 4 && w.dstRef == wd body 5
      | none => false) flFormatMismatch
    let need (d : Nat) : Nat := (tab.filter fun x => x.dest == d).foldl (fun a x => a + x.cap * (8 + lines * 64)) 0
    match flows.zipIdx.find? fun (w, i) => decide (w.volume < need i) with
    | some (w, _) => .error (flExchangeOver, put w.win 44)
    | none =>
      .ok { op, k, lines, tokens, first, ndest := nd, src, idx, experts := tab, dst := da, mask := ka, maskRef := wd body 6,
            dstRef := wd body 5, rank, flows := flows.map (·.win) }
  else if ret then do
    let ia ← addr (wd body 3) (tokens * 8)
    readable e ia (tokens * 8)
    let idx := (chunks 8 (e.s.readB ia (tokens * 8))).map leNat
    req (idx.all fun x => x == 2 ^ 64 - 1 || decide (x / 2 ^ 48 < nd)) flFormatMismatch
    let need (d : Nat) : Nat := (idx.filter fun x => x != 2 ^ 64 - 1 && x / 2 ^ 48 == d).length * lines * 64
    match flows.zipIdx.find? fun (w, i) => decide (w.volume < need i) with
    | some (w, _) => .error (flExchangeOver, put w.win 44)
    | none =>
      .ok { op, k, lines, tokens, first, ndest := nd, src, idx, experts := [], dst := 0, mask := 0, maskRef := 0,
            dstRef := 0, rank, flows := flows.map (·.win) }
  else
    match flows.find? fun w => decide (w.volume < tokens * lines * 64) with
    | some w => .error (flExchangeOver, put w.win 44)
    | none =>
      .ok { op, k, lines, tokens, first, ndest := nd, src, idx := [], experts := [], dst := 0, mask := 0, maskRef := 0,
            dstRef := 0, rank, flows := flows.map (·.win) }

/-! ### XSEND (R407) -/

/-- The choices of an XSEND that name expert e, in ascending row: row and choice. -/
def XeOps.takers (o : XeOps) (e : Nat) : List (Nat × Nat) :=
  (o.idx.zipIdx.filter fun (x : Nat × Nat) => x.1 == e).map fun (x : Nat × Nat) => (x.2 / o.k, x.2 % o.k)

/-- The kept and the dropped choices of expert e. -/
def XeOps.kept (o : XeOps) (e : Nat) (x : Expert) : List (Nat × Nat) × List (Nat × Nat) :=
  ((o.takers e).take x.cap, (o.takers e).drop x.cap)

/-- An index entry (R406). -/
def indexEntry (rank choice row : Nat) (drop : Bool) : Word := put rank 48 ||| put choice 44 ||| putB drop 43 ||| put row 0

/-- The empty index entry. -/
def emptyEntry : Word := BitVec.ofNat 64 (2 ^ 64 - 1)

/-- The stream of one flow of an XSEND: index entries of every expert of the destination, then the kept rows. -/
def XeOps.sendStream (s : State) (o : XeOps) (d : Nat) : List Byte :=
  let xs := (o.experts.zipIdx.filter fun (x : Expert × Nat) => x.1.dest == d)
  let ents := xs.flatMap fun (x, i) =>
    let ks := (o.kept i x).1
    (ks.map fun (q : Nat × Nat) => indexEntry o.rank q.2 q.1 false) ++ List.replicate (x.cap - ks.length) emptyEntry
  wordsToBytes ents ++ xs.flatMap fun (x, i) => (o.kept i x).1.flatMap fun (q : Nat × Nat) =>
    s.readB (o.src + q.1 * o.rowBytes) o.rowBytes

/-- What the destination is told of a flow of an XSEND. -/
def XeOps.sendInfo (o : XeOps) (d : Nat) : FlowInfo :=
  { rank := o.rank, rowLines := o.lines, k := o.k, entries := []
    experts := (o.experts.filter fun x => x.dest == d).map fun x => (x.cap, x.rows, x.index) }

/-- Set one bit of memory. -/
def setBit (a i : Nat) (b : Bool) (s : State) : State :=
  let old := (s.readB (a + i / 8) 1).getD 0 0
  let m : Byte := BitVec.ofNat 8 (1 <<< (i % 8))
  s.writeB (a + i / 8) [if b then old ||| m else old &&& ~~~m]

/-! ### Landing (R408 to R410) -/

/-- The rows of a flow's stream: for a row the byte at which its entry and its data start, with where they go. -/
structure FlowRow where
  ent : Nat                  -- byte of the index entry in the stream; unused for a return flow
  row : Nat                  -- byte of the row in the stream
  entry : Word
  cap : Nat
  rows : Word
  index : Word
  j : Nat                    -- position among the rank's kept rows of the expert

/-- The index entries of an XSEND flow as they stand in the received bytes, with the rows they announce. -/
def sendRows (info : FlowInfo) (m : List (Nat × Byte)) : List FlowRow :=
  let caps := info.experts.foldl (fun a x => a + x.1) 0
  let step (acc : List FlowRow × Nat × Nat) (x : Nat × Word × Word) : List FlowRow × Nat × Nat :=
    let (l, eb, rb) := acc
    let es := (List.range x.1).map fun j => (j, BitVec.ofNat 64 (leNat (memRead 0 m (eb + 8 * j) 8)))
    let ks := es.filter fun (q : Nat × Word) => q.2 != emptyEntry
    let row (q : Nat × Word) : FlowRow :=
      { ent := eb + 8 * q.1, row := rb + q.1 * info.rowLines * 64, entry := q.2, cap := x.1, rows := x.2.1, index := x.2.2
        j := q.1 }
    (l ++ ks.map row, eb + 8 * x.1, rb + ks.length * info.rowLines * 64)
  (info.experts.foldl step ([], 0, 8 * caps)).1

/-- Land bytes of a window at a reference of the context. They wait for an alternate buffer, for the clear of a bank and for a host
window (R421, R216, R544); where they may not land, the error names the fault and the landed byte (R208, R405). -/
def writeRef (n : CtxId) (win : Nat) (r : Ref) (bs : List Byte) (s : State) : Chk State :=
  if refWaits (s.ctx n) r then .error (flWait, 0)
  else do
    let a ← landedFault s (landAddr s n r bs.length)
    match bankAnswer s n ((a, bs.length) :: (mirrorAddr (s.ctx n) r).toList.map fun m => (m, bs.length)) with
    | .served => if pubHeld s a bs.length then .error (flWait, 0) else .ok (landWrite n win r a bs s)
    | .waits => .error (flWait, 0)
    | .foreign b => landedFault s (.error (flBankOwner, BitVec.ofNat 64 b))

/-- Set one bit at a reference of the context, with the waits and faults of a landing. -/
def landBit (n : CtxId) (win : Nat) (r : Ref) (i : Nat) (b : Bool) (s : State) : Chk State :=
  if refWaits (s.ctx n) r then .error (flWait, 0)
  else do
    let a ← landedFault s (landAddr s n r (i / 8 + 1))
    let old := (s.readB (a + i / 8) 1).getD 0 0
    let m : Byte := BitVec.ofNat 8 (1 <<< (i % 8))
    writeRef n win (r.add (i / 8)) [if b then old ||| m else old &&& ~~~m] s

/-- Place one row of an XSEND flow (R408), or by arrival where the window drops by arrival (R409). -/
def placeRow (n : CtxId) (win : Nat) (flag : Bool) (info : FlowInfo) (x : FlowRow) (bs : List Byte) (s : State) : Chk State :=
  let rows := Ref.ofWord x.rows
  let index := Ref.ofWord x.index
  let rb := info.rowLines * 64
  if flag then
    let key := x.rows.toNat
    let cnt := (assocGet key (s.ctx n).x.looseCnt).getD 0
    let s := s.modCtx n fun c => { c with x := { c.x with looseCnt := assocSet key (cnt + 1) c.x.looseCnt } }
    if cnt < x.cap then
      (writeRef n win (index.add (cnt * 8)) (wordsToBytes [x.entry]) s).bind (writeRef n win (rows.add (cnt * rb)) bs)
    else
      (writeRef n win (index.add (cnt * 8)) (wordsToBytes [x.entry ||| putB true 43]) s).map fun s =>
        s.modCtx n fun c => { c with overflow := satAdd c.overflow 1 }
  else
    let at_ := info.rank * x.cap + x.j
    (writeRef n win (index.add (at_ * 8)) (wordsToBytes [x.entry]) s).bind (writeRef n win (rows.add (at_ * rb)) bs)

/-- At a flow's LAST: rows that received none get +0 and the empty entry (R408). -/
def fillRows (n : CtxId) (win : Nat) (flag : Bool) (info : FlowInfo) (rows : List FlowRow) (s : State) : Chk State :=
  let rb := info.rowLines * 64
  info.experts.foldlM (fun s (x : Nat × Word × Word) =>
    let used := (rows.filter fun r => r.index == x.2.2 && r.rows == x.2.1).length
    let (from_, to_) := if flag then ((assocGet x.2.1.toNat (s.ctx n).x.looseCnt).getD 0, x.1)
      else (info.rank * x.1 + used, info.rank * x.1 + x.1)
    (List.range (to_ - from_)).foldlM (fun s i =>
      (writeRef n win ((Ref.ofWord x.2.2).add ((from_ + i) * 8)) (wordsToBytes [emptyEntry]) s).bind
        (writeRef n win ((Ref.ofWord x.2.1).add ((from_ + i) * rb)) (List.replicate rb 0))) s) s

/-- Place row i of a return flow in the combine area; a loose drop clears its bit in the MASK of the XSEND whose combine area
this is (R410, R411). -/
def placeReturn (n : CtxId) (w : WinDecl) (info : FlowInfo) (i : Nat) (bs : List Byte) (s : State) : Chk State := do
  let e := wd info.entries i
  let at_ := fld e 31 0 * info.k + fld e 47 44
  let s ← writeRef n w.win ((Ref.ofWord w.dstRef).add (at_ * info.rowLines * 64)) bs s
  match if bit e 43 then assocGet w.dstRef.toNat (s.ctx n).x.masks else none with
  | some m => landBit n w.win (Ref.ofWord m) at_ false s
  | none => .ok s

/-- Are the bytes of a stream range received, when `have_` tells it of a byte range? -/
def rowsReady (have_ : Nat → Nat → Bool) (rb : Nat) (rows : List FlowRow) : List (FlowRow × Nat) :=
  rows.zipIdx.filter fun (r, _) => have_ r.ent 8 && have_ r.row rb

/-- Place whatever rows of a flow are complete and not yet placed (R408 to R410). -/
def landFlow (n : CtxId) (w : WinDecl) (info : FlowInfo) (have_ : Nat → Nat → Bool) (last : Bool) (s : State) : Chk State :=
  let m := (assocGet w.win (s.ctx n).x.inFlow).getD []
  let rb := info.rowLines * 64
  let place (s : State) (i : Nat) (f : State → Chk State) : Chk State :=
    if (s.ctx n).x.flowRows.contains (w.win, i) then .ok s
    else f (s.modCtx n fun c => { c with x := { c.x with flowRows := c.x.flowRows ++ [(w.win, i)] } })
  if w.kind = 3 then
    let caps := info.experts.foldl (fun a x => a + x.1) 0
    if have_ 0 (8 * caps) then
      let rows := sendRows info m
      ((rowsReady have_ rb rows).foldlM (fun s (x : FlowRow × Nat) =>
        place s x.2 (placeRow n w.win w.flag info x.1 (memRead 0 m x.1.row rb))) s).bind fun s =>
          if last then fillRows n w.win w.flag info rows s else .ok s
    else .ok s
  else
    (List.range info.entries.length).foldlM (fun s i =>
      if have_ (i * rb) rb then place s i (placeReturn n w info i (memRead 0 m (i * rb) rb)) else .ok s) s

/-- Give the stream of one flow to the fabric, or move it on this device (R400, R407, R410). -/
def sendFlow (e : EC) (w : WinDecl) (info : FlowInfo) (bs : List Byte) (s : State) : Chk State :=
  if w.src = w.dst then
    if w.kind = 0 then writeRef e.n w.win (Ref.ofWord w.dstRef) bs s
    else
      let s := s.modCtx e.n fun c => { c with x := { c.x with
        inFlow := assocSet w.win (memWrite 0 [] 0 bs) c.x.inFlow, filled := c.x.filled ++ [(w.win, 0, bs.length)] } }
      if w.kind = 4 && info.entries.isEmpty then writeRef e.n w.win (Ref.ofWord w.dstRef) bs s
      else landFlow e.n w info (fun o k => decide (o + k ≤ bs.length)) true s
  else
    .ok (s.modCtx e.n fun c => { c with x := { c.x with
      push := assocSet w.win (memWrite 0 [] 0 bs) c.x.push
      filled := c.x.filled ++ [(w.win, 0, bs.length)], ends := c.x.ends ++ [(w.win, bs.length)] } })

/-- Count rows sent and choices dropped on a die (R412). -/
def addXeCnt (n : CtxId) (d : DieId) (drops rows : Nat) (s : State) : State :=
  s.modDie d fun k => { k with xe := upd k.xe n fun x => { drop := satAdd x.drop drops, tokens := satAdd x.tokens rows } }

/-- What an XE command does: the streams of its flows, bytes it writes itself, bits of the XSEND mask, and what it counts. -/
structure XeDone where
  streams : List (WinDecl × FlowInfo × List Byte) := []
  zeros : List (Nat × List Byte) := []
  bits : List (Nat × Bool) := []
  drops : Nat := 0
  kept : Nat := 0

/-- The windows of a checked command's flows. -/
def XeOps.wins (c : Ctx) (o : XeOps) : List WinDecl := o.flows.filterMap (winDecl c)

/-- What an XSEND does (R407): a dropped or absent choice gets a row of zeros and its mask bit 0. -/
def xsendDone (e : EC) (o : XeOps) : XeDone :=
  let kept := o.experts.zipIdx.flatMap fun (x, i) => (o.kept i x).1
  let dropped := o.experts.zipIdx.flatMap fun (x, i) => (o.kept i x).2
  let none_ := (o.idx.zipIdx.filter fun (x : Nat × Nat) => x.1 == 0xFFFFFFFF).map fun (x : Nat × Nat) => (x.2 / o.k, x.2 % o.k)
  let at_ (q : Nat × Nat) : Nat := q.1 * o.k + q.2
  { streams := (o.wins e.ctx).zipIdx.map fun (w, d) => (w, o.sendInfo d, o.sendStream e.s d)
    zeros := (dropped ++ none_).map fun q => (o.dst + at_ q * o.rowBytes, List.replicate o.rowBytes 0)
    bits := (dropped ++ none_).map (fun q => (at_ q, false)) ++ kept.map fun q => (at_ q, true)
    drops := dropped.length, kept := kept.length }

/-- What an XRET does (R410): each entry's row goes to its rank; a dropped entry returns zeros. -/
def xretDone (e : EC) (o : XeOps) : XeDone :=
  let rows := (o.idx.zipIdx.filter fun (x : Nat × Nat) => x.1 != 2 ^ 64 - 1)
  { streams := (o.wins e.ctx).zipIdx.map fun (w, d) =>
      let mine := rows.filter fun (x : Nat × Nat) => x.1 / 2 ^ 48 == d
      (w, { rank := o.rank, rowLines := o.lines, k := o.k, experts := []
            entries := mine.map fun (x : Nat × Nat) => BitVec.ofNat 64 x.1 },
       mine.flatMap fun (x : Nat × Nat) =>
         if x.1.testBit 43 then List.replicate o.rowBytes 0 else e.s.readB (o.src + x.2 * o.rowBytes) o.rowBytes) }

/-- What an XBLK does (R410): the same rows to every flow. -/
def xblkDone (e : EC) (o : XeOps) : XeDone :=
  { streams := (o.wins e.ctx).map fun w => (w, { rank := 0, rowLines := o.lines, k := 1, experts := [], entries := [] },
      e.s.readB o.src (o.tokens * o.rowBytes)) }

/-- What a checked XE command does. -/
def xeDone (e : EC) (o : XeOps) : XeDone :=
  if o.op = 0x70 then xsendDone e o else if o.op = 0x71 then xretDone e o else xblkDone e o

/-- Write a command's own bytes and mask bits; where its references name a NEXT view, they renew the shard (R407, R422). -/
def XeDone.write (n : CtxId) (o : XeOps) (x : XeDone) (s : State) : State :=
  let s := x.bits.foldl (fun s b => setBit o.mask b.1 b.2 s) (s.writeAll x.zeros)
  let s := x.zeros.foldl (fun s z => noteNext n ((Ref.ofWord o.dstRef).add (z.1 - o.dst)) s) s
  x.bits.foldl (fun s b => noteNext n ((Ref.ofWord o.maskRef).add (b.1 / 8)) s) s

/-- Digests of every byte that a command writes, for the comparison with its mirror (R312). -/
def XeDone.digests (e : EC) (x : XeDone) : List TintOut :=
  (x.streams.map (fun y => y.2.2) ++ [streamOf x.zeros, x.bits.flatMap fun b => leBytes 4 (2 * b.1 + if b.2 then 1 else 0)]).zipIdx.map
    fun (bs, i) => dmaDigest e.ctx e.thread e.cmd i bs

/-- Carry an XE command out: its streams go to the fabric, or land here (R407, R410, R412). -/
def xeApply (e : EC) (o : XeOps) (x : XeDone) (s : State) : Chk State :=
  let s := if o.op = 0x70 then
      s.modCtx e.n fun c => { c with x := { c.x with masks := assocSet o.dstRef.toNat o.maskRef c.x.masks } } else s
  (x.streams.foldlM (fun s y => sendFlow e y.1 y.2.1 y.2.2 s) s).map fun s =>
    addXeCnt e.n (dieOf (coreOf e.core)) x.drops x.kept (x.write e.n o s)

/-- The mirror's run of an XE command: it writes where the combine area and the mask are its own, and sends nothing (R312). -/
def mirrorXe (e : EC) (body : List Word) : State × List TintOut :=
  match xeRead e body with
  | .ok o =>
    let x := xeDone e o
    let s := if mayWrite e (Ref.ofWord o.dstRef) then e.s.writeAll x.zeros else e.s
    (if mayWrite e (Ref.ofWord o.maskRef) then x.bits.foldl (fun s b => setBit o.mask b.1 b.2 s) s else s, x.digests e)
  | .error _ => (e.s, [])

/-- The ranges of memory that an XE command touches. -/
def XeOps.ranges (o : XeOps) : List (Nat × Nat) :=
  [(o.src, o.tokens * o.rowBytes)] ++
  (if o.op = 0x70 then [(o.dst, o.tokens * o.k * o.rowBytes), (o.mask, ceilDiv (o.tokens * o.k) 8)] else [])

/-- A flow of a command whose bytes fall into a cell that was already sent (R599). -/
def flowOver (c : Ctx) (x : XeDone) : Option WinDecl :=
  (x.streams.find? fun y => y.1.src != y.1.dst && !y.2.2.isEmpty && cellsSent c y.1.win 0 y.2.2.length).map (·.1)

/-- Do the references of an XE command wait for an alternate (R421)? -/
def xeHeld (c : Ctx) (body : List Word) : Bool := ((body.drop 2).take 5).any fun w => refWaits c (Ref.ofWord w)

/-- The references through which the bytes of a command's local flows land. -/
def XeDone.refs (x : XeDone) : List Ref := (x.streams.filter fun y => y.1.src == y.1.dst).flatMap fun y => landRefs y.1 (some y.2.1)

/-- Does a command write into a host window that is pending or published (R544)? -/
def XeDone.pubHeld (s : State) (o : XeOps) (x : XeDone) : Bool :=
  (x.zeros.any fun z => Sys2Proof.Machine.pubHeld s z.1 z.2.length) || x.bits.any fun b => Sys2Proof.Machine.pubHeld s (o.mask + b.1 / 8) 1

/-- A checked XE command runs, or waits with no effect while bytes that land here would wait. A mirror runs it with the group (R312). -/
def runXeOps (n : CtxId) (r : Run) (o : XeOps) (s : State) : State :=
  withBanks n r o.ranges s fun s0 =>
    let m := if r.mirror.isSome then mirrorXe (ecOf s0 n true r.thread r.cmd) r.body else (s0, [])
    let s := m.1
    let e := r.ec s n
    let x := xeDone e o
    if x.pubHeld s o then s0
    else match flowOver e.ctx x with
    | some w => runFault n r flExchangeOver (put w.win 44) s0
    | none => match xeApply e o x s with
      | .error f => if f.1 = flWait then noteNextWait n r.thread r.cmd x.refs s0 else runFault n r f.1 f.2 s0
      | .ok s => modRun n r.thread r.cmd (fun y => { y with
          executed := true, digM := m.2, digP := if r.mirror.isSome then x.digests e else [], windows := o.flows }) s

/-- Run an issued XE command of an opcode. One that waited for an alternate at its issue is checked when the wait ends (R421). -/
def runXe (n : CtxId) (thread cmd op : Nat) (s : State) : State :=
  withRun s n thread cmd (fun r => r.eng == .xe && r.opcode == op && !r.executed) fun r =>
    match r.ops with
    | .xe o => runXeOps n r o (takePins n thread (((r.body.drop 2).take 5).map Ref.ofWord) s)
    | _ =>
      if xeHeld (s.ctx n) r.body then noteNextWait n thread cmd (((r.body.drop 2).take 5).map Ref.ofWord) s
      else match xeRead (r.ec s n) r.body with
        | .error x => if x.1 = flWait then s else runFault n r x.1 x.2 s
        | .ok o => runXeOps n r o (takePins n thread (((r.body.drop 2).take 5).map Ref.ofWord) s)

/-- XSEND (R407). -/
def execXsend (n : CtxId) (thread cmd : Nat) (arb : List BankCycle) (s : State) : Host.Outcome State Fault Refusal :=
  ok (runXe n thread cmd 0x70 (arbitrate arb s))

/-- XRET (R410). -/
def execXret (n : CtxId) (thread cmd : Nat) (arb : List BankCycle) (s : State) : Host.Outcome State Fault Refusal :=
  ok (runXe n thread cmd 0x71 (arbitrate arb s))

/-- XBLK (R410). -/
def execXblk (n : CtxId) (thread cmd : Nat) (arb : List BankCycle) (s : State) : Host.Outcome State Fault Refusal :=
  ok (runXe n thread cmd 0x72 (arbitrate arb s))

end Sys2Proof.Machine
end

