-- ==== Sys2Proof/Machine/Bind.lean ====
section
/-! DEFINITION. Command lists (R262, R263) and binding: slabs to banks (R209, R256 to R259), mirrors (R259, R311), rebinding
after a quarantine (R260), buffers to granules (R326), and filling slabs and buffers from their images (R28, R484, R517). -/

namespace Sys2Proof.Machine

/-! ### Command lists -/

/-- The address of command n of a thread, when the thread's slab is bound here (R262). -/
def cmdAddr (c : Ctx) (mir : Bool) (d : ThreadDesc) (n : Nat) : Option Nat :=
  (slabBindOf c mir d.slab).map fun b => b.base + 64 * (d.line + 3 * n)

/-- Does a thread's command list sit in a KIND 0 slab of its group (R257)? -/
def listPlaced (c : Ctx) (d : ThreadDesc) : Bool :=
  match slabBindOf c false d.slab with
  | some b => b.kind == 0 && b.group == d.group
  | none => false

/-- Does a thread's whole command list lie within such a slab (R262)? -/
def listFits (c : Ctx) (d : ThreadDesc) : Bool :=
  listPlaced c d && (match slabBindOf c false d.slab with
    | some b => decide (d.line + 3 * d.ncmd ≤ b.lines)
    | none => false)

/-- The envelope and the body of a command (R262). -/
def cmdWords (s : State) (a : Nat) : List Word × List Word :=
  let w := bytesToWords (s.readB a 192)
  (w.take 8, w.drop 8)

/-- The waits of an envelope: CTR and REQ (R263). -/
def envWaits (env : List Word) : List (Nat × Nat) :=
  ([wd env 1, wd env 2].filter fun w => fld w 63 44 != 0).map fun w => (fld w 63 44, fld w 31 0)

/-- The signals of an envelope: CTR and DEC (R263). -/
def envSigs (env : List Word) : List (Nat × Nat) :=
  ([wd env 3, wd env 4].filter fun w => fld w 63 44 != 0).map fun w => (fld w 63 44, fld w 39 32)

/-- The opcode of a body (R264). -/
def bodyOp (body : List Word) : Nat := fld (wd body 0) 63 56

/-- The engine that an operation byte selects (R264). -/
def engOf (body : List Word) : Option Eng :=
  let op := bodyOp body
  if op = 0 then (if body.all (· == 0) then some .join else none)
  else if op / 16 = 1 then some .me
  else if op / 16 = 2 then some .ee
  else if op / 16 = 3 then some .le
  else if op / 16 = 5 then some .re
  else if op / 16 = 6 then some .dma
  else if op / 16 = 7 then some .xe
  else none

/-- The threads of a job whose groups are bound on this device. -/
def boundThreads (c : Ctx) : List ThreadDesc :=
  ((c.job.map (·.threads)).getD []).filter fun d => (groupCore c d.group).isSome

/-- The commands of a thread, each with its index, envelope and body; none where the list leaves its slab. -/
def threadCmds (s : State) (c : Ctx) (d : ThreadDesc) : List (Nat × List Word × List Word) :=
  if listFits c d then
    (List.range d.ncmd).filterMap fun i => (cmdAddr c false d i).map fun a => (i, cmdWords s a)
  else []

/-- The windows that a command sends to, as its body or its descriptors name them (R269, R396). -/
def cmdWindows (s : State) (n : CtxId) (d : ThreadDesc) (i : Nat) (body : List Word) : List Nat :=
  let op := bodyOp body
  if op = 0x60 then
    match dcopyWalk (ecOf s n false d.thread i) body with
    | .ok xs => xs.flatMap fun x => (x.dst.filter fun (r : Ref × Nat) => r.1.space == 2).map fun (r : Ref × Nat) => r.1.num
    | .error _ => []
  else if op / 16 = 7 then (List.range (fld (wd body 1) 43 32)).map fun k => fld (wd body 1) 63 44 + k
  else []

/-- Is a counter placed on another device (R266)? -/
def ctrRemote (s : State) (c : Ctx) (ctr : Nat) : Bool :=
  match ((c.job.map (·.ctrDevs)).getD []).find? fun x => x.1 == ctr with
  | some x => x.2 != devNum s
  | none => false

/-! ### Slabs -/

/-- The memory that holds slabs of a KIND for a group on a core: its base address and banks (R258). -/
def kindMem (kind core : Nat) : Nat × Nat :=
  match kind with
  | 0 => (spadBase core, 56)
  | 1 => (stgBase (core / 8), 48)
  | _ => (poolBase (core / 64), 128)

/-- May context n place a slab in the bank that holds an address (R258)? -/
def bankFree (s : State) (n : CtxId) (a : Nat) : Bool :=
  match ownOf s (placeOf s a) with
  | some o => o.valid && o.ctx == n && !o.disabled && !o.busy
  | none => false

/-- Do `len` bytes at `a` lie in free banks of a memory, clear of what is placed (R209, R258)? -/
def slabFits (s : State) (n : CtxId) (mem : Nat × Nat) (placed : List SlabBind) (len a : Nat) : Bool :=
  decide (a + len ≤ mem.1 + mem.2 * bankBytes) && placed.all (fun p => !overlap p.base (p.base + 64 * p.lines) a (a + len)) &&
  (List.range ((a + len - 1) / bankBytes + 1 - a / bankBytes)).all fun i => bankFree s n ((a / bankBytes + i) * bankBytes)

/-- Place one slab at the lowest line offset where it fits: a bank's start or the end of a placed slab (R258). -/
def placeSlab (s : State) (n : CtxId) (core : Nat) (placed : List SlabBind) (d : SlabDesc) : Option SlabBind :=
  let mem := kindMem d.kind core
  let top := mem.1 + mem.2 * bankBytes
  let ends := (placed.map fun p => p.base + 64 * p.lines).filter fun a => decide (mem.1 ≤ a) && decide (a < top)
  let cands := ((List.range mem.2).map fun b => mem.1 + b * bankBytes) ++ ends
  (minOver id (cands.filter (slabFits s n mem placed (64 * d.lines)))).map fun a =>
    { slab := d.slab, kind := d.kind, base := a, lines := d.lines, group := d.group }

/-- place_all: every slab of a group on one core, or none (R258). -/
def placeAll (s : State) (n : CtxId) (core : Nat) (placed : List SlabBind) (ds : List SlabDesc) : Option (List SlabBind) :=
  (sortBy (fun a b => decide (a.slab ≤ b.slab)) ds).foldl (fun acc d => acc.bind fun l =>
    (placeSlab s n core (placed ++ l) d).map fun b => l ++ [b]) (some [])

/-- Try the in-service cores from a position on (R258). -/
def tryCores (s : State) (n : CtxId) (placed : List SlabBind) (ds : List SlabDesc) : List Nat → Option (Nat × List SlabBind)
  | [] => none
  | c :: rest => match placeAll s n c placed ds with
    | some l => some (c, l)
    | none => tryCores s n placed ds rest

/-- In-service cores, ascending (R258). -/
def coresInService (s : State) : List Nat := (allCoreIds.filter fun c => !(s.core c).quarantined).map (·.val)

/-- A list rotated to start at a position. -/
def rotateTo {α : Type} (i : Nat) (l : List α) : List α := l.drop i ++ l.take i

/-- Bind groups in ascending order by the placement seed (R258). -/
def bindGroups (s : State) (n : CtxId) (seed : Nat) (slabs : List SlabDesc) (b : Binds) (groups : List Nat) : Option Binds :=
  let cores := coresInService s
  (sortBy (fun a b => decide (a ≤ b)) groups).foldl (fun acc g => acc.bind fun b =>
    if cores.isEmpty then none
    else
      let start := (seed % cores.length + g) % cores.length
      (tryCores s n (b.slabs ++ b.mirrors) (slabs.filter fun d => d.group == g) (rotateTo start cores)).map fun x =>
        { b with slabs := b.slabs ++ x.2, cores := b.cores ++ [(g, x.1)] }) (some b)

/-- Bind the mirror of one group: core (c + 64) mod 128, then the next cores outside region c / 8 (R259). -/
def bindMirror (s : State) (n : CtxId) (slabs : List SlabDesc) (b : Binds) (g c : Nat) : Option Binds :=
  let cands := ((List.range 128).map fun i => (c + 64 + i) % 128).filter fun x =>
    x / 8 != c / 8 && !(s.core (coreOf x)).quarantined
  (tryCores s n (b.slabs ++ b.mirrors) (slabs.filter fun d => d.group == g) cands).map fun x =>
    { b with mirrors := b.mirrors ++ x.2, mirrorCores := b.mirrorCores ++ [(g, x.1)] }

/-- The groups that get a mirror: all of a privileged context, else those of the update table (R259, R311). -/
def mirrorGroups (c : Ctx) (j : Job) (bound : List (Nat × Nat)) : List (Nat × Nat) :=
  bound.filter fun x => c.priv || j.updates.contains x.1

/-- Bind every mirror. -/
def bindMirrors (s : State) (n : CtxId) (slabs : List SlabDesc) (b : Binds) (gs : List (Nat × Nat)) : Option Binds :=
  gs.foldl (fun acc g => acc.bind fun b => bindMirror s n slabs b g.1 g.2) (some b)

/-! ### Buffers (R326) -/

/-- Is a run of granules free for a buffer: covered by the context's ranges of a tier, with no withheld granule and clear of
other buffers? A host window is no obstacle: R326 names none. -/
def runFree (s : State) (n : CtxId) (hbm : Bool) (taken : List (Nat × Nat)) (len a : Nat) : Bool :=
  let rs := (s.ctx n).ranges.filter fun r => decide (r.1 < ddrBase) == hbm
  decide (a % granule = 0) && coversTo rs (a + len) (rs.length + 1) a && rs.any (fun r => decide (r.1 ≤ a) && decide (a < r.1 + r.2)) &&
  s.scrub.withheld.all (fun g => !overlap (g * granule) ((g + 1) * granule) a (a + len)) &&
  taken.all fun t => !overlap t.1 (t.1 + t.2) a (a + len)

/-- The lowest free run of a tier. -/
def lowestRun (s : State) (n : CtxId) (hbm : Bool) (taken : List (Nat × Nat)) (len : Nat) : Option Nat :=
  let up (a : Nat) : Nat := ceilDiv a granule * granule
  let cands := (s.ctx n).ranges.map (·.1) ++ taken.map (fun t => up (t.1 + t.2)) ++ s.scrub.withheld.map fun g => (g + 1) * granule
  minOver id (cands.filter (runFree s n hbm taken len))

/-- The base of one buffer by its tier. -/
def placeBuf (s : State) (n : CtxId) (taken : List (Nat × Nat)) (d : BufDesc) : Option Nat :=
  let len := ceilDiv d.length granule * granule
  match d.tier with
  | 0 => lowestRun s n true taken len
  | 1 => lowestRun s n false taken len
  | _ => match lowestRun s n true taken len with
    | some a => some a
    | none => lowestRun s n false taken len

/-- Bind the buffers in ascending number: buffer, base and length. -/
def bindBufs (s : State) (n : CtxId) (ds : List BufDesc) : Option (List (Nat × Nat × Nat)) :=
  (sortBy (fun a b => decide (a.buf ≤ b.buf)) ds).foldl (fun acc d => acc.bind fun l =>
    let taken := l.map fun (x : Nat × Nat × Nat) => (x.2.1, ceilDiv x.2.2 granule * granule)
    (placeBuf s n taken d).map fun a => l ++ [(d.buf, a, d.length)]) (some [])

/-! ### Images -/

/-- Write the slab images and expert tables of one bound slab over zeros (R28). -/
def fillSlab (j : Job) (b : SlabBind) (s : State) : State :=
  let s := s.clearB b.base (64 * b.lines)
  (j.slabImages ++ j.xeTables).foldl (fun s i => if i.slab = b.slab then s.writeB (b.base + 64 * i.line) i.bytes else s) s

/-- Fill every slab of a list. -/
def fillSlabs (j : Job) (bs : List SlabBind) (s : State) : State := bs.foldl (fun s b => fillSlab j b s) s

/-- Write the buffer images of one bound buffer. R28 has the lines of a slab that no image covers load as zeros; a buffer's
other bytes keep what the memory holds. -/
def fillBuf (j : Job) (b : Nat × Nat × Nat) (s : State) : State :=
  j.bufImages.foldl (fun s i => if i.buf = b.1 then s.writeB (b.2.1 + i.offset) i.bytes else s) s

/-! ### Quarantine (R260, R472) -/

/-- Take away the scratchpad banks of a core that a context owns, by FORCE writes (R214, R260). -/
def takeBanks (n : CtxId) (core : CoreId) (s : State) : State :=
  (List.finRange 56).foldl (fun s b =>
    let o := (s.core core).own[b.val]
    if o.valid && o.ctx == n then (bankWrite true (.spad core b.val) 0 s).2 else s) s

/-- Rebind the groups of a context whose core, or whose mirror's core, is quarantined, and fill the rebound slabs (R260,
R484). A group that does not fit faults the context with CTX_RESOURCE. -/
def rebind (n : CtxId) (s : State) : State :=
  let c := s.ctx n
  match c.job with
  | none => s
  | some j =>
    let out (x : Nat) : Bool := (s.core (coreOf x)).quarantined
    let gone := (c.b.cores.filter fun x => out x.2).map (·.1)
    let mgone := (c.b.mirrorCores.filter fun x => out x.2 || gone.contains x.1).map (·.1)
    if gone.isEmpty && mgone.isEmpty then s
    else
      let s := (dedup (((c.b.cores ++ c.b.mirrorCores).filter fun x => out x.2).map (·.2))).foldl
        (fun s x => takeBanks n (coreOf x) s) s
      let b0 : Binds := { c.b with
        slabs := c.b.slabs.filter fun b => !gone.contains b.group
        mirrors := c.b.mirrors.filter fun b => !mgone.contains b.group
        cores := c.b.cores.filter fun x => !gone.contains x.1
        mirrorCores := c.b.mirrorCores.filter fun x => !mgone.contains x.1 }
      match bindGroups s n j.seed j.slabs b0 gone with
      | none => ctxFault n flCtxResource s
      | some b =>
        let again := b.cores.filter fun x => mgone.contains x.1
        let b := again.foldl (fun b x => (bindMirror s n j.slabs b x.1 x.2).getD b) b
        let core (t : ThreadRun) : ThreadRun := { t with core := (assocGet t.group b.cores).getD t.core }
        let s := s.modCtx n fun c => { c with b := b, threads := c.threads.map core }
        fillSlabs j ((b.slabs.filter fun x => gone.contains x.group) ++ b.mirrors.filter fun x => mgone.contains x.group) s

end Sys2Proof.Machine
end

