-- ==== Sys2Proof/Machine/Weights.lean ====
section
/-! DEFINITION. Shards, alternates and pins (R413 to R424), the seal, the digest scrub (R429, R430) and the end of a step
attempt (R272, R476). -/

namespace Sys2Proof.Machine

/-! ### Buffers and headers -/

/-- Base and length of buffer BUF`i` of a shard, where it is bound. -/
def shardBuf (c : Ctx) (d : ShardDesc) (i : Nat) : Option (Nat × Nat) := (d.bufs[i]?).bind fun b => assocGet b c.b.bufs

/-- The 16 words of the shard header at an address (R413). -/
def shardHdr (s : State) (a : Nat) : List Word := bytesToWords (s.readB a 128)

/-- LENGTH of a shard header. -/
def hdrLength (h : List Word) : Nat := fld (wd h 4) 63 24

/-- DIGEST of a shard header. -/
def hdrDigest (h : List Word) : List Word := (h.drop 8).take 4

/-- The payload of a shard buffer of a given LENGTH. -/
def shardPayload (s : State) (a len : Nat) : List Byte := s.readB (a + 128) len

/-- DIGEST of a payload (R414). -/
def payloadDigest (bs : List Byte) : List Word := bytesToWords (shake256 32 bs)

/-- The shard Tint of a payload (R442). -/
def shardTint (c : Ctx) (shard : Nat) (bs : List Byte) : BitVec 128 :=
  let h := tintKey (jobKey c) c.v.t 0xF0000000
  (chunks 0x100000 bs).zipIdx.foldl (fun a (p, j) => a + tileDigest h (tintCoord shard j 0x0F p.length) p) 0

/-- The shard descriptor of a shard. -/
def shardDesc (c : Ctx) (shard : Nat) : Option ShardDesc := ((c.job.map (·.shards)).getD []).find? fun d => d.shard == shard

/-- Change the state of a shard. -/
def modShard (n : CtxId) (shard : Nat) (f : ShardState → ShardState) (s : State) : State :=
  s.modCtx n fun c => { c with w := { c.w with shards := modFirst (fun x => x.shard == shard) f c.w.shards } }

/-- The buffers of a shard that are current or that a pin or the checkpoint hold keeps (R421, R456). -/
def keptBufs (s : State) (n : CtxId) (x : ShardState) : List Nat :=
  x.cur :: ((s.ctx n).w.pins.map fun p => curAt x p.gen) ++
    (if s.sep.held[n.val] then [curAt x s.sep.heldGen[n.val].toNat] else [])

/-- The alternate of a shard: its lowest-numbered buffer that nothing keeps (R421). -/
def chooseAlt (s : State) (n : CtxId) (x : ShardState) : Option Nat :=
  match shardDesc (s.ctx n) x.shard with
  | some d => if d.frozen then none else (List.range d.nbuf).find? fun i => !(keptBufs s n x).contains i
  | none => none

/-- A digest scrub pass abandons the buffers of a context that have become alternates, without a result (R429, R431). -/
def dropScrubs (n : CtxId) (s : State) : State :=
  match s.wscrub.scope with
  | none => s
  | some l =>
    let gone (x : CtxId × Nat × Nat) : Bool := x.1 == n && (match shardOf (s.ctx n) x.2.1 with
      | some y => y.alt == some x.2.2
      | none => false)
    { s with wscrub := { s.wscrub with
      scope := some (l.filter fun x => !gone x), abandoned := satAdd s.wscrub.abandoned (l.filter gone).length } }

/-- Choose the alternate of every shard at a step start (R421). -/
def chooseAlts (n : CtxId) (s : State) : State :=
  dropScrubs n (s.modCtx n fun c => { c with w := { c.w with shards := c.w.shards.map fun x => { x with alt := chooseAlt s n x } } })

/-- Give an alternate to every shard that has none and now can have one (R421). -/
def fillAlts (n : CtxId) (s : State) : State :=
  let fill (x : ShardState) : ShardState := match x.alt with
    | some _ => x
    | none => { x with alt := chooseAlt s n x }
  dropScrubs n (s.modCtx n fun c => { c with w := { c.w with shards := c.w.shards.map fill } })

/-! ### Pins -/

/-- Release the pins that satisfy a test, with their entries in the PINS section (R418, R446). -/
def freePins (n : CtxId) (p : PinState → Bool) (s : State) : State :=
  let gone := (s.ctx n).w.pins.filter p
  if gone.isEmpty then s
  else
    s.modCtx n fun c => { c with
      w := { c.w with pins := c.w.pins.filter fun x => !p x }
      record := c.record.map fun r => { r with pins := r.pins ++ gone.map fun x => (x.pin, false, x.gen) } }

/-- Give the shards that wait for a buffer their alternates, after every release of a cycle (R421). -/
def afterReleases (n : CtxId) (old : List PinState) (s : State) : State :=
  if (s.ctx n).w.pins == old then s else fillAlts n s

/-- Release pins; what they kept may serve as an alternate (R418, R421). -/
def releasePins (n : CtxId) (p : PinState → Bool) (s : State) : State := afterReleases n (s.ctx n).w.pins (freePins n p s)

/-- The pin descriptor of a held pin. -/
def pinDesc (c : Ctx) (pin : Nat) : Option PinDesc := ((c.job.map (·.pins)).getD []).find? fun d => d.pin == pin

/-! ### The end of an attempt (R272, R476) -/

/-- Is every comparison and verdict of the attempt decided (R476)? -/
def checksDecided (c : Ctx) : Bool :=
  let done (x : Option Check) : Bool := match x with
    | some k => k.decided
    | none => true
  c.runs.all fun r => done r.check && done r.mirror && done r.final

/-- Is every seal of the attempt complete (R424)? -/
def sealsDone (c : Ctx) : Bool := c.w.shards.all fun x => !x.renewed || x.isSealed

/-- Has every thread issued its last command and every issued command completed (R272)? -/
def stepEnded (c : Ctx) : Bool :=
  c.v.live && (c.threads.all fun t => match threadDesc c t.thread with
    | some d => decide (d.ncmd ≤ t.next)
    | none => true) && c.runs.isEmpty

/-- Note that the attempt has ended and in which frame R476's conditions first all hold. Until the verdict horizon has passed, a
shard that is renewed again takes the conditions back (R424). -/
def noteEnd (n : CtxId) (s : State) : State :=
  let c := s.ctx n
  let s := if stepEnded c && !c.v.ended then
      s.modCtx n fun c => { c with
        v := { c.v with ended := true }
        record := c.record.map (endStep s c) }
    else s
  let c := s.ctx n
  if c.v.ended && c.v.live && c.v.endFrame.isNone && checksDecided c && sealsDone c && c.v.condemnAt.isNone then
    s.modCtx n fun c => { c with v := { c.v with endFrame := some (frameNow s) } }
  else if c.v.endFrame.isSome && !c.v.ready && !sealsDone c then
    s.modCtx n fun c => { c with v := { c.v with endFrame := none } }
  else s

/-! ### The seal (R422, R423) -/

/-- Has every DMA channel of a context settled: every write that left its engine has arrived (R245, R422)? -/
def chansSettled (s : State) (n : CtxId) : Bool :=
  allCoreIds.all fun core => (chansOf (s.core core) n).all fun i =>
    ((s.core core).dma[i.val]).pendingWins.all fun x => (s.ctx n).x.acked.contains x

/-- Is a seal of a shard due: a signal has brought its SEAL_CTR to 0, or the step has ended and the channels have settled (R422)? -/
def sealDue (s : State) (n : CtxId) (d : ShardDesc) : Bool :=
  let c := s.ctx n
  (c.v.ended && chansSettled s n) || (d.sealCtr != 0 && match c.ctrs.find? fun k => k.ctr == d.sealCtr with
    | some k => k.value == 0 && !k.hist.isEmpty
    | none => false)

/-- A check-mode seal that fails (R423). -/
def sealFails (n : CtxId) (shard : Nat) (again : Bool) (s : State) : State :=
  let c := s.ctx n
  let wrote := ((c.job.map (·.wins)).getD []).filter fun w => c.x.wrote.contains (w.win, shard)
  let s := modShard n shard (fun x => { x with isSealed := true, failed := true }) s
  let s := raiseEvent evWeightDigest (some n) ((put shard 44 ||| put wrote.length 0) :: wrote.map fun w => put w.src 0) s
  let s := raiseRust { ctxRust caWeightDigest n s with detail := leBytes 8 shard } s
  if again then ctxFault n flWeightDigest s else condemn n caWeightDigest none s

/-- SEAL (R422): the seal of a renewed shard, in produce or check mode. -/
def sealShard (n : CtxId) (shard : Nat) (s : State) : State :=
  let c := s.ctx n
  match shardDesc c shard, shardOf c shard with
  | some d, some x =>
    if !(x.renewed && !x.isSealed && (c.state == 2 || c.state == 3) && c.v.live && sealDue s n d) then s
    else
      match shardBuf c d x.cur, x.alt.bind (shardBuf c d) with
      | some cb, some nb =>
        let ch := shardHdr s cb.1
        let nh := shardHdr s nb.1
        let note (ver : Word) (dig : List Word) (s : State) : State :=
          noteEnd n ((modShard n shard (fun x => { x with isSealed := true }) s).modCtx n fun c => { c with
            record := c.record.map fun r => { r with shards := r.shards ++ [(shard, ver, dig)] } })
        if x.hdrWritten then
          let bs := shardPayload s nb.1 (hdrLength nh)
          let t := shardTint c shard bs
          let old := BitVec.ofNat 128 ((wd nh 1).toNat + (wd nh 2).toNat <<< 64)
          let good := hdrLength nh == hdrLength ch && payloadDigest bs == hdrDigest nh && fld (wd nh 3) 63 44 == shard &&
            decide ((wd ch 0).toNat < (wd nh 0).toNat) && (old == 0 || old == t)
          if good then
            let s := if old = 0 then s.writeB (nb.1 + 8) (leBytes 16 t.toNat) else s
            note (wd nh 0) (hdrDigest nh) s
          else sealFails n shard x.failedBefore s
        else
          let len := hdrLength ch
          let bs := shardPayload s nb.1 len
          let t := shardTint c shard bs
          let ver := wd ch 0 + 1
          let s := s.writeB nb.1 (leBytes 8 ver.toNat ++ leBytes 16 t.toNat ++ wordsToBytes [wd ch 3, wd ch 4])
          let s := s.writeB (nb.1 + 64) (wordsToBytes (payloadDigest bs))
          note ver (payloadDigest bs) s
      | _, _ => s
  | _, _ => s

/-- SEAL (R422, R423). -/
def execSeal (n : CtxId) (shard : Nat) (s : State) : Host.Outcome State Fault Refusal := ok (sealShard n shard s)

/-! ### The digest scrub (R429, R430) -/

/-- Is a digest scrub pass due (R429, R431)? -/
def digestScrubDue (s : State) : Bool :=
  s.wscrub.en && (allCtxIds.any (fun n => decide (s.wscrub.steps.toNat ≤ (s.ctx n).w.scrubStep)) ||
    decide (s.wscrub.last + s.wscrub.minutes.toNat * 60000000000 ≤ nsNow s))

/-- The buffers that a pass which starts now covers: of every shard the current one and each that a pin keeps (R429). -/
def scrubScope (s : State) : List (CtxId × Nat × Nat) :=
  allCtxIds.flatMap fun n =>
    let c := s.ctx n
    if c.state = 0 then []
    else c.w.shards.flatMap fun x => (dedup (x.cur :: c.w.pins.map fun p => curAt x p.gen)).map fun i => (n, x.shard, i)

/-- Start a digest scrub pass that is due (R429). -/
def startScrub (s : State) : State :=
  if s.wscrub.scope.isSome || !digestScrubDue s then s
  else
    let s := { s with wscrub := { s.wscrub with scope := some (scrubScope s), last := nsNow s } }
    s.allCtxs fun c => { c with w := { c.w with scrubStep := 0 } }

/-- Does a seal wait for a digest unit? -/
def sealWaits (s : State) : Bool :=
  allCtxIds.any fun n =>
    let c := s.ctx n
    (c.state == 2 || c.state == 3) && c.v.live && c.w.shards.any fun x => x.renewed && !x.isSealed && (match shardDesc c x.shard with
      | some d => sealDue s n d
      | none => false)

/-- Check one buffer of a shard in a scrub pass (R429, R430). -/
def scrubBuf (n : CtxId) (d : ShardDesc) (s : State) (i : Nat) : State :=
  match shardBuf (s.ctx n) d i with
  | none => s
  | some (a, _) =>
    let h := shardHdr s a
    if payloadDigest (shardPayload s a (hdrLength h)) == hdrDigest h then s
    else
      let s := { s with wscrub := { s.wscrub with mismatch := satAdd s.wscrub.mismatch 1 } }
      let s := raiseEvent evWeightScrub (some n) [put d.shard 44 ||| put i 0] (haltMark n s)
      raiseRust { ctxRust ruWeightScrub n s with detail := leBytes 8 (d.shard * 4 + i) } s

/-- DIGEST_SCRUB_PASS (R429 to R431): a pass that has started, or that is due, is carried out and ends. It waits while a seal waits
for a digest unit. A buffer that became an alternate since the start is no longer part of it. `upsets` are bytes of memory that
changed since they were written. -/
def execDigestScrubPass (upsets : List (Nat × Byte)) (s : State) : Host.Outcome State Fault Refusal :=
  let s := startScrub (upsets.foldl (fun s u => s.writeB u.1 [((s.readB u.1 1).getD 0 0) ^^^ u.2]) s)
  match s.wscrub.scope with
  | none => ok s
  | some l =>
    if sealWaits s then ok s
    else
      let s := l.foldl (fun s x => match shardDesc (s.ctx x.1) x.2.1 with
        | some d => scrubBuf x.1 d s x.2.2
        | none => s) s
      ok { s with wscrub := { s.wscrub with passes := satAdd s.wscrub.passes 1, scope := none } }

end Sys2Proof.Machine
end

