-- ==== Sys2Proof/Machine/Sepia.lean ====
section
/-! DEFINITION. The Sepia record: its CONFIG, PATTERNS and COUNTERS sections, its bytes (R445 to R449), the anchor (R450,
R469), the ring (R451, R452), the closing of a record (R41, R444), and the verdict's common part (R471, R489). -/

namespace Sys2Proof.Machine

/-! ### Counts (R449) -/

/-- Sum words field by field, each field saturating at its width; a field is (hi, lo). -/
def sumFields (fields : List (Nat × Nat)) (ws : List Word) : Word :=
  fields.foldl (fun a (f : Nat × Nat) =>
    let top := 2 ^ (f.1 + 1 - f.2) - 1
    a ||| put (min top (ws.foldl (fun k w => k + fld w f.1 f.2) 0)) f.2) 0

/-- The change of a word field by field. -/
def diffFields (fields : List (Nat × Nat)) (now old : Word) : Word :=
  fields.foldl (fun a (f : Nat × Nat) => a ||| put (fld now f.1 f.2 - fld old f.1 f.2) f.2) 0

/-- Fields of 32, 16 and 16 bits. -/
def f3216 : List (Nat × Nat) := [(63, 32), (31, 16), (15, 0)]

/-- Four fields of 16 bits. -/
def f16 : List (Nat × Nat) := [(63, 48), (47, 32), (31, 16), (15, 0)]

/-- Two fields of 32 bits. -/
def f32 : List (Nat × Nat) := [(63, 32), (31, 0)]

/-- Sum of a register over the cores. -/
def overCores (s : State) (fields : List (Nat × Nat)) (r : CoreId → Reg) : Word :=
  sumFields fields (allCoreIds.map fun c => regGet s (r c))

/-- Words 0 to 6 of COUNTERS: the step counters of a context (R41, R85, R151, R194, R224, R412). -/
def stepCounters (s : State) (n : CtxId) : List Word :=
  [regGet s (.tdcA n), regGet s (.tdcB n), overCores s f3216 (.meGrid · n), overCores s f3216 (.eeExc · n),
   overCores s f3216 (.reCnt · n), overCores s f32 (.coreStall · n), sumFields f32 [regGet s (.xeCnt 0 n), regGet s (.xeCnt 1 n)]]

/-- Clear the step counters of a context. -/
def clearStepCounters (n : CtxId) (s : State) : State :=
  let s := s.modCtx n fun c => { c with scatter := 0, overflow := 0, cntRead := 0 }
  let s := s.allCores fun k => { k with
    grid := upd k.grid n fun _ => {}, exc := upd k.exc n fun _ => {}, reCnt := upd k.reCnt n fun _ => {}
    stall := upd k.stall n fun _ => {} }
  s.allDies fun d => { d with xe := upd d.xe n fun _ => {} }

/-- The counts since boot whose change a record holds: stretch A and B, FAB_ERR and FAB_FEC of each port, CHANGES of both
dies, GUARD_INTERVALS and droop events. -/
def bootCounts (s : State) : List Word :=
  [regGet s .stretchA, regGet s .stretchB] ++ (allPortIds.flatMap fun p => [regGet s (.fabErr p), regGet s (.fabFec p)]) ++
  [put (s.dies[0].changes.toNat + s.dies[1].changes.toNat) 0, put s.pwr.guardIntervals.toNat 0, put s.pwr.droopEvents.toNat 0]

/-- The COUNTERS body (R449). -/
def countersBody (s : State) (n : CtxId) (r : OpenRec) : List Word :=
  let now := bootCounts s
  let d (i : Nat) : Word := wd now i - wd r.base i
  stepCounters s n ++
  [diffFields f16 (wd now 0) (wd r.base 0), diffFields [(63, 48), (47, 16), (15, 0)] (wd now 1) (wd r.base 1)] ++
  ((List.range 16).map fun i => if i % 2 = 0 then diffFields f16 (wd now (2 + i)) (wd r.base (2 + i)) else d (2 + i)) ++
  [put (r.refresh.getD 0 0) 32 ||| put (r.refresh.getD 1 0) 0,
   put r.frames2x 32 ||| put (d 18).toNat 0,
   s.pwr.uj[n.val] - BitVec.ofNat 64 r.uj,
   put (d 19).toNat 32 ||| put (d 20).toNat 0,
   putB r.hotSeen 63]

/-- The CONFIG body (R448). -/
def configBody (s : State) (n : CtxId) (j : Job) : List Word :=
  j.progDig ++ j.placedDig ++ j.keyDig ++ j.declDig ++ j.xeDig ++ s.boot.meas.toList ++
  [regGet s (.ctxMode n), regGet s .contractRev, put j.seed 32 ||| put s.ind.cadNow.toNat 4, put s.pwr.limit.toNat 48]

/-- The PATTERNS body: CORE_IPAT_e_h of every core in order of core, e and h. -/
def patternsBody (s : State) : List Word := s.cores.toList.flatMap fun k => k.ipat.toList

/-! ### The record's bytes (R445, R446) -/

/-- A section: its word, its body, padded to a line. -/
def sectionBytes (type : Nat) (body : List Byte) : List Byte :=
  padMul 64 (leBytes 8 (put type 56 ||| put body.length 0).toNat ++ body)

/-- The words of a SHARDS or CHECKPOINT entry. -/
def shardEntry (x : Nat × Word × List Word) : List Word := [put x.1 44, x.2.1] ++ x.2.2

/-- The sections before ANCHOR, in ascending TYPE. -/
def recordSects (r : OpenRec) : List (Nat × List Byte) :=
  let d128 (d : BitVec 128) : List Word := [BitVec.ofNat 64 (d.toNat % 2 ^ 64), BitVec.ofNat 64 (d.toNat >>> 64)]
  let opt (t : Nat) (ws : List Word) : List (Nat × List Byte) := if ws.isEmpty then [] else [(t, wordsToBytes ws)]
  let accts := sortBy (fun a b => decide (a.1 ≤ b.1)) r.accounts
  [(0x01, r.tag), (0x02, wordsToBytes r.config), (0x03, wordsToBytes r.patterns),
   (0x04, wordsToBytes r.counters)] ++
  opt 0x05 (accts.flatMap fun (a : Nat × Nat × BitVec 128) => [put a.1 32 ||| put (a.2.1 % 2 ^ 32) 0, 0] ++ d128 a.2.2) ++
  opt 0x06 (r.norms.flatMap fun x => [put x.id 32 ||| putB x.nan 31 ||| putB x.inf 30, put x.sumsq 32 ||| put x.norm 0, put x.count 0]) ++
  opt 0x07 (r.verdicts.flatMap verdictWords) ++
  opt 0x08 (r.shards.flatMap shardEntry) ++
  opt 0x09 (r.pins.flatMap fun (p : Nat × Bool × Nat) => [put p.1 54 ||| putB p.2.1 53, put p.2.2 0]) ++
  opt 0x0A (r.artefacts.flatMap fun (a : List Word × Word) => a.1 ++ [a.2, 0]) ++
  opt 0x0B (r.fine.flatMap fun e => [put e.thread 32 ||| put e.cmd 0, put e.account 32 ||| put e.role 24] ++ d128 e.digest) ++
  opt 0x0C (r.checkpoint.flatMap shardEntry)

/-- A record's bytes from the header to the end of the section before ANCHOR, with PREV_ANCHOR at 0. -/
def recordBytes (s : State) (n : CtxId) (r : OpenRec) : List Byte :=
  let c := s.ctx n
  let sects := recordSects r
  let body := sects.flatMap fun (x : Nat × List Byte) => sectionBytes x.1 x.2
  let lines := 2 + body.length / 64 + 1
  let w0 := put 1 56 ||| put n.val 53 ||| put r.status 50 ||| putB r.replay 49 ||| putB c.loose 48 ||| put r.stream 47 |||
    putB r.miss 46 ||| put (min r.attempt 63) 40 ||| put (devNum s % 32768) 25 ||| putB r.fineTrunc 24 ||| put lines 0
  let hdr := [w0, put r.t 0, put r.gen 32 ||| put (sects.length + 1) 16, put r.startNs 0, put (r.endNs.getD 0) 0,
    put r.facOffset 0, put r.startFrame 0, put r.frames 32, 0, 0, 0, 0, 0, 0, 0, 0]
  wordsToBytes hdr ++ body

/-- A record's bytes with PREV_ANCHOR in place (R445). -/
def withPrev (prev : List Word) (bytes : List Byte) : List Byte := bytes.take 64 ++ wordsToBytes prev ++ bytes.drop 96

/-- The anchor of a record (R450). -/
def anchorOf (prev : List Word) (bytes : List Byte) : BitVec 256 :=
  BitVec.ofNat 256 (leNat (shake256 32 (wordsToBytes prev ++ withPrev prev bytes)))

/-- The four words of an anchor. -/
def anchorWords (a : BitVec 256) : List Word := (List.range 4).map fun i => BitVec.ofNat 64 (a.toNat >>> (64 * i))

/-! ### The ring (R451, R452) -/

/-- Bytes of the ring. -/
def ringSize (s : State) : Nat := s.sep.size.toNat * 0x40000000

/-- Has the ring room for a record? -/
def ringFits (s : State) (len : Nat) : Bool := decide (s.sep.head.toNat - s.sep.floor.toNat + len ≤ ringSize s)

/-- Drop the oldest records until a record fits: the dropped entries' number, and the rest. -/
def dropOldest (size head len : Nat) : List (Nat × Nat) → Nat × List (Nat × Nat)
  | [] => (0, [])
  | e :: rest =>
    if head - e.1 + len ≤ size then (0, e :: rest)
    else
      let x := dropOldest size head len rest
      (x.1 + 1, x.2)

/-- Make room with STALL = 0: FLOOR rises over the oldest whole records (R452). -/
def makeRoom (len : Nat) (s : State) : State :=
  if ringFits s len then s
  else
    let x := dropOldest (ringSize s) s.sep.head.toNat len s.sep.index
    let floor : Word := match x.2.head? with
      | some e => BitVec.ofNat 64 e.1
      | none => s.sep.head
    { s with sep := { s.sep with overwritten := satAdd s.sep.overwritten x.1, index := x.2, floor := floor } }

/-- The address of a byte of the ring, which skips the granules that were withheld at boot (R325, R451). -/
def ringAddr (base : Nat) (holes : List Nat) (x : Nat) : Nat :=
  holes.foldl (fun g h => if h ≤ g then g + 1 else g) (base / granule + x / granule) * granule + x % granule

/-- A run of ring bytes cut at granules, with the wrap at the ring's top; the first argument bounds the pieces. -/
def ringSpans (size : Nat) : Nat → Nat → Nat → List (Nat × Nat)
  | 0, _, _ => []
  | f + 1, x, len =>
    if len = 0 then []
    else
      let k := min len (granule - x % granule)
      (x, k) :: ringSpans size f ((x + k) % size) (len - k)

/-- Write bytes at a place of the ring. -/
def ringPut (base size : Nat) (x : Nat) (bytes : List Byte) (s : State) : State :=
  ((ringSpans size (bytes.length / granule + 2) (x % size) bytes.length).foldl (fun (acc : State × List Byte) (p : Nat × Nat) =>
    (acc.1.writeB (ringAddr base s.sep.holes p.1) (acc.2.take p.2), acc.2.drop p.2)) (s, bytes)).1

/-- Read bytes from a place of the ring. -/
def ringGet (s : State) (base size x len : Nat) : List Byte :=
  (ringSpans size (len / granule + 2) (x % size) len).flatMap fun (p : Nat × Nat) => s.readB (ringAddr base s.sep.holes p.1) p.2

/-- Write a whole record at HEAD (R451). -/
def ringWrite (bytes : List Byte) (s : State) : State :=
  match s.sep.base with
  | none => s
  | some base =>
    let s := ringPut base (ringSize s) s.sep.head.toNat bytes s
    { s with sep := { s.sep with
      head := s.sep.head + BitVec.ofNat 64 bytes.length, records := satAdd s.sep.records 1
      index := s.sep.index ++ [(s.sep.head.toNat, bytes.length / 64)] } }

/-! ### Closed records on their way to the ring (R450, R452, R469) -/

/-- The oldest closed record of a context whose anchor is not fixed. -/
def Ctx.unanchored (c : Ctx) : Option ShutRec := c.shut.find? fun r => !r.whole

/-- PREV_ANCHOR of a closed record whose turn has come. -/
def ShutRec.prevOf (r : ShutRec) (c : Ctx) : List Word := r.prev.getD c.prevAnchor

/-- The anchor that a computation gives of a closed record, with what an upset flips in it. -/
def ShutRec.dig (r : ShutRec) (c : Ctx) (err : BitVec 256) : BitVec 256 := anchorOf (r.prevOf c) r.bytes ^^^ err

/-- The record whole: with its PREV_ANCHOR and its ANCHOR section. -/
def ShutRec.close (r : ShutRec) (c : Ctx) (a : BitVec 256) : ShutRec :=
  { r with bytes := withPrev (r.prevOf c) r.bytes ++ sectionBytes 0x0F (wordsToBytes (anchorWords a)), whole := true }

/-- Fix the anchor of the oldest record that has none: the record becomes whole, and the anchor is PREV_ANCHOR of the next one of
the same load. -/
def fixAnchor (n : CtxId) (a : BitVec 256) (s : State) : State :=
  s.modCtx n fun c =>
    let old := (c.unanchored.bind (·.prev)).isSome
    let shut := modFirst (fun r => !r.whole) (fun r => r.close c a) c.shut
    if old then { c with shut := modFirst (fun r => !r.whole) (fun r => { r with prev := r.prev.map fun _ => anchorWords a }) shut }
    else { c with prevAnchor := anchorWords a, shut := shut }

/-- Fix the anchors on which both digest units agree, oldest record first; the first argument bounds the records. -/
def fixAnchors (n : CtxId) : Nat → State → State
  | 0, s => s
  | k + 1, s => match (s.ctx n).unanchored with
    | some r => if r.err0 = r.err1 then fixAnchors n k (fixAnchor n (r.dig (s.ctx n) r.err0) s) else s
    | none => s

/-- Write the context's whole records, oldest first, as far as the ring takes them: with STALL set a record waits until FLOOR
leaves room (R452). The first argument bounds the records. -/
def writeShut (n : CtxId) : Nat → State → State
  | 0, s => s
  | k + 1, s => match (s.ctx n).shut with
    | r :: rest =>
      if r.whole && (!s.sep.stall || ringFits s r.bytes.length) then
        writeShut n k (ringWrite r.bytes (makeRoom r.bytes.length (s.modCtx n fun c => { c with shut := rest })))
      else s
    | [] => s

/-- Bring the context's closed records on: fix the anchors that can be fixed and write the whole records. -/
def settleShut (n : CtxId) (s : State) : State :=
  let k := (s.ctx n).shut.length
  writeShut n k (fixAnchors n k s)

/-- Publish the records that waited for room, in ascending context order (R452). -/
def publishWaiting (s : State) : State := allCtxIds.foldl (fun s n => settleShut n s) s

/-- The bytes of a closed record's body and ANCHOR together. -/
def ShutRec.len (r : ShutRec) : Nat := if r.whole then r.bytes.length else r.bytes.length + 64

/-- Do the context's closed records wait for room in the ring, or would the open one at its closing, with STALL set (R452)? -/
def closeStalls (s : State) (n : CtxId) : Bool :=
  let c := s.ctx n
  let open_ := match c.record with
    | some r => (recordBytes s n { r with counters := countersBody s n r }).length + 64
    | none => 0
  s.sep.stall && !ringFits s ((c.shut.map ShutRec.len).foldl (· + ·) open_)

/-- The two upsets of an anchor that count: a suspect digest unit leaves its work to the other die's (R471). -/
def unitErrs (s : State) (err0 err1 : BitVec 256) : BitVec 256 × BitVec 256 :=
  if s.dies[0].digestSuspect then (err1, err1) else if s.dies[1].digestSuspect then (err0, err0) else (err0, err1)

/-- A nonzero TDC field of a strict context is a device failure (R47). -/
def checkTdc (n : CtxId) (s : State) : State :=
  let c := s.ctx n
  if !c.loose && (c.scatter != 0 || c.overflow != 0 || c.cntRead != 0) then raiseRust (ctxRust ruTdcStrict n s) s else s

/-- Count an anchor on which the two digest units differ (R466, R474). -/
def countAnchor (n : CtxId) (e : BitVec 256 × BitVec 256) (s : State) : State :=
  if e.1 = e.2 then s
  else s.modDie 0 fun d => { d with shd := upd d.shd n fun x => { x with mismatches := satAdd x.mismatches 1 } }

/-- Close the open record (R444): the step counters are copied into it (a step start also clears them, R41), both dies'
digest units compute the anchor, and the record is written when they agree (R450, R466). The two values are what an upset of a
digest unit flips. -/
def closeRecord (n : CtxId) (err0 err1 : BitVec 256) (s : State) : State :=
  match (s.ctx n).record with
  | none => s
  | some r =>
    let s := checkTdc n s
    let r := endStep s (s.ctx n) r
    let bytes := recordBytes s n { r with counters := countersBody s n r }
    let e := unitErrs s err0 err1
    let s := countAnchor n e s
    settleShut n (s.modCtx n fun c => { c with
      record := none, shut := c.shut ++ [{ bytes, err0 := e.1, err1 := e.2 }] ++ c.unstarted, unstarted := [] })

/-! ### Verdicts (R471, R489) -/

/-- The part of every verdict but "agree": its VERDICTS entry, Rust record and event (R471, R489, R490). -/
def reportVerdict (n : CtxId) (e : VerdictEnt) (sig : Option CmdSig) (s : State) : State :=
  let core := if e.outcome = 1 then some e.checker else if e.outcome = 2 then some e.primary else none
  let s := addVerdict n e s
  let s := raiseRust { ctxRust e.cause n s with verdict := some e, sig := sig, core := core.filter (· < 128) } s
  raiseEvent evShadeVerdict (some n) (verdictWords e) s

/-- Decide the oldest anchor on which the digest units differ from a third computation (R469, R471), whose upset flips what
`third` says; none where there is no third. An unresolved record is not written. -/
def decideAnchor (n : CtxId) (third : Option (BitVec 256)) (s : State) : State :=
  let c := s.ctx n
  match c.unanchored with
  | none => s
  | some r =>
    let a0 := r.dig c r.err0
    let a1 := r.dig c r.err1
    let a := third.map (r.dig c)
    let low (a : BitVec 256) : BitVec 128 := a.truncate 128
    let ent (o : Nat) : VerdictEnt :=
      { cause := caAnchor, outcome := o, digP := low a0, digC := low a1, digT := (a.map low).getD 0, units := if a.isSome then 3 else 2 }
    settleShut n <|
      if a = some a0 then
        fixAnchor n a0 (reportVerdict n (ent 1) none (s.modDie 1 fun d => { d with digestSuspect := true }))
      else if a = some a1 then
        fixAnchor n a1 (reportVerdict n (ent 2) none (s.modDie 0 fun d => { d with digestSuspect := true }))
      else
        let s := s.modCtx n fun c => { c with shut := dropFirst (fun r => !r.whole) c.shut }
        ctxFault n flAnchorUnresolved (reportVerdict n (ent 3) none s)

/-- ANCHOR_THIRD (R469): the Renine controller's own computation, with what an upset of it flips. -/
def execAnchorThird (n : CtxId) (err : BitVec 256) (s : State) : Host.Outcome State Fault Refusal :=
  ok (decideAnchor n (some err) s)

end Sys2Proof.Machine
end

