-- ==== Sys2Proof/Machine/Attempt.lean ====
section
/-! DEFINITION. The life of a step attempt: its start (R267, R270, R283, R421, R444, R455), the ramp governor (R285 to
R287), the deadline (R282), abandoning and condemnation (R475, R482 to R485, R488), the verdict horizon (R476), the commit
(R424, R480) and the instant of a resume (R254). -/

namespace Sys2Proof.Machine

/-- Change the attempt state of a context. -/
def modV (n : CtxId) (f : AttemptSt → AttemptSt) (s : State) : State := s.modCtx n fun c => { c with v := f c.v }

/-! ### The ramp governor (R285 to R287) -/

/-- A trigger of the ramp governor: T0 is the next multiple of 64 ns; a running ramp is joined (R286). -/
def rampTrigger (n : CtxId) (s : State) : State :=
  s.modCtx n fun c =>
    if c.ramp.t0.isSome && c.ramp.released.toList.any (! ·) then c
    else { c with ramp := { c.ramp with
      t0 := some (ceilDiv (nsNow s) 64 * 64), released := Vector.replicate 8 false, fullRate := Vector.replicate 8 false } }

/-- WAVE_RELEASE (R286). -/
def execWaveRelease (n : CtxId) (w : Fin 8) (s : State) : Host.Outcome State Fault Refusal :=
  match (s.ctx n).ramp.t0 with
  | some t0 =>
    if t0 + 64 * w.val ≤ nsNow s then
      ok (s.modCtx n fun c => { c with ramp := { c.ramp with released := upd c.ramp.released w fun _ => true } })
    else ok s
  | none => ok s

/-- Frequency of the island clock of a cadence level in MHz (R501). -/
def clockMHz (level : Nat) : Nat := [940, 846, 752, 564, 376].getD level 376

/-- FULL_RATE (R287): 256 engine cycles after the wave's release the core's engines work in every cycle. -/
def execFullRate (n : CtxId) (w : Fin 8) (s : State) : Host.Outcome State Fault Refusal :=
  match (s.ctx n).ramp.t0 with
  | some t0 =>
    if (s.ctx n).ramp.released[w.val] && decide (t0 + 64 * w.val + ceilDiv 256000 (clockMHz s.ind.cadNow.toNat) ≤ nsNow s) then
      ok (s.modCtx n fun c => { c with ramp := { c.ramp with fullRate := upd c.ramp.fullRate w fun _ => true } })
    else ok s
  | none => ok s

/-! ### Threads (R270) -/

/-- RESIDENT of a context on a core's die. -/
def residentLimit (s : State) (n : CtxId) (core : Nat) : Nat := ((s.die (dieOf (coreOf core))).lim[n.val]).resident.toNat

/-- Make pending threads resident, lowest number first, while their cores have room (R270). -/
def fillResident (n : CtxId) (s : State) : State :=
  let step (acc : List ThreadRun) (t : ThreadRun) : List ThreadRun :=
    let used := (((s.ctx n).threads.filter fun x => x.resident && x.core == t.core) ++
      (acc.filter fun x => x.resident && !((s.ctx n).threads.any fun y => y.thread == x.thread && y.resident) && x.core == t.core)).length
    acc ++ [if !t.resident && t.next == 0 && decide (used < residentLimit s n t.core) then { t with resident := true } else t]
  s.modCtx n fun c => { c with threads := c.threads.foldl step [] }

/-- The threads of a stream at command 0, in ascending number. -/
def freshThreads (c : Ctx) (stream : Nat) : List ThreadRun :=
  (sortBy (fun a b => decide (a.thread ≤ b.thread)) ((boundThreads c).filter fun d => d.stream == stream)).map fun d =>
    { thread := d.thread, group := d.group, core := (groupCore c d.group).getD 0, next := 0 }

/-- The counters placed on this device, at INIT (R266, R267). -/
def freshCtrs (s : State) (c : Ctx) : List CtrState :=
  match c.job with
  | none => []
  | some j => (j.ctrs.filter fun k => !ctrRemote s c k.ctr).map fun k => { ctr := k.ctr, value := k.init }

/-! ### STEP_START -/

/-- The stream of the step that starts, and HOLD_LEFT after the choice (R283, R284): a replay keeps its own. -/
def chooseStream (d : DeadlineSt) (replay : Bool) : DeadlineSt :=
  if replay then d
  else if d.fbNext then { d with stream := 1, holdLeft := d.fbHoldA, fbNext := false }
  else if d.holdLeft ≠ 0 then { d with stream := 1, holdLeft := d.holdLeft - 1 }
  else { d with stream := 0 }

/-- Deadline values that a step start puts in force (R279). -/
def applyDeadline (d : DeadlineSt) : DeadlineSt :=
  { d with waitLimitA := d.waitLimit, deadlineA := d.deadline, fbHoldA := d.fbHold, fbEnA := d.fbEn, missed := false, stallWait := 0 }

/-- Shade and fine-Tint values that an attempt start puts in force (R454, R461). -/
def applySelect (s : State) (n : CtxId) (x : SelectSt) : SelectSt :=
  { x with fractionA := x.fraction, seedA := x.seed, fineAccount := s.sep.account[n.val], fineMask := s.sep.mask[n.val]
           fineEn := s.sep.fineEn[n.val], every := s.sep.every[n.val] }

/-- The plan and the plan digests stay, and the cells that came for the step before it started here; what else the exchange holds of
one step is cleared (R402). -/
def freshExch (x : ExchSt) : ExchSt :=
  { plan := x.plan, planDig := x.planDig, planBad := x.planBad, planAt := x.planAt, rx := x.rx, waiting := x.waiting, passed := x.passed }

/-- The record of an attempt that starts (R444, R445). -/
def openRecord (s : State) (n : CtxId) (j : Job) : OpenRec :=
  let c := s.ctx n
  { t := c.v.t, attempt := c.v.a, replay := c.v.restored || c.v.replayRun || decide (0 < c.v.a), stream := c.dl.stream.toNat
    gen := c.w.gen.toNat, startNs := s.ind.frameStart, startFrame := frameNow s, frames := 1
    frames2x := if s.dies.toList.any fun d => d.ddr2x != 0 || d.hbm2x != 0 then 1 else 0
    facOffset := if s.ind.ptpValid then s.ind.facOffset.toNat else 0
    config := configBody s n j, patterns := patternsBody s, base := bootCounts s, uj := s.pwr.uj[n.val].toNat
    verdicts := c.verdicts, artefacts := c.w.artefacts }

/-- The record of an attempt that is condemned before it started: STATUS 1, no step counts, and no frame that it saw. Its START_NS is a
free value, since the start never came (R484, log entry 48). It follows the record that is open; with none open it is written now. -/
def recordUnstarted (n : CtxId) (j : Job) (err0 err1 : BitVec 256) (s : State) : State :=
  let (w, s) := s.takeFree
  let c := s.ctx n
  let r := { openRecord s n j with startNs := w.toNat, startFrame := c.v.first.getD (frameNow s), frames := 0, frames2x := 0, artefacts := [] }
  let r := { endStep s c r with status := 1 }
  let bytes := recordBytes s n { r with counters := countersBody (clearStepCounters n s) n r }
  let e := unitErrs s err0 err1
  let x : ShutRec := { bytes, err0 := e.1, err1 := e.2 }
  let s := (countAnchor n e s).modCtx n fun c => { c with verdicts := [] }
  if c.record.isSome then s.modCtx n fun c => { c with unstarted := c.unstarted ++ [x] }
  else settleShut n (s.modCtx n fun c => { c with shut := c.shut ++ [x] })

/-- The SHARDS-form entry of a shard's current buffer. -/
def shardNow (s : State) (c : Ctx) (x : ShardState) : Option (Nat × Word × List Word) :=
  (shardDesc c x.shard).bind fun d => (shardBuf c d x.cur).map fun b =>
    let h := shardHdr s b.1
    (x.shard, wd h 0, hdrDigest h)

/-- The checkpoint of a step start (R455). -/
def checkpoint (n : CtxId) (s : State) : State :=
  let c := s.ctx n
  let every := c.sel.every.toNat
  if every = 0 || c.v.t % every != 0 then s
  else if s.sep.held[n.val] then { s with sep := { s.sep with skipped := upd s.sep.skipped n fun x => satAdd x 1 } }
  else
    let live := c.w.shards.filter fun x => match shardDesc c x.shard with
      | some d => !d.frozen
      | none => false
    let es := sortBy (fun (a b : Nat × Word × List Word) => decide (a.1 ≤ b.1)) (live.filterMap (shardNow s c))
    let s := { s with sep := { s.sep with
      held := upd s.sep.held n fun _ => true, heldGen := upd s.sep.heldGen n fun _ => c.w.gen } }
    s.modCtx n fun c => { c with record := c.record.map fun r => { r with checkpoint := es } }

/-- Is the attempt start of a context due: its first frame has come, the device takes part in jobs, and a halted context has been
resumed (R484, R254, R356)? -/
def startDue (s : State) (n : CtxId) : Bool :=
  let c := s.ctx n
  c.v.started && c.job.isSome && !c.v.live && isBright s && takesPart s &&
  (match c.v.first with | some f => decide (f ≤ frameNow s) | none => false) &&
  (c.state == 2 || ((c.state == 3 || c.state == 4) && c.v.toReplay &&
    (match c.v.resumeAt with | some f => decide (f ≤ frameNow s) | none => false)))

/-- Fault the first command of every thread whose list leaves its slab, or whose slab is not a KIND 0 slab of the thread's group
(R262, R257). -/
def checkLists (n : CtxId) (s : State) : State :=
  let c := s.ctx n
  c.threads.foldl (fun s t => match threadDesc c t.thread with
    | some d =>
      if listFits c d then s
      else threadFault n t.thread 0 (if listPlaced c d then flSlabOverrun else flDescBounds) (BitVec.ofNat 64 ((cmdAddr c false d 0).getD 0)) [] s
    | none => s) s

/-- The first frame of the attempt that starts: the one fixed for it, or the later one of the resume that starts it (R254, R484). A start
that is stalled counts from the same frame (R394, R452). -/
def startFrom (v : AttemptSt) (now : FrameNo) : FrameNo :=
  let f := v.first.getD now
  if v.toReplay then max f (v.resumeAt.getD f) else f

/-- The start of an attempt, once due (R267, R270, R279, R283, R421, R455, R461). -/
def beginAttempt (n : CtxId) (j : Job) (s : State) : State :=
  let replay := decide (0 < (s.ctx n).v.a)
  let s := if (s.ctx n).state = 2 then s else setMode n 2 6 s
  let s := s.modCtx n fun c => { c with
    dl := applyDeadline (chooseStream c.dl replay)
    sel := applySelect s n c.sel
    x := freshExch c.x
    runs := []
    stamp := 0
    v := { c.v with live := true, ended := false, endFrame := none, ready := false, commitAt := none, first := none
                    stepFrame := startFrom c.v (frameNow s), causes := [], condemnAt := none, faults := [], faultNs := none, haltAt := none
                    toReplay := false, resumeAt := if c.v.toReplay then none else c.v.resumeAt
                    resumeNs := if c.v.toReplay then nsNow s else c.v.resumeNs }
    w := { c.w with
      nextWaits := []
      shards := c.w.shards.map fun x =>
        { x with renewed := false, hdrWritten := false, isSealed := false, failed := false, failedBefore := replay && (x.failed || x.failedBefore) } } }
  let s := s.modCtx n fun c => { c with threads := freshThreads c c.dl.stream.toNat, ctrs := freshCtrs s c }
  let s := s.allCores fun k => { k with
    queue := k.queue.filter fun q => q.ctx != n
    taps := k.taps.filter fun t => t.1.1 != n
    mirTaps := k.mirTaps.filter fun t => t.1.1 != n
    dma := Vector.ofFn fun i => (let d := k.dma[i.val]
      if k.chan[i.val].valid && k.chan[i.val].ctx == n then
        { d with state := if replay && d.state == 4 then 0 else d.state, pendingWins := [] } else d) }
  let s := s.modCtx n fun c => { c with record := some (openRecord s n j), verdicts := [], w := { c.w with artefacts := [] } }
  let s := chooseAlts n (checkpoint n s)
  let s := checkLists n (fillResident n s)
  noteEnd n (rampTrigger n s)

/-- Has the condemnation instant of a context come (R483)? -/
def instantDue (s : State) (n : CtxId) : Bool :=
  match (s.ctx n).v.condemnAt with
  | some g => decide (g ≤ frameNow s) || (g == frameNow s + 1 && decide (nextFreeze s ≤ nsNow s))
  | none => false

/-- The freeze instant of a frame that is no later than the next (R369). -/
def freezeOf (s : State) (g : FrameNo) : Nat := if frameNow s < g then nextFreeze s else s.ind.frameStart - 4 * slot8 s

/-- Is the commit of a context's attempt due at its frame, with neither a halt nor a condemnation in time (R480)? -/
def commitDue (s : State) (v : AttemptSt) : Bool :=
  match v.commitAt with
  | some (_, cf) => decide (cf ≤ frameNow s) && !commitBarred v cf
  | none => false

/-- Is a step the last of a job (R27)? -/
def Job.lastStep (j : Job) (t : Nat) : Bool := decide (j.firstStep + j.steps ≤ t + 1)

/-- Does the record of a context close in this cycle: at a condemnation instant, at the job's last commit, or at a step start that
is due (R444)? -/
def closeDue (s : State) (n : CtxId) : Bool :=
  let c := s.ctx n
  match c.job with
  | some j => instantDue s n ||
      (c.record.isSome && ((startDue s n && !closeStalls s n) || (commitDue s c.v && c.v.live && c.v.ended && j.lastStep c.v.t)))
  | none => false

/-- Does a record of a lower context, which closes in the same cycle, come first (R452)? -/
def closesAfter (s : State) (n : CtxId) : Bool := allCtxIds.any fun m => decide (m < n) && closeDue s m

/-- STEP_START (R267): the previous attempt's record closes and the attempt starts. The two values are what an upset of a
digest unit flips in that record's anchor. With STALL set the start waits for room in the ring, and a record of a lower context
that closes in the same cycle closes first (R452). -/
def execStepStart (n : CtxId) (err0 err1 : BitVec 256) (s : State) : Host.Outcome State Fault Refusal :=
  match (s.ctx n).job with
  | none => ok s
  | some j =>
    if startDue s n && !closeStalls s n && !closesAfter s n then ok (beginAttempt n j (clearStepCounters n (closeRecord n err0 err1 s))) else ok s

/-! ### The deadline (R282) -/

/-- DEADLINE_MISS (R282, R283). -/
def execDeadlineMiss (n : CtxId) (s : State) : Host.Outcome State Fault Refusal :=
  let c := s.ctx n
  let d := c.dl.deadlineA.toNat
  if c.v.live && !c.v.ended && d != 0 && !c.dl.missed && decide (c.v.stepFrame + d ≤ frameNow s) then
    let s := s.modCtx n fun c => { c with
      dl := { c.dl with misses := satAdd c.dl.misses 1, missed := true, fbNext := c.dl.fbNext || c.dl.fbEnA }
      record := c.record.map fun r => { r with miss := true } }
    ok (raiseEvent evDeadlineMiss (some n) [put d 0, put (s.ctx n).dl.misses.toNat 0] s)
  else ok s

/-! ### Abandoning an attempt (R128, R167, R177, R204, R248, R475) -/

/-- The lowest role whose digests differ between two executions, with both digests (R465, R489). -/
def roleDiff (p c : List TintOut) : Option (Nat × BitVec 128 × BitVec 128) :=
  let n := max p.length c.length
  let get (l : List TintOut) (i : Nat) : Nat × BitVec 128 := match l[i]? with
    | some t => (t.role, t.digest)
    | none => (0xFF, 0)
  let ds := (List.range n).map fun i => (get p i, get c i)
  let ne := ds.filter fun (x : (Nat × BitVec 128) × (Nat × BitVec 128)) => x.1 != x.2
  (argMin (fun (a b : (Nat × BitVec 128) × (Nat × BitVec 128)) => decide (a.1.1 < b.1.1)) ne).map fun
    (x : (Nat × BitVec 128) × (Nat × BitVec 128)) => (min x.1.1 x.2.1, x.1.2, x.2.2)

/-- The VERDICTS entry of a check of a command (R489). -/
def checkEntry (r : Run) (k : Check) (outcome : Nat) (dT : BitVec 128) : VerdictEnt :=
  let d := (roleDiff r.digP k.digC).getD (0xFF, (r.digP.head?.map (·.digest)).getD 0, (k.digC.head?.map (·.digest)).getD 0)
  { cause := k.cause, outcome, primary := r.core, checker := k.checker.getD 0xFF, third := k.third.getD 0xFF, role := d.1
    thread := r.thread, cmd := r.cmd, digP := d.2.1, digC := d.2.2, digT := dT }

/-- The checks of a command. -/
def Run.checks (r : Run) : List Check := r.check.toList ++ r.mirror.toList ++ r.final.toList

/-- Record the mismatches that were shown and not decided (R475). -/
def abandonChecks (n : CtxId) (s : State) : State :=
  (s.ctx n).runs.foldl (fun s r => r.checks.foldl (fun s k =>
    if k.mism && !k.decided then reportVerdict n (checkEntry r k 4 0) none s else s) s) s

/-- Stop every channel of a context that holds work, with a cause (R248). -/
def stopChans (n : CtxId) (cause : Nat) (s : State) : State :=
  allCoreIds.foldl (fun s core => (chansOf (s.core core) n).foldl (fun s ch =>
    let d := (s.core core).dma[ch.val]
    if d.state == 1 || d.state == 2 || d.state == 3 then chanStop n core ch cause s else s) s) s

/-- Everything that the attempt has in flight is abandoned: commands, queue entries, partials and held words. -/
def dropAttempt (n : CtxId) (s : State) : State :=
  let s := s.allCores fun k => { k with queue := k.queue.filter fun q => q.ctx != n }
  s.modCtx n fun c => { c with
    runs := [], threads := [], ctrs := []
    w := { c.w with nextWaits := [] }
    x := { c.x with chainOut := [], chainIn := [], rets := [], push := [], ends := [], waiting := [], passed := [] }
    v := { c.v with live := false, ended := false, endFrame := none, ready := false, commitAt := none } }

/-- What the attempt wrote into alternates is discarded, and its pins are released (R484). -/
def dropWrites (n : CtxId) (s : State) : State :=
  let v := (s.ctx n).v
  let s := s.modCtx n fun c => { c with w := { c.w with
    shards := c.w.shards.map fun x => { x with renewed := false, hdrWritten := false, isSealed := false } } }
  releasePins n (fun p => p.takenIn == (v.t, v.a)) s

/-- Does the context take part in a job of the hall here, with its threads or only in transit? -/
def inHall (c : Ctx) : Bool := c.job.isSome || c.transit.isSome

/-- The bits of the causes of an attempt (R549). -/
def causeBits (cs : List Nat) : Word := cs.foldl (fun a c => a ||| putB true c) 0

/-- A replay that answers faults has ended, and one of them did not recur: a hardware failure, with its Rust record (R56). An
attempt that ends without a fault of its own, but for its commit, leaves the question to the next one. -/
def judgeReplay (n : CtxId) (committed : Bool) (s : State) : State :=
  let v := (s.ctx n).v
  if (v.prevFaults.any fun f => !v.faults.contains f) && (committed || !v.faults.isEmpty) then
    raiseRust (ctxRust ruFaultNotRecurred n s) s
  else s

/-- A replay that stopped in a fault of its own has ended: its question is answered once, in the first frame after the fault (R56). -/
def judgeEnded (s : State) (n : CtxId) : State :=
  let v := (s.ctx n).v
  if (s.ctx n).state = 4 && !v.prevFaults.isEmpty && (match v.faultNs with | some x => decide (x < nsNow s) | none => false) then
    modV n (fun v => { v with prevFaults := [] }) (judgeReplay n false s)
  else s

/-- A device that only forwards goes on to the attempt that starts at a frame: cells of earlier attempts are over (R402). -/
def transitTo (n : CtxId) (g : FrameNo) (s : State) : State :=
  s.modCtx n fun c => { c with v := { c.v with first := some g, stepFrame := g }, x := { c.x with passed := [] } }

/-- CONDEMNATION_INSTANT (R484, R485, R475): the attempt is abandoned, its record closes, and the next attempt is fixed
or, after the fourth, the context faults. -/
def execCondemnationInstant (n : CtxId) (err0 err1 : BitVec 256) (s : State) : Host.Outcome State Fault Refusal :=
  if !instantDue s n || closesAfter s n then ok s
  else
    let c := s.ctx n
    let g := c.v.condemnAt.getD 0
    let barred (v : AttemptSt) : Bool := match v.commitAt with | some (_, cf) => decide (g ≤ cf) | none => false
    let clear (v : AttemptSt) : AttemptSt :=
      { v with causes := [], condemnAt := none, condNs := freezeOf s g, commitAt := if barred v then none else v.commitAt }
    match c.job with
    | none => ok (transitTo n (g + 64) (modV n (fun v => { clear v with a := v.a + 1 }) s))
    | some j =>
      let s := stopChans n 3 (abandonChecks n s)
      let s := reopenWindows n (dropWrites n (dropAttempt n s))
      let s := markRecord n 1 (judgeReplay n false s)
      let own := match c.record with | some r => r.t == c.v.t && r.attempt == c.v.a | none => false
      let s := if own then closeRecord n err0 err1 s else recordUnstarted n j err0 err1 s
      let s := raiseEvent evStepCondemned (some n) [put (c.v.a % 256) 0, causeBits c.v.causes] s
      if 3 ≤ c.v.a then
        let s := rebind n (modV n (fun v => { clear v with first := none }) s)
        ok (ctxFault n flReplayLimit (raiseRust (ctxRust ruReplayLimit n s) s))
      else
        ok (rebind n (modV n (fun v => { clear v with
          a := v.a + 1, first := some (g + 64), replayRun := true
          prevFaults := if v.faults.isEmpty then v.prevFaults else v.faults, faults := [] }) s))

/-- CONDEMN_LATE (R488): a cause for an attempt after close(C) of its commit frame. -/
def execCondemnLate (n : CtxId) (cause : Nat) (s : State) : Host.Outcome State Fault Refusal :=
  if attemptPending (s.ctx n) && afterClose s n then ok (condemnLate n (cause % 256) s) else ok s

/-! ### Readiness and commit (R476, R480) -/

/-- G rises and the alternate of every renewed shard becomes current (R424). -/
def switchShards (n : CtxId) (s : State) : State :=
  s.modCtx n fun c =>
    let g := c.w.gen + 1
    { c with w := { c.w with
      gen := g
      scrubStep := c.w.scrubStep + 1
      shards := c.w.shards.map fun x => match x.renewed, x.alt with
        | true, some i => { x with cur := i, alt := none, hist := (g.toNat, i) :: x.hist }
        | _, _ => x } }

/-- Pending host windows of a context are published (R544). -/
def publishWindows (n : CtxId) (s : State) : State :=
  let due := s.host.windows.filter fun w => w.ctx == n && w.state == 1
  let s := { s with host := { s.host with windows := s.host.windows.map fun w =>
      if w.ctx = n && w.state = 1 then { w with state := 2, readySeq := w.readySeq + 1 } else w } }
  due.foldl (fun s w => raiseEvent evPublished (some n) [put w.win 44, put (w.readySeq + 1) 0] s) s

/-- Is a pin released at the end of its step (R418)? -/
def pinEnds (c : Ctx) (p : PinState) : Bool :=
  match pinDesc c p.pin with
  | some d => !d.hold
  | none => true

/-- The commit of an attempt with the job's threads here (R424, R480, R544, R56). Groups of a core that was quarantined after
close(C) are bound again now (R260, R488). -/
def commitJob (n : CtxId) (j : Job) (cf : FrameNo) (err0 err1 : BitVec 256) (s : State) : State :=
  let c := s.ctx n
  let s := publishWindows n (startScrub (switchShards n s))
  let s := releasePins n (pinEnds c) s
  let s := judgeReplay n true s
  let last := j.lastStep c.v.t
  let s := dropAttempt n s
  let s := if last then closeRecord n err0 err1 s else s
  let s := if last && c.state == 2 then setMode n 1 7 s else s
  rebind n <| modV n (fun v => { v with
    t := v.t + 1, a := 0, replayRun := false, replayed := false, prevFaults := [], faults := []
    first := if last then none else some cf, started := !last }) s

/-- COMMIT (R480): at start(C) the attempt commits unless a halt or a condemnation came before close(C). The two values
are what an upset of a digest unit flips in the anchor of the job's last record. -/
def execCommit (n : CtxId) (err0 err1 : BitVec 256) (s : State) : Host.Outcome State Fault Refusal :=
  let c := s.ctx n
  match c.v.commitAt with
  | none => ok s
  | some (_, cf) =>
    if frameNow s < cf || !sealsDone c then ok s
    else if (match c.v.condemnAt with | some g => decide (g ≤ cf) | none => false) then ok s
    else if (match c.v.haltAt with | some g => decide (g ≤ cf) | none => false) then
      ok (modV n (fun v => { v with commitAt := none, haltAt := if c.state = 2 || c.job.isNone then none else v.haltAt }) s)
    else match c.job with
      | some j => ok (if c.v.live && c.v.ended && !(j.lastStep c.v.t && closesAfter s n) then commitJob n j cf err0 err1 s else s)
      | none => ok (transitTo n cf (modV n (fun v => { v with
          commitAt := none, haltAt := none, t := v.t + 1, a := 0, started := true }) s))

/-! ### The instant of a resume (R254) -/

/-- Has the job's last step committed (R27, R253)? -/
def jobDone (c : Ctx) : Bool :=
  match c.job with
  | some j => decide (j.firstStep + j.steps ≤ c.v.t)
  | none => false

/-- RESUME_EFFECT (R254, R126, R281, R285): a halted context runs again at the start of frame f + 2. A context that waits
for an owner's replay takes STATE 0x02 with its attempt (R255). Where a halt after close(C) met the commit of the job's last
step, STATE goes on to 0x01 (R253, log entry 48). -/
def execResumeEffect (n : CtxId) (s : State) : Host.Outcome State Fault Refusal :=
  let c := s.ctx n
  match c.v.resumeAt with
  | none => ok s
  | some f =>
    if frameNow s < f || !isBright s || !takesPart s || c.v.toReplay || c.state != 3 then ok s
    else if jobDone c then ok (modV n (fun v => { v with resumeAt := none }) (setMode n 1 7 (setMode n 2 4 s)))
    else
      let s := resumeDma n (setMode n 2 4 s)
      let s := s.modCtx n fun c => { c with
        v := { c.v with first := c.v.first.map (max f), resumeAt := none, resumeNs := nsNow s, haltAt := if c.v.commitAt.isNone then none else c.v.haltAt }
        threads := c.threads.map fun t => { t with waited := 0, waitOn := 0 }
        runs := c.runs.map fun r => { r with waited := 0, waitOn := 0 } }
      ok (rampTrigger n s)

end Sys2Proof.Machine
end

