-- ==== Sys2Proof/Machine/BootImage.lean ====
section
/-! DEFINITION. The configuration image: its header and sections (R555, R556), settings (R557), the topology map (R391,
R392, R597), fuse requests (R561), and the checks of R560. -/

namespace Sys2Proof.Machine

/-- The end of the image's flash range (R554). -/
def imageEnd : Nat := 0x03000000

/-- Read the flash. -/
def flashRead (s : State) (a n : Nat) : List Byte := memRead flashDefault s.flash a n

/-- A section entry of the image: TYPE, OFFSET and LENGTH. -/
structure ImgSect where
  type : Nat
  off : Nat
  len : Nat
  deriving DecidableEq, Repr

/-- The image after its framing has been read: LENGTH, ROLLBACK, DEVICE and the sections. -/
structure Img where
  length : Nat
  rollback : Nat
  device : Nat
  sects : List ImgSect
  deriving DecidableEq, Repr

/-- The section types of R556. -/
def imgTypes : List Nat := [0x01, 0x02, 0x03, 0x04, 0x05, 0x06, 0x07, 0x0F]

/-- Do two ranges overlap? -/
def rangesMeet (a la b lb : Nat) : Bool := decide (a < b + lb) && decide (b < a + la)

/-- Check 0x2 of R560: header, section entries and R556. -/
def imgFraming (s : State) : Option Img :=
  let h := bytesToWords (flashRead s 0 64)
  let w0 := wd h 0
  let nsec := fld w0 15 0
  let es := (chunks 16 (flashRead s 64 (16 * nsec))).map bytesToWords
  let sects := es.map fun w => { type := fld (wd w 0) 63 56, off := fld (wd w 0) 39 0, len := fld (wd w 1) 39 0 : ImgSect }
  let length := fld (wd h 1) 39 0
  let once (t : Nat) : Bool := (sects.filter fun x => x.type == t).length == 1
  let head := fld w0 63 32 == 0x47573949 && fld w0 31 16 == 1 && decide (4 ≤ nsec) && decide (nsec ≤ 16) &&
    fld (wd h 1) 63 40 == 0 && length % 64 == 0 && decide (fld (wd h 2) 63 56 ≤ 64) && fld (wd h 2) 55 15 == 0 &&
    (h.drop 3).all (· == 0)
  let ents := es.all fun w => fld (wd w 0) 55 40 == 0 && fld (wd w 1) 63 40 == 0
  let rules := sects.all (fun x => imgTypes.contains x.type && x.off % 64 == 0 && decide (x.off + x.len ≤ imageEnd)) &&
    distinct (sects.map (·.type)) && once 0x01 && once 0x02 && once 0x03 && once 0x0F &&
    pairsB (fun (a b : ImgSect) => !rangesMeet a.off a.len b.off b.len) sects &&
    (sects.all fun x => if x.type = 0x0F then x.off == length else decide (x.off + x.len ≤ length)) &&
    sects.all fun x => x.type != 0x0F || (decide (1864 ≤ x.len) && (flashRead s (x.off + 1793) 63).all (· == 0))
  if head && ents && rules then
    some { length, rollback := fld (wd h 2) 63 56, device := fld (wd h 2) 14 0, sects }
  else none

/-- The bytes of a section, none when it is absent. -/
def imgBytes (s : State) (m : Img) (t : Nat) : List Byte :=
  match m.sects.find? fun x => x.type == t with
  | some x => flashRead s x.off x.len
  | none => []

/-- The signer's public key, of 1,793 bytes. -/
def signerKey (s : State) (m : Img) : List Byte := (imgBytes s m 0x0F).take 1793

/-- The digest of the signer's public key. -/
def signerDigest (s : State) (m : Img) : List Word := bytesToWords (shake256 32 (signerKey s m))

/-- A signature behind its SIG_LEN word, when the length is in range and the bytes are there (R556). -/
def sigAfter (bs : List Byte) : Option (List Byte) :=
  let n := fld (wd (bytesToWords (bs.take 8)) 0) 15 0
  let sig := (bs.drop 8).take n
  if 1 ≤ n ∧ n ≤ 1280 ∧ sig.length = n then some sig else none

/-- Is a signer slot set and not revoked, with this digest (R560)? -/
def slotHolds (f : Fuses) (i : Fin 4) (d : List Word) : Bool :=
  f.slotSet.getLsbD i.val && !f.revoked.getLsbD i.val && f.signer[i.val] == d

/-- Check 0x4: the image's signature over the SHAKE256-256 of bytes 0 to LENGTH − 1. -/
def imgSigned (s : State) (m : Img) : Bool :=
  match sigAfter ((imgBytes s m 0x0F).drop 1856) with
  | some sig => Config.falconVerify (signerKey s m) (shake256 32 (flashRead s 0 m.length)) sig
  | none => false

/-- Check 0x6: the vendor trailer of the firmware. -/
def vendorSigned (s : State) (m : Img) : Bool :=
  let fw := imgBytes s m 0x01
  let body := fw.take (fw.length - 1344)
  match sigAfter (fw.drop (fw.length - 1344)) with
  | some sig => decide (1344 ≤ fw.length) && Config.falconVerify (Config.keyOfDigest s.boot.fuses.vendor) (shake256 32 body) sig
  | none => false

/-- One settings record: KEY and the value words (R557). -/
abbrev Setting := Nat × List Word

/-- The settings records. -/
def settingsOf (bs : List Byte) : List Setting :=
  (chunks 32 bs).map fun c => let w := bytesToWords c; ((wd w 0).toNat, w.drop 1)

/-- Is a settings record's KEY known and its value in range (R557)? -/
def settingOk (x : Setting) : Bool :=
  let v := wd x.2 0
  let inR (lo hi k : Nat) : Bool := decide (lo ≤ k) && decide (k ≤ hi)
  match x.1 with
  | 0x01 => inR 1 3 (fld v 3 0) && inR 1 3 (fld v 7 4) && inR 1 2 (fld v 11 8)
  | 0x02 => decide (v.toNat ≤ 2) || v.toNat == 0xF
  | 0x03 => decide (v.toNat ≤ 7)
  | 0x04 => inR 1800 3200 (fld v 15 0) && inR 1800 (fld v 15 0) (fld v 31 16)
  | 0x05 => inR 1 256 v.toNat
  | k =>
    if 0x10 ≤ k ∧ k ≤ 0x17 then fld v 63 16 == 0
    else if 0x20 ≤ k ∧ k ≤ 0x22 then decide (fld (wd x.2 2) 7 0 ≤ 128)
    else if 0x28 ≤ k ∧ k ≤ 0x2A then decide (fld (wd x.2 1) 7 0 ≤ 32)
    else false

/-- The value word of a setting, the last of its records. -/
def settingVal (xs : List Setting) (k : Nat) : Option Word := ((xs.filter fun x => x.1 == k).getLast?).map fun x => wd x.2 0

/-- The topology map of a section's bytes, when it passes R597. -/
def mapOf (bs : List Byte) : Option TopoMap :=
  let w := bytesToWords bs
  let w0 := wd w 0
  let topo := fld w0 63 60
  let ndim := fld w0 59 56
  let ndev := fld w0 15 0
  let sizes := (List.range 4).map fun i => fld (wd w 1) (63 - 8 * i) (56 - 8 * i)
  let ents := (List.range ((bs.length - 64) / 16)).map fun i => (wd w (8 + 2 * i), wd w (9 + 2 * i))
  let devs := ents.take ndev
  let links := ents.drop ndev
  let good :=
    decide (64 ≤ bs.length) && fld w0 55 48 == 0 && fld (wd w 1) 31 0 == 0 && wd w 6 == 0 && wd w 7 == 0 && decide (topo ≤ 1) &&
    (if topo = 0 then decide (3 ≤ ndim) && decide (ndim ≤ 4) else decide (1 ≤ ndim) && decide (ndim ≤ 8)) &&
    decide (1 ≤ ndev) && decide (ndev ≤ 32768) &&
    (if topo = 0 then (sizes.zipIdx.all fun (x : Nat × Nat) => if x.2 < ndim then decide (2 ≤ x.1) && decide (x.1 ≤ 255) else x.1 == 0)
      else wd w 1 == 0) &&
    devs.all (fun (e : Word × Word) => fld e.1 48 32 == 0 && e.2 == 0) && links.all (fun (e : Word × Word) => e.2 == 0) &&
    (topo = 0 || links.all fun (e : Word × Word) => decide (fld e.1 48 46 < ndim) && fld e.1 30 28 == fld e.1 48 46) &&
    decide (64 + 16 * ndev ≤ bs.length) && (bs.length - 64) % 16 == 0
  if !good then none
  else some {
    header := w.take 8, switched := topo == 1, ndim := ndim, etherType := fld w0 47 32, pcp := fld w0 31 28, vid := fld w0 27 16
    sizes := sizes
    ranges := (List.range 8).map fun n =>
      let x := wd w (2 + n / 2)
      if n % 2 = 0 then (fld x 63 48, fld x 47 32) else (fld x 31 16, fld x 15 0)
    devs := devs.map fun (e : Word × Word) =>
      { dev := fld e.1 63 49, coord := (List.range 4).map fun i => fld e.1 (8 * i + 7) (8 * i) }
    links := links.map fun (e : Word × Word) =>
      { devA := fld e.1 63 49, portA := fld e.1 48 46, devB := fld e.1 45 31, portB := fld e.1 30 28, delay := fld e.1 27 16
        asym := sext 16 (fld e.1 15 0) } }

/-- A fuse request (R561): OP, INDEX, VALUE and the digest. -/
structure FuseReq where
  op : Nat
  index : Nat
  value : Nat
  digest : List Word
  deriving DecidableEq, Repr

/-- The fuse requests of a section's bytes. -/
def fuseReqs (bs : List Byte) : List FuseReq :=
  (chunks 48 bs).map fun c =>
    let w := bytesToWords c
    { op := fld (wd w 0) 63 56, index := fld (wd w 0) 55 48, value := fld (wd w 0) 7 0, digest := (w.drop 2).take 4 }

/-- Do the lists obey R556: whole entries, and not too many? -/
def listsOk (s : State) (m : Img) : Bool :=
  let st := (imgBytes s m 0x04).length
  let pb := (imgBytes s m 0x05).length
  let ru := (imgBytes s m 0x06).length
  st % 48 == 0 && decide (st / 48 ≤ 16) && pb % 32 == 0 && decide (pb / 32 ≤ 16) && ru % 32 == 0 && decide (ru / 32 ≤ 4) &&
  (imgBytes s m 0x07).length % 48 == 0

/-- Check 0x7: the settings, the topology map with DEVICE in it, and the lists. -/
def imgContents (s : State) (m : Img) : Bool :=
  let set := imgBytes s m 0x03
  set.length % 32 == 0 && (settingsOf set).all settingOk && listsOk s m &&
  (match mapOf (imgBytes s m 0x02) with
    | some t => t.devs.any fun d => d.dev == m.device
    | none => false)

/-- Checks 0x2 to 0x8 of R560 on the image in the flash: the code of the first failure, 0 when it passes, and the image. -/
def imgCheck (s : State) : Nat × Option Img :=
  let f := s.boot.fuses
  match imgFraming s with
  | none => (0x2, none)
  | some m =>
    let d := signerDigest s m
    let first := f.slotSet = 0
    let reqs := fuseReqs (imgBytes s m 0x07)
    let code : Nat :=
      if !first && !(List.finRange 4).any fun i => slotHolds f i d then 0x3
      else if !imgSigned s m then 0x4
      else if m.rollback < f.rollback.toNat then 0x5
      else if !vendorSigned s m then 0x6
      else if !imgContents s m then 0x7
      else if first && !((match reqs.find? fun r => r.op == 1 && r.index == 0 with | some r => r.digest == d | none => false) &&
          reqs.any fun r => r.op == 3 && r.index == 0) then 0x8
      else 0
    (code, some m)

/-- Apply one fuse request of an image (R561); `d` is the digest of the key that verified it, by a slot of the fuses `f0` as they were
before the image. -/
def applyFuse (m : Img) (d : List Word) (f0 f : Fuses) (r : FuseReq) : Fuses :=
  match r.op with
  | 1 =>
    if h : r.index < 4 then
      if f.slotSet.getLsbD r.index then f
      else { f with slotSet := f.slotSet ||| BitVec.ofNat 4 (2 ^ r.index), signer := upd f.signer ⟨r.index, h⟩ fun _ => r.digest }
    else f
  | 2 =>
    if h : r.index < 4 then
      if slotHolds f0 ⟨r.index, h⟩ d then f else { f with revoked := f.revoked ||| BitVec.ofNat 4 (2 ^ r.index) }
    else f
  | 3 =>
    if h : r.index < 2 then
      if f.recovSet.getLsbD r.index then f
      else { f with recovSet := f.recovSet ||| BitVec.ofNat 2 (2 ^ r.index), recov := upd f.recov ⟨r.index, h⟩ fun _ => r.digest }
    else f
  | 4 => if r.value < f.rollback.toNat || m.rollback < r.value then f else { f with rollback := BitVec.ofNat 7 r.value }
  | _ => f

/-- The configuration that a good image gives (R556, R557). -/
def cfgOf (s : State) (m : Img) : ImageCfg :=
  let xs := settingsOf (imgBytes s m 0x03)
  { device := m.device, rollback := m.rollback
    ports := ((settingVal xs 0x01).getD 0).toNat, pfc := ((settingVal xs 0x03).getD 0).toNat
    addrs := xs.filter fun x => decide (0x20 ≤ x.1)
    stations := (chunks 48 (imgBytes s m 0x04)).map fun c =>
      let w := bytesToWords c
      { num := fld (wd w 0) 3 0, ceiling := fld (wd w 0) 15 8, digest := (w.drop 1).take 4 }
    publishers := (chunks 32 (imgBytes s m 0x05)).map bytesToWords
    rust := (chunks 32 (imgBytes s m 0x06)).map bytesToWords
    map := (mapOf (imgBytes s m 0x02)).getD {} }

end Sys2Proof.Machine
end

