-- ==== Sys2Proof/Machine/Plan.lean ====
section
/-! DEFINITION. The hall's topology (R391 to R393, R370, R399), routes (R398), the cells of windows (R397) and the slot
plan with its digest (R400, R401). -/

namespace Sys2Proof.Machine

/-! ### The topology map -/

/-- The link entry of a device's port with its sign: 1 when the device is DEV_A. -/
def linkEnt (m : TopoMap) (dev port : Nat) : Option (MapLink × Bool) :=
  match m.links.find? fun l => l.devA == dev && l.portA == port with
  | some l => some (l, true)
  | none => (m.links.find? fun l => l.devB == dev && l.portB == port).map fun l => (l, false)

/-- The neighbours of a device by port among the devices of the map: port and device. -/
def neighbours (m : TopoMap) (dev : Nat) : List (Nat × Nat) :=
  (List.range 8).filterMap fun p => (linkAt m dev p).bind fun l => if m.devs.any fun d => d.dev == l.1 then some (p, l.1) else none

/-- Distances from a set of devices reached so far; the fuel is the number of devices. -/
def bfs (m : TopoMap) : Nat → Nat → List (Nat × Nat) → List Nat → List (Nat × Nat)
  | 0, _, seen, _ => seen
  | f + 1, d, seen, front =>
    let next := dedup ((front.flatMap fun x => (neighbours m x).map fun (y : Nat × Nat) => y.2).filter fun x =>
      !seen.any fun (y : Nat × Nat) => y.1 == x)
    if next.isEmpty then seen else bfs m f (d + 1) (seen ++ next.map fun x => (x, d + 1)) next

/-- The distance of every reached device from one device. -/
def distances (m : TopoMap) (dev : Nat) : List (Nat × Nat) := bfs m m.devs.length 0 [(dev, 0)] [dev]

/-- The hall's diameter in hops (R370). -/
def diameter (m : TopoMap) : Nat :=
  if m.switched then (m.devs.map fun d => ((distances m d.dev).map fun (x : Nat × Nat) => x.2).foldl max 0).foldl max 0
  else ((m.sizes.take m.ndim).map fun s => s / 2).foldl (· + ·) 0

/-- The largest NOMINAL_DELAY of the hall, in 0.5 ns. -/
def maxDelay (m : TopoMap) : Nat := (m.links.map (·.delay)).foldl max 0

/-- The rail delay of a rail (R594), in 0.5 ns. -/
def railDelay (m : TopoMap) (rail : Nat) : Nat := ((m.links.filter fun l => l.portA == rail).map (·.delay)).foldl max 0

/-- The coordinates of a device. -/
def coordOf (m : TopoMap) (dev : Nat) : List Nat := ((m.devs.find? fun d => d.dev == dev).map (·.coord)).getD []

/-- The device at coordinates. -/
def devAt (m : TopoMap) (c : List Nat) : Option Nat := (m.devs.find? fun d => d.coord.take m.ndim == c.take m.ndim).map (·.dev)

/-- Coordinates moved one step in a dimension. -/
def stepCoord (m : TopoMap) (c : List Nat) (i : Nat) (pos : Bool) : List Nat :=
  let sz := m.sizes.getD i 1
  modAt c i fun x => (x + (if pos then 1 else sz - 1)) % sz

/-- The condition of R370 in eighths of a nanosecond, evaluated at C0. -/
def delayOk (m : TopoMap) (slow : Bool) : Bool :=
  let s8 := slot8At 0 slow
  let h := diameter m
  decide (h ≤ 64) && decide (h * (96 + s8 + 4 * maxDelay m) * 36 ≤ 16000 * s8)

/-- Do the slot ranges of the contexts stay in 0 to 3,967 and apart (R393)? -/
def rangesOk (m : TopoMap) : Bool :=
  let used := m.ranges.filter fun (r : Nat × Nat) => r.2 != 0
  used.all (fun (r : Nat × Nat) => decide (r.1 + r.2 ≤ 3968)) &&
  pairsB (fun (a b : Nat × Nat) => decide (a.1 + a.2 ≤ b.1) || decide (b.1 + b.2 ≤ a.1)) used

/-- Do the link entries of a direct torus join neighbours, with no neighbour left out (R392, R393)? -/
def torusOk (m : TopoMap) : Bool :=
  m.devs.all fun d => (List.range (2 * m.ndim)).all fun p =>
    match linkAt m d.dev p with
    | some l => devAt m (stepCoord m d.coord (p / 2) (p % 2 == 0)) == some l.1 && l.2.1 == (if p % 2 = 0 then p + 1 else p - 1)
    | none => false

/-- Does a link entry of a direct torus agree with the coordinates of its devices (R393)? -/
def linkFits (m : TopoMap) (l : MapLink) : Bool :=
  decide (l.portA < 2 * m.ndim) && (m.devs.any fun d => d.dev == l.devA) &&
  devAt m (stepCoord m (coordOf m l.devA) (l.portA / 2) (l.portA % 2 == 0)) == some l.devB &&
  l.portB == (if l.portA % 2 = 0 then l.portA + 1 else l.portA - 1)

/-- Are the timing partners of every rail a symmetric pairing (R393, R594)? -/
def railsOk (m : TopoMap) : Bool :=
  m.links.all fun l => l.portA == l.portB && decide (l.portA < m.ndim) && l.devA != l.devB &&
    m.links.all fun k =>
      k.portA != l.portA ||
      ((k.devA == l.devA && k.devB == l.devB) || (k.devA == l.devB && k.devB == l.devA) ||
       (k.devA != l.devA && k.devA != l.devB && k.devB != l.devA && k.devB != l.devB))

/-- May jobs start in this hall (R393, R370)? -/
def hallPasses (m : TopoMap) (slow : Bool) : Bool :=
  distinct (m.devs.map (·.dev)) &&
  (m.switched || (distinct (m.devs.map fun d => d.coord.take m.ndim) &&
    (m.sizes.take m.ndim).foldl (· * ·) 1 == m.devs.length && torusOk m &&
    m.links.all (linkFits m))) &&
  (!m.switched || railsOk m) &&
  (match m.devs.head? with
    | some d => m.devs.all fun e => (distances m d.dev).any fun (x : Nat × Nat) => x.1 == e.dev
    | none => false) &&
  decide (maxDelay m ≤ 2000) && rangesOk m && delayOk m slow

/-! ### Routes (R398) -/

/-- A hop: device, port, whether it is a switch egress, and its offset in positions. -/
structure Hop where
  dev : Nat
  port : Nat
  egress : Bool
  off : Nat
  deriving DecidableEq, Repr

/-- HOPD. -/
def hopD (m : TopoMap) (slow : Bool) : Nat := ceilDiv (4 * maxDelay m + 640) (slot8At 0 slow)

/-- Hops along one dimension; the first argument is their number. -/
def dimHops (m : TopoMap) (hd i : Nat) (pos : Bool) : Nat → List Nat → Nat → List Hop
  | 0, _, _ => []
  | n + 1, c, off =>
    { dev := (devAt m c).getD 0, port := 2 * i + (if pos then 0 else 1), egress := false, off } ::
      dimHops m hd i pos n (stepCoord m c i pos) (off + hd)

/-- A route in a direct torus, dimension by dimension. -/
def torusRoute (m : TopoMap) (hd : Nat) (b : List Nat) : List Nat → List Nat → Nat → List Hop
  | [], _, _ => []
  | i :: rest, c, off =>
    let sz := m.sizes.getD i 1
    let d := (b.getD i 0 + sz - c.getD i 0) % sz
    let pos := decide (d ≤ sz - d)
    let n := if pos then d else sz - d
    dimHops m hd i pos n c off ++ torusRoute m hd b rest (modAt c i fun _ => b.getD i 0) (off + n * hd)

/-- The route between two devices. -/
def route (m : TopoMap) (slow : Bool) (a b : Nat) : List Hop :=
  if m.switched then
    let r := if m.ndim = 0 then 0 else (a + b) % m.ndim
    [{ dev := a, port := r, egress := false, off := 0 }, { dev := b, port := r, egress := true, off := 0 }]
  else torusRoute m (hopD m slow) (coordOf m b) (List.range m.ndim) (coordOf m a) 0

/-! ### The cells of a window (R397) -/

/-- What a cell of a window carries. -/
inductive CellKind where
  | data | header | sWord | partials | done
  deriving DecidableEq, Repr

/-- KIND of a hop's chain: the one of its chain entry here; a device that holds none has it from elsewhere, and the spec does not say
from where (a free value, log entry 25). -/
def hopKind (chains : List ChainEnt) (w : WinDecl) : Nat :=
  match chains.find? fun e => e.chain == w.chain with
  | some e => e.kind
  | none => Config.hopKind [w.win, w.src, w.dst, w.chain, w.stage, w.volume] % 4

/-- The number of partial cells of a hop, ceil(E / e): E by its chain's entry where the device holds one, else by its volume, which
also carries the done word and with FLAG the header word and the s word (R397). -/
def hopCells (chains : List ChainEnt) (w : WinDecl) : Nat :=
  match chains.find? fun e => e.chain == w.chain with
  | some e => partialCells e
  | none =>
    let c := cellEntries (hopKind chains w)
    ceilDiv ((w.volume - 8 - (if w.flag then 16 else 0)) / c.2) c.1

/-- The cells of a window in planned order. A local window has none (R400). -/
def windowCells (chains : List ChainEnt) (w : WinDecl) : List CellKind :=
  if w.src = w.dst then []
  else if w.kind = 2 then
    (if w.flag then [.header, .sWord] else []) ++ List.replicate (hopCells chains w) .partials ++ [.done]
  else List.replicate (ceilDiv w.volume 608) .data

/-- Does a cell travel against its window's direction? -/
def CellKind.reverse : CellKind → Bool
  | .sWord => true
  | .done => true
  | _ => false

/-- The devices between which a cell travels. -/
def cellEnds (w : WinDecl) (k : CellKind) : Nat × Nat := if k.reverse then (w.dst, w.src) else (w.src, w.dst)

/-! ### The plan (R400, R401) -/

/-- A position in use: device, port, egress and position. -/
abbrev Busy := List (Nat × Nat × Bool × Nat)

/-- The first position at which every hop of a route is free. -/
def freePos (busy : Busy) (hops : List Hop) : Nat → Nat → Nat
  | 0, q => q
  | f + 1, q =>
    if hops.all fun h => !busy.contains (h.dev, h.port, h.egress, q + h.off) then q else freePos busy hops f (q + 1)

/-- What planning has reached: positions in use and the records, newest first. -/
structure PlanAcc where
  busy : Busy := []
  recs : List PlanRec := []
  deriving DecidableEq, Repr

/-- Plan one cell: the next free position of the window goes on. -/
def planCell (first count : Nat) (m : TopoMap) (slow : Bool) (w : WinDecl) (acc : PlanAcc × Nat) (c : CellKind × Nat) :
    PlanAcc × Nat :=
  let ends := cellEnds w c.1
  let hops := route m slow ends.1 ends.2
  let q := freePos acc.1.busy hops (acc.1.busy.length * hops.length + 1) acc.2
  let recs := hops.zipIdx.map fun (h, i) =>
    { win := w.win, cell := c.2, hop := i, dev := h.dev, port := h.port, egress := h.egress
      phi := (q + h.off) / count, k := first + (q + h.off) % count : PlanRec }
  ({ busy := (hops.map fun h => (h.dev, h.port, h.egress, q + h.off)) ++ acc.1.busy, recs := recs.reverse ++ acc.1.recs }, q + 1)

/-- Plan one window. -/
def planWindow (first count : Nat) (m : TopoMap) (slow : Bool) (chains : List ChainEnt) (acc : PlanAcc) (w : WinDecl) : PlanAcc :=
  ((windowCells chains w).zipIdx.foldl (planCell first count m slow w) (acc, w.frameMin * count)).1

/-- The plan of a job in a context: the records in emit order (R400). With COUNT 0 it has none. -/
def planOf (m : TopoMap) (slow : Bool) (n : CtxId) (j : Job) : List PlanRec :=
  let r := m.ranges.getD n.val (0, 0)
  if r.2 = 0 then []
  else (j.wins.foldl (planWindow r.1 r.2 m slow j.chains) {}).recs.reverse

/-- The 16 bytes of a plan record (R401). -/
def PlanRec.words (r : PlanRec) : List Word :=
  [put r.win 44 ||| put r.cell 20 ||| put r.hop 14,
   put r.dev 49 ||| put r.port 46 ||| putB r.egress 45 ||| put r.phi 25 ||| put r.k 13]

/-- The plan digest (R401). -/
def planDigest (m : TopoMap) (rs : List PlanRec) : List Word :=
  bytesToWords (shake256 32 (wordsToBytes m.header ++ wordsToBytes (rs.flatMap PlanRec.words)))

/-- The declarations that the fabric sequencer plans with: the job's, or those of a transit load (R394). -/
def planJob (c : Ctx) : Option Job := match c.job with
  | some j => some j
  | none => c.transit

/-- Put a plan with its digest into a context. -/
def setPlan (n : CtxId) (s : State) : State :=
  match planJob (s.ctx n) with
  | none => s
  | some j =>
    let m := s.boot.cfg.map
    let rs := planOf m (slowMode s) n j
    s.modCtx n fun c => { c with x := { c.x with plan := rs, planDig := planDigest m rs, planBad := false } }

end Sys2Proof.Machine
end

