-- ==== Sys2Proof/Machine/Load.lean ====
section
/-! DEFINITION. What the orders LOAD, TRANSIT_LOAD, START, HALT, RESUME, UNLOAD, REPLAY, RESTORE and CKPT_READ do once their
sender is accepted (R196, R252 to R255, R258, R259, R268, R285, R394, R517, R540 to R542). Each answers a status and the
state after it. -/

namespace Sys2Proof.Machine

/-! ### LOAD (R252, R28) -/

/-- Do the shards' buffers hold 128 + LENGTH bytes (R415)? LENGTH is that of BUF0's header. A buffer whose entry the image does not hold is
not bound, and its absence is not detected (R598). -/
def shardsFit (s : State) (c : Ctx) (j : Job) : Bool :=
  j.shards.all fun d => match shardBuf c d 0 with
    | some b =>
      let len := hdrLength (shardHdr s b.1)
      (List.range d.nbuf).all fun i => match shardBuf c d i with
        | some x => decide (128 + len ≤ x.2)
        | none => true
    | none => true

/-- Does the tag reference name 64 bytes of a slab (R447)? 0 when it does, else the status. -/
def tagStatus (c : Ctx) (j : Job) : Nat :=
  let r := Ref.ofWord j.tagRef
  if r.space ≠ 0 then stFormatMismatch
  else match j.slabs.find? fun d => d.slab == r.num with
    | some d => if r.off + 64 ≤ d.lines * 64 then 0 else stSlabOverrun
    | none => (match slabBindOf c false r.num with
      | some _ => 0
      | none => if j.slabs.isEmpty then 0 else stSlabOverrun)

/-- Do signals on counters of other devices match the windows that the command sends to (R396)? -/
def remoteSigsOk (s : State) (n : CtxId) : Bool :=
  let c := s.ctx n
  (boundThreads c).all fun d => (threadCmds s c d).all fun (x : Nat × List Word × List Word) =>
    let sigs := (envSigs x.2.1).filter fun (g : Nat × Nat) => ctrRemote s c g.1
    sigs.isEmpty ||
      (let op := bodyOp x.2.2
       !(op == 0x60 || op / 16 == 7) ||
       (let ws := cmdWindows s n d x.1 x.2.2
        sigs.all fun g => ws.any fun w => match winDecl c w with
          | some w => w.sigs.contains g
          | none => false))

/-- The smallest REQ of a counter's waiting commands, and the cores they sit on (R285). -/
def ctrWaiters (s : State) (c : Ctx) (ctr : Nat) : List (Nat × Nat) :=
  (boundThreads c).flatMap fun d => (threadCmds s c d).flatMap fun (x : Nat × List Word × List Word) =>
    ((envWaits x.2.1).filter fun (w : Nat × Nat) => w.1 == ctr).map fun (w : Nat × Nat) => (w.2, (groupCore c d.group).getD 0)

/-- Mark the counters whose release triggers the ramp governor, with the value at which they are released (R285). -/
def markRamp (s : State) (c : Ctx) (k : CtrDesc) : CtrDesc :=
  let ws := ctrWaiters s c k.ctr
  let cores := dedup (ws.map fun (w : Nat × Nat) => w.2)
  { k with ramp := k.ramp || decide (16 < cores.length), rel := (minOver (fun (w : Nat × Nat) => w.1) ws).getD 0 }

/-- Are the thread tables within each die's TABLE (R259)? -/
def tablesFit (s : State) (n : CtxId) (j : Job) (b : Binds) : Bool :=
  [(0 : DieId), 1].all fun d =>
    let cnt := (j.threads.filter fun t => match assocGet t.group b.cores with
      | some c => dieOf (coreOf c) == d
      | none => false).length
    decide (cnt ≤ ((s.die d).lim[n.val]).table.toNat)

/-- Bind a job: slabs, mirrors and buffers (R258, R259, R311, R326). -/
def bindJob (s : State) (n : CtxId) (j : Job) : Option Binds :=
  let here := (j.groups.filter fun (g : Nat × Nat) => g.2 == devNum s).map fun (g : Nat × Nat) => g.1
  (bindGroups s n j.seed j.slabs {} here).bind fun b =>
    (bindMirrors s n j.slabs b (mirrorGroups (s.ctx n) j b.cores)).bind fun b =>
      (bindBufs s n j.bufs).map fun bs => { b with bufs := bs }

/-- LOAD (R252 step 1). -/
def loadJob (n : CtxId) (win seed first : Nat) (s : State) : Wrote :=
  if (s.ctx n).state != 0 then refuse stCtxBusy s
  else if s.sep.base.isNone then refuse stCtxResource s
  else match hostWin s n win with
  | none => refuse stDescBounds s
  | some w =>
    match (readImage (fun o k => s.readB (w.base + o) k) w.len false).bind fun r => jobOf r (devNum s) (s.ctx n).loose with
    | .error e => refuse e s
    | .ok j =>
      let j := { j with seed := seed % 2 ^ 32, firstStep := first }
      if 65536 < (j.ctrDevs.filter fun (x : Nat × Nat) => x.2 == devNum s).length then refuse stCtxResource s
      else match bindJob s n j with
      | none => refuse stCtxResource s
      | some b =>
        if !tablesFit s n j b then refuse stCtxResource s
        else
          let s1 := s.modCtx n fun c => { c with job := some j, b := b }
          let s1 := fillSlabs j (b.slabs ++ b.mirrors) s1
          let s1 := b.bufs.foldl (fun s x => fillBuf j x s) s1
          let c1 := s1.ctx n
          if !shardsFit s1 c1 j then refuse stFormatMismatch s
          else if tagStatus c1 j ≠ 0 then refuse (tagStatus c1 j) s
          else if !remoteSigsOk s1 n then refuse stFormatMismatch s
          else
            let j := { j with ctrs := j.ctrs.map (markRamp s1 c1) }
            let idle (k : CoreSt) : CoreSt := { k with dma := Vector.ofFn fun i => (let d := k.dma[i.val]
              if k.chan[i.val].valid && k.chan[i.val].ctx == n && d.state == 4 then { d with state := 0 } else d) }
            let s1 := (s1.allCores idle).allDies fun d => { d with shd := upd d.shd n fun _ => {} }
            let s1 := s1.modCtx n fun c => { c with
              job := some j, threads := [], runs := [], ctrs := []
              v := { t := first }, x := {}
              w := { shards := j.shards.map (fun d => { shard := d.shard, hist := [(0, 0)] }), artefacts := c.w.artefacts
                     scrubStep := c.w.scrubStep }
              dl := { c.dl with misses := 0, timeouts := 0, holdLeft := 0, stream := 0, fbNext := false, missed := false }
              shut := c.shut.map fun r => if r.whole then r else { r with prev := some (r.prevOf c) }
              prevAnchor := j.progDig }
            (stOk, setMode n 1 0 s1)

/-- TRANSIT_LOAD (R394): the declarations serve the fabric sequencer only; STATE is unchanged. -/
def transitLoad (n : CtxId) (win : Nat) (s : State) : Wrote :=
  match hostWin s n win with
  | none => refuse stDescBounds s
  | some w =>
    match (readImage (fun o k => s.readB (w.base + o) k) w.len true).bind fun r => transitJob r (s.ctx n).loose with
    | .error e => refuse e s
    | .ok j => (stOk, s.modCtx n fun c => { c with
        transit := some j, x := if c.job.isNone then {} else c.x, v := if c.job.isNone then {} else c.v })

/-! ### START (R252 step 2) -/

/-- May the held chain table stand (R196)? -/
def chainsOk (s : State) (c : Ctx) (j : Job) : Bool :=
  let held := j.chains.filter fun e => (threadDesc c e.thread).isSome && (stageCore c e).isSome
  held.all fun a =>
    let same := held.filter fun b => b.chain == a.chain
    decide ((same.filter fun b => b.role == 1).length ≤ 1) && decide ((same.filter fun b => b.role == 3).length ≤ 1) &&
    distinct (same.map (·.stage)) && (a.role != 1 || a.stage == 0) &&
    (a.role != 3 || same.all fun b => decide (b.stage ≤ a.stage)) &&
    (same.all fun b => b.kind == a.kind && b.kM1 == a.kM1 && b.rowsM1 == a.rowsM1 && b.width == a.width) &&
    (same.any (fun b => b.role == 3) == !hopFrom s c a.chain) &&
    (a.kind != 2 && a.kind != 3 ||
      same.all fun b => b.stage == a.stage ||
        !decide (max a.idxBase b.idxBase < min (a.idxBase + a.idxLen) (b.idxBase + b.idxLen)))

/-- Does context n hold a slot of engine e (0 ME, 1 EE, 2 RE, 3 LE) on a core (R273)? -/
def holdsSlot (s : State) (n : CtxId) (core e : Nat) : Bool :=
  let k := s.core (coreOf core)
  [0, 1].any fun h => (List.range 16).any fun i =>
    let x := fld ((k.ipat.toList).getD (e * 2 + h) 0) (4 * i + 3) (4 * i)
    x == 8 + n.val

/-- The pattern number of an engine. -/
def Eng.pat : Eng → Option Nat
  | .me => some 0
  | .ee => some 1
  | .re => some 2
  | .le => some 3
  | _ => none

/-- Has the context on a core what one command needs (R94, R135, R230, R274)? -/
def cmdResource (s : State) (n : CtxId) (core : Nat) (mirror : Option Nat) (body : List Word) : Bool :=
  let k := s.core (coreOf core)
  let p := wd body 1
  match engOf body with
  | some .me =>
    splitOf k.acc n != 0 && (!(fld p 33 32 == 1 || fld p 33 32 == 2) || splitOf k.que n != 0) && holdsSlot s n core 0 &&
      (match mirror with | some m => holdsSlot s n m 0 | none => true)
  | some .ee => splitOf k.sets n != 0 && holdsSlot s n core 1 && (match mirror with | some m => holdsSlot s n m 1 | none => true)
  | some .re => holdsSlot s n core 2 && (match mirror with | some m => holdsSlot s n m 2 | none => true)
  | some .le => holdsSlot s n core 3 && (match mirror with | some m => holdsSlot s n m 3 | none => true)
  | some .dma =>
    let has (i : Nat) : Bool := let ch := k.chan.toList.getD i {}; ch.valid && ch.ctx == n && ch.slices != 0
    if bodyOp body = 0x61 then (List.range 16).all fun i => !bit (wd body 0) (36 + i) || has i else has (fld (wd body 0) 55 52)
  | _ => true

/-- Has the context every resource that its commands need (R94, R135, R230, R274, R277, R283)? -/
def resourcesOk (s : State) (n : CtxId) (j : Job) : Bool :=
  let c := s.ctx n
  (boundThreads c).all (fun d =>
    let core := (groupCore c d.group).getD 0
    residentLimit s n core != 0 &&
    (threadCmds s c d).all fun (x : Nat × List Word × List Word) => cmdResource s n core (assocGet d.group c.b.mirrorCores) x.2.2) &&
  (!c.dl.fbEn || (c.loose && j.threads.any fun t => t.stream == 1))

/-- Do only commands that send cells name counters of other devices (R269)? -/
def countersOk (s : State) (n : CtxId) (j : Job) : Bool :=
  let c := s.ctx n
  (boundThreads c).all fun d => (threadCmds s c d).all fun (x : Nat × List Word × List Word) =>
    let waits := (envWaits x.2.1).any fun (w : Nat × Nat) => ctrRemote s c w.1
    let sigs := (envSigs x.2.1).any fun (g : Nat × Nat) => ctrRemote s c g.1
    !waits && (!sigs || ((cmdWindows s n d x.1 x.2.2).length != 0 &&
      !(j.chains.any fun e => e.thread == d.thread && e.cmd == x.1)))

/-- Does a plan record use a link between this device and a neighbour that announces Grey, in either direction (R517)? -/
def greyLink (s : State) (r : PlanRec) : Bool :=
  let grey (p : Nat) : Bool := (s.port (portOf p)).peerState == 2
  if r.dev == devNum s then grey r.port
  else match linkAt s.boot.cfg.map r.dev r.port with
    | some l => l.1 == devNum s && grey l.2.1
    | none => false

/-- Is a transition other than one into or out of Dim in progress? No job starts in it (R515, R517; log entry 42). -/
def leavesBright (p : PwrSt) : Bool := match p.trans with
  | .none => false
  | .dimIn => false
  | .dimOut => false
  | _ => true

/-- Is the hall fit for the job's windows (R370, R393, R400, R517)? -/
def hallFits (s : State) (n : CtxId) (j : Job) : Bool :=
  let count := (s.boot.cfg.map.ranges.getD n.val (0, 0)).2
  s.boot.hallOk && (count != 0 || j.wins.all fun w => w.src == w.dst) &&
  ((s.ctx n).x.plan.all fun r => !greyLink s r)

/-- Do the restored shards pass (R542): every BUF0's DIGEST, and VERSION against the restore list? -/
def restoreOk (s : State) (n : CtxId) (j : Job) : Bool :=
  let c := s.ctx n
  j.shards.all fun d => match shardBuf c d 0 with
    | some b =>
      let h := shardHdr s b.1
      payloadDigest (shardPayload s b.1 (hdrLength h)) == hdrDigest h &&
      (match assocGet d.shard c.w.restoreList with
        | some v => v == wd h 0
        | none => true)
    | none => true

/-- START (R252 step 2, R394, R468, R542). Where no PLAN_COMPUTE went before it, both fabric sequencers compute the plan here and agree
(log entry 55); a third computation that finishes fewer than 1,024 frames before the epoch comes too late. -/
def startJob (n : CtxId) (epoch : Nat) (restore : Bool) (gen : BitVec 32) (s0 : State) : Wrote :=
  match (s0.ctx n).job with
  | none => refuse stCtxBusy s0
  | some j =>
    let s := if (s0.ctx n).x.planDig.isEmpty then setPlan n s0 else s0
    let c := s.ctx n
    if c.state != 1 then refuse stCtxBusy s0
    else if leavesBright s.pwr then refuse stPowerState s0
    else if s.dies.toList.any fun d => d.digestSuspect || d.seqSuspect then refuse stUnitSuspect s0
    else if j.badTables || !chainsOk s c j || !countersOk s n j then refuse stFormatMismatch s0
    else if !resourcesOk s n j then refuse stCtxResource s0
    else if c.x.planBad then refuse stPlanCompute s0
    else if !hallFits s n j then refuse stTopologyLimit s0
    else if epoch * 65536 < max (frameNow s) c.x.planAt + 1024 then refuse stStartLate s0
    else if restore && !restoreOk s n j then refuse stCkptBad s0
    else
      let s := if s.pwr.now = 1 || s.pwr.trans == .dimIn then wakeBy 1 s else s
      let s := s.modCtx n fun c => { c with
        v := { t := j.firstStep, started := true, startEpoch := epoch, first := some (epoch * 65536 + 1), restored := restore }
        w := if restore then { c.w with gen := gen, shards := c.w.shards.map fun x => { x with hist := [(gen.toNat, x.cur)] } } else c.w
        dl := { c.dl with stallWait := 0 } }
      (stOk, setMode n 2 1 s)

/-! ### HALT, RESUME, REPLAY, UNLOAD -/

/-- HALT (R253, R254). During a power-state transition it applies when the transition ends (R516). -/
def haltOrder (n : CtxId) (s : State) : Wrote :=
  if (s.ctx n).state != 2 then refuse stCtxBusy s
  else if s.pwr.busy then (stOk, modV n (fun v => { v with haltPend := true }) s)
  else (stOk, haltCtx n 2 false s)

/-- A resume of a context: its mark goes out in the next frame f, and it takes effect at frame f + 2 (R254, R390). -/
def orderResume (n : CtxId) (s : State) : State :=
  let s := if s.pwr.now = 1 || s.pwr.trans == .dimIn then wakeBy 1 s else s
  modV n (fun v => { v with resumeSend := some (frameNow s + 1), resumeAt := some (frameNow s + 3) }) s

/-- RESUME (R253, R254): refused while a channel of the context is in STATE 4 (R247). -/
def resumeOrder (n : CtxId) (s : State) : Wrote :=
  let stuck := allCoreIds.any fun c => (chansOf (s.core c) n).any fun i => ((s.core c).dma[i.val]).state == 4
  if (s.ctx n).state != 3 || stuck then refuse stCtxBusy s else (stOk, orderResume n s)

/-- REPLAY (R255): a condemnation with cause REPLAY and a resume. An attempt that commits by R480 cannot be replayed. -/
def replayOrder (n : CtxId) (s : State) : Wrote :=
  let c := s.ctx n
  let faulted := !c.v.faults.isEmpty
  if !((c.state == 3 || c.state == 4) && c.v.started) || afterClose s n || (faulted && c.v.replayed) then refuse stCtxBusy s
  else
    let s := orderResume n (condemn n caReplay none s)
    (stOk, modV n (fun v => { v with toReplay := true, replayed := v.replayed || faulted }) s)

/-- End a job's presence: record, pins, bindings, counters and threads (R253, R418, R444). -/
def unloadCtx (n : CtxId) (cause : Nat) (err0 err1 : BitVec 256) (s : State) : State :=
  let c := s.ctx n
  let open_ := match c.record with
    | some r => r.t == c.v.t && r.status == 0
    | none => false
  let s := if open_ then markRecord n 3 s else s
  let s := stopChans n 3 (judgeReplay n false s)
  let s := reopenWindows n (releasePins n (fun _ => true) (dropAttempt n s))
  let s := closeRecord n err0 err1 s
  let s := setMode n 0 cause s
  s.modCtx n fun c => { c with
    job := none, b := {}, ctrs := [], threads := [], runs := [], v := {}
    w := { artefacts := c.w.artefacts, scrubStep := c.w.scrubStep }, x := {}, record := none, ramp := {} }

/-- UNLOAD (R253). -/
def unloadOrder (n : CtxId) (err0 err1 : BitVec 256) (s : State) : Wrote :=
  let st := (s.ctx n).state
  if st == 1 || st == 3 || st == 4 then (stOk, unloadCtx n 8 err0 err1 s) else refuse stCtxBusy s

/-! ### RESTORE and CKPT_READ (R542) -/

/-- RESTORE (R542): the shard image from a host window goes into the shard's BUF0. -/
def restoreShard (n : CtxId) (shard win : Nat) (s : State) : Wrote :=
  let c := s.ctx n
  if c.state != 1 then refuse stCtxBusy s
  else match shardDesc c shard, hostWin s n win with
  | some d, some w =>
    match shardBuf c d 0 with
    | some b =>
      let h := shardHdr s w.base
      let len := 128 + hdrLength h
      if w.len < len || b.2 < len then refuse stDescBounds s
      else if pubHeld s b.1 len then refuse stCtxBusy s
      else
        let s := s.writeB b.1 (s.readB w.base len)
        (stOk, s.modCtx n fun c => { c with w := { c.w with
          restoreList := assocSet shard (wd h 0) c.w.restoreList
          shards := modFirst (fun x => x.shard == shard) (fun x => { x with cur := 0, hist := [(0, 0)] }) c.w.shards } })
    | none => refuse stDescBounds s
  | _, _ => refuse stDescBounds s

/-- CKPT_READ (R542, R552): the held buffer of a shard goes into a host window. One whose bytes the owner may still read as published,
or that is pending, does not change: the request is refused with CTX_BUSY, and so is a RESTORE over such bytes (R544, log entry 57). -/
def ckptRead (n : CtxId) (shard win : Nat) (s : State) : Wrote :=
  let c := s.ctx n
  if !s.sep.held[n.val] then refuse stNotHeld s
  else match shardDesc c shard, shardOf c shard, hostWin s n win with
  | some d, some x, some w =>
    if d.frozen then refuse stNotHeld s
    else match shardBuf c d (curAt x s.sep.heldGen[n.val].toNat) with
    | some b =>
      let len := 128 + hdrLength (shardHdr s b.1)
      if w.len < len then refuse stDescBounds s
      else if pubHeld s w.base len then refuse stCtxBusy s
      else (stOk, s.writeB w.base (s.readB b.1 len))
    | none => refuse stDescBounds s
  | _, _, _ => refuse stDescBounds s

end Sys2Proof.Machine
end

