-- ==== Sys2Proof/Machine/Issue.lean ====
section
/-! DEFINITION. The dispatcher: waits (R267, R271), the envelope's checks (R265), engine room and slots (R233, R271, R273 to
R276, R406), issue with each engine's checks, the Shade selection and mirrors (R312, R460 to R464), completion and signals
(R268), and the wait limit (R281). -/

namespace Sys2Proof.Machine

/-! ### Heads and waits -/

/-- A resident thread with its head command: index, envelope and body. -/
structure Head where
  t : ThreadRun
  env : List Word
  body : List Word

/-- The head command of a resident thread that has not halted (R270). -/
def headOf (s : State) (c : Ctx) (t : ThreadRun) : Option Head :=
  if !t.resident || t.halted then none
  else (threadDesc c t.thread).bind fun d =>
    if t.next < d.ncmd then (cmdAddr c false d t.next).map fun a =>
      let w := cmdWords s a
      { t, env := w.1, body := w.2 }
    else none

/-- The signal instant at which a wait became satisfied, none while it is not (R267, R271). A counter that the device does
not hold does not hold the command back from its check. -/
def waitStamp (c : Ctx) (w : Nat × Nat) : Option Nat :=
  match c.ctrs.find? fun k => k.ctr == w.1 with
  | none => some 0
  | some k =>
    if w.2 < k.value then none
    else
      let init := ((((c.job.map (·.ctrs)).getD []).find? fun d => d.ctr == w.1).map (·.init)).getD k.value
      if init ≤ w.2 then some 0
      else ((k.hist.filter fun (h : Nat × Nat) => decide (h.2 ≤ w.2)).getLast?).map fun (h : Nat × Nat) => h.1

/-- The instant at which every wait of an envelope was satisfied. -/
def readyAt (c : Ctx) (env : List Word) : Option Nat :=
  (envWaits env).foldl (fun acc w => match acc, waitStamp c w with
    | some a, some b => some (max a b)
    | _, _ => none) (some 0)

/-- The envelope's checks (R265). -/
def envOk (c : Ctx) (env body : List Word) : Bool :=
  let known (ctr : Nat) : Bool := match c.job with
    | some j => j.ctrs.any (fun d => d.ctr == ctr) || j.ctrDevs.any fun (d : Nat × Nat) => d.1 == ctr
    | none => false
  let e := engOf body
  e.isSome && fld (wd env 0) 57 0 == 0 && ([wd env 1, wd env 2].all fun w => fld w 43 32 == 0) &&
  ([wd env 3, wd env 4].all fun w => fld w 43 40 == 0 && fld w 31 0 == 0) && ((env.drop 5).all (· == 0)) &&
  ([wd env 1, wd env 2, wd env 3, wd env 4].all fun w => fld w 63 44 == 0 || known (fld w 63 44)) &&
  ([wd env 3, wd env 4].all fun w => fld w 63 44 == 0 || fld w 39 32 != 0) &&
  (fld (wd env 0) 63 58 == 0 || e == some .me || e == some .ee)

/-! ### Engine room (R233, R271, R406) -/

/-- The uncompleted commands of a context in an engine of a core. -/
def runsOn (s : State) (n : CtxId) (e : Eng) (core : Nat) : List Run :=
  (s.ctx n).runs.filter fun r => r.eng == e && r.core == core

/-- The accumulator sets in use on a core (R93, R201). -/
def setsUsed (s : State) (core : Nat) : List Nat :=
  allCtxIds.flatMap fun m => ((runsOn s m .me core).filter fun r => !r.executed).map (·.set)

/-- The lowest free accumulator set of a core. -/
def freeSet (s : State) (core : Nat) : Nat :=
  ((List.range 8).find? fun i => !(setsUsed s core).contains i).getD 0

/-- The queue entry that an EE command consumes: the context's oldest on the core, while nobody holds it (R164). -/
def oldestEntry (s : State) (n : CtxId) (core : Nat) : Option QEntry :=
  ((s.core (coreOf core)).queue.filter fun q => q.ctx == n).head?.bind fun q => if q.held.isNone then some q else none

/-- Can an engine accept a command for a context (R271)? -/
def engineRoom (s : State) (n : CtxId) (core : Nat) (body : List Word) : Bool :=
  let k := s.core (coreOf core)
  match engOf body with
  | some .me => decide (((runsOn s n .me core).filter fun r => !r.executed).length < splitOf k.acc n)
  | some .ee => decide ((runsOn s n .ee core).length < splitOf k.sets n) && (!eeQueue body || (oldestEntry s n core).isSome)
  | some .re => decide ((runsOn s n .re core).length < 4)
  | some .le => decide ((runsOn s n .le core).length < 4)
  | some .dma =>
    if bodyOp body = 0x61 then true
    else
      let d := (k.dma.toList).getD (fld (wd body 0) 55 52) {}
      d.state != 4 && decide (d.queue.length ≤ 8)
  | some .xe => decide (((s.ctx n).runs.filter fun r => r.eng == .xe && r.core / 64 == core / 64).length < 4)
  | _ => true

/-- The engine that COMMAND_ISSUE names. -/
def engCode (e : Nat) : Option Eng :=
  match e with
  | 0 => some .me
  | 1 => some .ee
  | 2 => some .re
  | 3 => some .le
  | 4 => some .dma
  | 5 => some .xe
  | 6 => some .join
  | _ => none

/-- Does a head go to an engine? A command with an invalid operation byte faults at the dispatcher, with JOIN. -/
def headFor (e : Eng) (h : Head) : Bool := match engOf h.body with
  | some x => x == e
  | none => e == .join

/-- The heads of a context on a core that an engine can take now. -/
def issuable (s : State) (n : CtxId) (core : Nat) (e : Eng) : List (Nat × Head) :=
  let c := s.ctx n
  if !runsNow s n || !c.v.live then []
  else ((c.threads.filter fun t => t.core == core).filterMap (headOf s c)).filterMap fun h =>
    if headFor e h && engineRoom s n core h.body then (readyAt c h.env).map fun t => (t, h) else none

/-- The head that the dispatcher chooses (R271). -/
def chooseHead (l : List (Nat × Head)) : Option Head :=
  (argMin (fun (a b : Nat × Head) => decide (a.1 < b.1) || (a.1 == b.1 && decide (a.2.t.thread < b.2.t.thread))) l).map
    fun (x : Nat × Head) => x.2

/-! ### Slots (R273 to R276, R506, R513) -/

/-- The owner field of a slot of an engine's pattern on a core. -/
def slotField (s : State) (core p slot : Nat) : Nat :=
  let w := ((s.core (coreOf core)).ipat.toList).getD (p * 2 + slot / 16) 0
  fld w (4 * (slot % 16) + 3) (4 * (slot % 16))

/-- Has a counter settled (R174): every command of the step here that signals it has completed, and every window that signals it
has applied its signals? -/
def settled (s : State) (n : CtxId) (ctr : Nat) : Bool :=
  let c := s.ctx n
  (c.threads.all fun t => match threadDesc c t.thread with
    | some d => (threadCmds s c d).all fun (x : Nat × List Word × List Word) =>
        !((envSigs x.2.1).any fun (g : Nat × Nat) => g.1 == ctr) ||
        (decide (x.1 < t.next) && !c.runs.any fun r => r.thread == t.thread && r.cmd == x.1)
    | none => true) &&
  (((c.job.map (·.wins)).getD []).all fun w =>
    w.dst != devNum s || !(w.sigs.any fun (g : Nat × Nat) => g.1 == ctr) || c.x.applied.contains w.win)

/-- The counter of an LCTR. -/
def Run.lctr (r : Run) : Nat := fld (wd r.body 4) 63 44

/-- Does an LCTR still wait for its counter to settle (R174)? -/
def lctrWaits (s : State) (n : CtxId) (r : Run) : Bool :=
  r.eng == .le && r.opcode == 0x3C && !r.lent && !r.executed && !settled s n r.lctr

/-- Can an operation in an engine go on: it does not wait for rows, words, a queue entry or a counter (R275)? -/
def canProgress (s : State) (n : CtxId) (r : Run) : Bool :=
  match r.eng with
  | .me => !r.executed && (r.phase == 2 || r.phase == 7 || mayJudge r ||
      (r.phase == 6 && queueRoom s n (coreOf r.core) && queueTurn s n r))
  | .re => !r.executed && (r.phase == 2 || r.phase == 7 || mayJudge r)
  | .ee => !r.executed && (r.phase == 0 || r.phase == 7)
  | .le => !r.executed && !lctrWaits s n r
  | _ => !r.executed

/-- Is a check still to be compared: undecided, with a checker, and without a mismatch shown? -/
def openCheck (k : Option Check) : Bool :=
  match k with
  | some k => !k.decided && !k.mism && k.checker.isSome
  | none => false

/-- Does a second or third execution of a context wait for a slot of an engine on a core (R464, R470)? -/
def checkWaits (s : State) (n : CtxId) (core : Nat) (e : Eng) : Bool :=
  let third (k : Option Check) : Bool := match k with
    | some k => k.mism && !k.decided && k.third == some core
    | none => false
  let second (k : Option Check) : Bool := openCheck k && (k.bind (·.checker)) == some core
  (s.ctx n).runs.any fun r => r.eng == e && (second r.check || second r.final || third r.check || third r.final || third r.mirror)

/-- Has a context work for an engine on a core: a head it can take, an operation that can go on, or a check execution that waits
there (R275)? -/
def hasWork (s : State) (n : CtxId) (core : Nat) (e : Eng) : Bool :=
  !(issuable s n core e).isEmpty || ((runsOn s n e core).any (canProgress s n)) || checkWaits s n core e

/-- Has a context a slot of its own of an engine on a core? -/
def ownsSlot (s : State) (n : CtxId) (core p : Nat) : Bool := (List.range 32).any fun i => slotField s core p i == 8 + n.val

/-- The context whose check executions an unowned slot serves: the lowest that runs, owns no slot there, and has one that waits
(R275, R464). -/
def checkTurn (s : State) (core p : Nat) (e : Eng) : Option CtxId :=
  allCtxIds.find? fun m => runsNow s m && !ownsSlot s m core p && checkWaits s m core e

/-- The length of an engine's beat in ns (R273): 64 cycles of the ME, 32 of the others. -/
def beatNs (s : State) (p : Nat) : Nat := ceilDiv ((if p = 0 then 64 else 32) * 1000) (clockMHz s.ind.cadNow.toNat)

/-- The context to which a slot was lent in the beat that runs. -/
def lentNow (s : State) (core p slot : Nat) : Option CtxId :=
  match ((s.core (coreOf core)).lent.toList).getD p none with
  | some l => if l.slot = slot && decide (l.at_ ≤ nsNow s) && decide (nsNow s < l.at_ + beatNs s p) then some l.ctx else none
  | none => none

/-- The borrower of a slot: the one that has it in the beat that runs, else the next in turn with work (R275). The owner's work ends a
loan, and so does a check that waits for an unowned slot (R276). -/
def borrowerOf (s : State) (core p slot : Nat) (e : Eng) : Option CtxId :=
  let x := slotField s core p slot
  let owner : Option CtxId := if 8 ≤ x then some (ctxOf x) else none
  let free := match owner with
    | some m => !hasWork s m core e
    | none => (checkTurn s core p e).isNone
  let last := ((s.core (coreOf core)).borrower.toList).getD p 7
  let order := (List.range 8).map fun i => ctxOf (last.val + 1 + i)
  if !free then none
  else (lentNow s core p slot).or (order.find? fun m => some m != owner && (s.ctx m).borrow && hasWork s m core e)

/-- May context n issue in a slot: its own, or one lent to it? none when it may not; some true for a lent slot. An unowned slot
serves the check executions that wait for it before it is lent (R275). -/
def slotFor (s : State) (n : CtxId) (core p slot : Nat) (e : Eng) : Option Bool :=
  if slotField s core p slot = 8 + n.val then some false
  else if borrowerOf s core p slot e == some n then some true else none

/-- A slot is lent to a context for the beat, to issue or to go on with an operation (R275). -/
def lendSlot (n : CtxId) (core : CoreId) (p slot : Nat) (s : State) : State :=
  if lentNow s core.val p slot = some n then s
  else s.modCore core fun k => { k with
    borrower := Vector.ofFn fun i => if i.val = p then n else k.borrower[i.val]
    lent := Vector.ofFn fun i => if i.val = p then some { slot, ctx := n, at_ := nsNow s } else k.lent[i.val] }

/-- Do the power limits let an engine begin a command in a beat (R506, R513, R585, R286)? -/
def powerLets (s : State) (n : CtxId) (core slot : Nat) (patterned : Bool) : Bool :=
  let w : Fin 8 := ⟨core % 8, Nat.mod_lt _ (by decide)⟩
  (s.ctx n).ramp.released[w.val] && !s.pwr.isolated && s.pwr.waves[w.val] != 2 &&
    !s.pwr.clamped.getLsbD (dieOf (coreOf core)).val && !(patterned && s.pwr.guard && slot % 2 == 1)

/-! ### Shade selection (R460 to R464) and mirrors (R312) -/

/-- Is a command selected (R462)? -/
def shadeSelected (c : Ctx) (thread cmd : Nat) : Bool :=
  let T : List Nat := [0, 0x01000000, 0x04000000, 0x10000000, 0x40000000]
  let J : List (BitVec 32) := [BitVec.ofNat 32 c.sel.seedA.toNat, BitVec.ofNat 32 (c.sel.seedA.toNat >>> 32), 0x53484144, 0]
  decide (((ash J c.v.t 0xFFFF 0x5348 thread cmd c.v.a).getD 0 0).toNat < T.getD c.sel.fractionA.toNat 0)

/-- The partner of a core by the formula of R463. -/
def partnerOf (t : Nat) (seed : Word) (core : Nat) : Nat :=
  let o := 1 + (t + seed.toNat % 2 ^ 32) % 15
  ((core / 8 + o) % 16) * 8 + (core + t) % 8

/-- Has a context an owned or an unowned slot of an engine on a core? -/
def slotOn (s : State) (n : CtxId) (core p : Nat) : Bool :=
  (List.range 32).any fun i => let x := slotField s core p i; x == 8 + n.val || decide (x < 8)

/-- The partner core for a check; a final-stage check also needs a slot of the engine there (R463). -/
def checker (s : State) (n : CtxId) (core : Nat) (final : Option Nat) : Option Nat :=
  let c := s.ctx n
  let p := partnerOf c.v.t c.sel.seedA core
  let good (x : Nat) : Bool := !(s.core (coreOf x)).quarantined && x / 8 != core / 8 &&
    (match final with | some e => slotOn s n x e | none => true)
  ((List.range 128).map fun i => (p + i) % 128).find? good

/-- Count on the die of a core in SHD_CNT. -/
def countShd (n : CtxId) (core : Nat) (f : ShdCnt → ShdCnt) (s : State) : State :=
  s.modDie (dieOf (coreOf core)) fun d => { d with shd := upd d.shd n f }

/-- Attach the checks that a command gets at its issue: Shade's sample, the mirror's, and the final stage's. A counter read in a
borrowed slot depends on its instant, so it has no check (R174, R460; log entry 32). -/
def addChecks (n : CtxId) (r : Run) (s : State) : State × Run :=
  let c := s.ctx n
  let sel := match r.eng.pat with
    | some _ => c.sel.fractionA != 0 && !(r.lent && r.opcode == 0x3C) && shadeSelected c r.thread r.cmd
    | none => false
  let (s, r) : State × Run :=
    if !sel then (s, r)
    else
      match checker s n r.core none, r.eng.pat with
      | some p, some e =>
        if slotOn s n p e then
          (countShd n r.core (fun x => { x with selected := satAdd x.selected 1 }) s,
           { r with check := some { cause := caShadeTile, checker := some p } })
        else (countShd n r.core (fun x => { x with skipped := satAdd x.skipped 1 }) s, r)
      | _, _ => (countShd n r.core (fun x => { x with selected := satAdd x.selected 1 }) s,
          { r with check := some { cause := caShadeTile, checker := none, mism := true } })
  let grp := ((threadDesc c r.thread).map (·.group)).getD 0
  let r : Run := match assocGet grp c.b.mirrorCores with
    | some m => if r.eng = .join || r.opcode = 0x61 then r
        else { r with mirror := some { cause := if c.priv then caPrivileged else caUpdate, checker := some m } }
    | none => r
  let r : Run := if r.role = 3 && crossDevice c r.chain then
      (let k := checker s n r.core r.eng.pat
       { r with final := some { cause := caFinalStage, checker := k, mism := k.isNone } })
    else r
  (s, r)

/-! ### Issue -/

/-- A command as it enters its engine: chain place, s or header words, and what it holds. -/
def enterMe (s : State) (n : CtxId) (r : Run) : Chk Run := do
  let o ← meRead (r.ec s n) r.env r.body
  let r := { r with set := freeSet s r.core, ops := .me o }
  match o.declared with
  | some x => .ok { r with s := x, phase := 2 }
  | none =>
    if r.role = 0 then .ok { r with s := o.headS o.heads, phase := 2 }
    else .ok { r with hdr := o.heads, phase := 1 }

/-- An RE command as it enters its engine (R183). -/
def enterRe (s : State) (n : CtxId) (r : Run) : Chk Run := do
  let o ← reRead (r.ec s n) r.body
  let r := { r with ops := .re o }
  match o.declared with
  | some x => .ok { r with s := x, phase := 2 }
  | none =>
    let e := tilesExp o.src.toList
    if r.role = 0 then .ok { r with s := sumS e o.kt, phase := 2 }
    else .ok { r with hdr := [e, none, none, none], phase := 1 }

/-- An EE command as it enters its engine, with the queue entry that it consumes (R164). -/
def enterEe (s : State) (n : CtxId) (r : Run) : Chk Run :=
  (eeRead (r.ec s n) r.env r.body (if eeQueue r.body then oldestEntry s n r.core else none)).map fun o => { r with ops := .ee o }

/-- An LE command as it enters its engine. -/
def enterLe (s : State) (n : CtxId) (r : Run) : Chk Run := (leRead (r.ec s n) r.body).map fun o => { r with ops := .le o }

/-- An XE command as it enters its engine. One that names a NEXT view without an alternate is checked when its wait ends
(R411, R421). -/
def enterXe (s : State) (n : CtxId) (r : Run) : Chk Run :=
  if xeHeld (s.ctx n) r.body then .ok r else (xeRead (r.ec s n) r.body).map fun o => { r with ops := .xe o }

/-- The checks of a DMA command before issue (R232, R243). -/
def enterDma (s : State) (n : CtxId) (r : Run) : Chk Run := do
  let w := wd r.body 0
  let ch := (s.core (coreOf r.core)).chan[r.chan.val]
  let rest := (r.body.drop 1).all (· == 0)
  let good := match r.opcode with
    | 0x60 => fld w 51 0 == 0 && (r.body.drop 2).all (· == 0) && ch.valid && ch.ctx == n
    | 0x61 => fld w 55 52 == 0 && fld w 51 36 != 0 && fld w 35 0 == 0 && rest
    | 0x62 => (s.ctx n).loose && (r.body.drop 4).all (· == 0) && ch.valid && ch.ctx == n
    | _ => false
  req good flFormatMismatch
  .ok r

/-- The writes that a DSETTLE covers: window cells that left the engine and are not yet acknowledged (R245). -/
def settleSet (s : State) (n : CtxId) (r : Run) : List (Nat × Nat) :=
  ((chansOf (s.core (coreOf r.core)) n).filter fun i => bit (wd r.body 0) (36 + i.val)).flatMap fun i =>
    ((s.core (coreOf r.core)).dma[i.val]).pendingWins.filter fun x => !(s.ctx n).x.acked.contains x

/-- Put a checked command into its engine. -/
def enterEngine (n : CtxId) (r : Run) (s : State) : State :=
  let core := coreOf r.core
  let r : Run := if r.opcode = 0x61 && r.eng == .dma then { r with written := settleSet s n r } else r
  let x := addChecks n r s
  let s := x.1.modCtx n fun c => { c with runs := c.runs ++ [x.2] }
  if r.eng == .dma && r.opcode != 0x61 then
    modChan core r.chan (fun d =>
      if d.state = 0 then { d with state := 1, cmd := BitVec.ofNat 16 r.cmd, queue := [(r.thread, r.cmd)] }
      else { d with queue := d.queue ++ [(r.thread, r.cmd)] }) s
  else if r.eng == .ee && eeQueue r.body then
    s.modCore core fun k => { k with queue := modFirst (fun q => q.ctx == n) (fun q => { q with held := some (r.thread, r.cmd) }) k.queue }
  else s

/-- The thread goes on to its next command, and leaves residency after its last (R270). -/
def advanceThread (n : CtxId) (thread : Nat) (s : State) : State :=
  let s := s.modCtx n fun c => { c with threads := c.threads.map fun t =>
    if t.thread = thread then
      (let last := match threadDesc c thread with
        | some d => decide (d.ncmd ≤ t.next + 1)
        | none => true
       { t with next := t.next + 1, waited := 0, waitOn := 0, resident := t.resident && !last })
    else t }
  fillResident n s

/-- Issue a head command: the envelope's checks, the engine's own, then the engine takes it (R265, R271). It waits while a bank that
the checks read is being cleared (R216). -/
def issueHead (n : CtxId) (h : Head) (lent : Bool) (s : State) : State :=
  let c := s.ctx n
  let fault (x : Nat × Word) (s : State) : State := threadFault n h.t.thread h.t.next x.1 x.2 [] s
  if !envOk c h.env h.body then fault (flFormatMismatch, 0) s
  else
    let eng := (engOf h.body).getD .join
    let r0 : Run := { thread := h.t.thread, cmd := h.t.next, core := h.t.core, eng, env := h.env, body := h.body, lent }
    let r0 : Run := match chainOf c r0.thread r0.cmd with
      | some e => { r0 with stage := some e.stage, chain := e.chain, role := e.role }
      | none => r0
    let x : Chk Run := match eng with
      | .me => enterMe s n r0
      | .ee => enterEe s n r0
      | .re => enterRe s n r0
      | .le => enterLe s n r0
      | .dma => enterDma s n r0
      | .xe => enterXe s n r0
      | .join => .ok r0
    match x with
    | .error e => if e.1 = flWait then s else fault e s
    | .ok r => enterEngine n r (advanceThread n r.thread s)

/-- COMMAND_ISSUE (R271): in a beat with slot `slot`, engine `eng` of a core takes the head command that the dispatcher
chooses. Engines: 0 ME, 1 EE, 2 RE, 3 LE, 4 DMA, 5 XE, 6 JOIN. -/
def execCommandIssue (n : CtxId) (core : CoreId) (eng slot : Nat) (s : State) : Host.Outcome State Fault Refusal :=
  match engCode eng with
  | none => ok s
  | some e =>
    if !isBright s || (s.core core).quarantined then ok s
    else if (s.ctx n).ramp.onIssue && !(issuable s n core.val e).isEmpty then
      ok (rampTrigger n (s.modCtx n fun c => { c with ramp := { c.ramp with onIssue := false } }))
    else
      let patterned := e.pat.isSome
      let place : Option Bool := match e.pat with
        | some p => slotFor s n core.val p (slot % 32) e
        | none => some false
      match place, chooseHead (issuable s n core.val e) with
      | some lent, some h =>
        if !powerLets s n core.val slot patterned then ok s
        else if lent && bodyOp h.body = 0x3C && !(s.ctx n).loose then ok s
        else
          let s := match lent, e.pat with
            | true, some p => lendSlot n core p (slot % 32) s
            | _, _ => s
          ok (issueHead n h lent s)
      | some true, none => ok (match e.pat with | some p => lendSlot n core p (slot % 32) s | none => s)
      | _, _ => ok s

/-- JOIN (R264): it completes one cycle after issue. -/
def execJoin (n : CtxId) (thread cmd : Nat) (s : State) : Host.Outcome State Fault Refusal :=
  ok (withRun s n thread cmd (fun r => r.eng == .join && !r.executed) fun _ =>
    modRun n thread cmd (fun r => { r with executed := true }) s)

/-! ### Signals and completion (R268) -/

/-- A signal: who gives it, the counter and the amount. -/
structure SigReq where
  thread : Nat
  cmd : Nat
  ctr : Nat
  dec : Nat
  deriving DecidableEq, Repr

/-- What follows from a counter's fall: pins (R418), publication (R544) and the ramp governor (R285). -/
def counterFell (n : CtxId) (ctr old new : Nat) (s : State) : State :=
  let j := ((s.ctx n).job.map (·.ctrs)).getD []
  let rel := ((j.find? fun d => d.ctr == ctr).map (·.rel)).getD 0
  let ramp := ((j.find? fun d => d.ctr == ctr).map (·.ramp)).getD false
  let released := decide (new ≤ rel) && decide (rel < old)
  let s := if new = 0 then
      freePins n (fun p => match pinDesc (s.ctx n) p.pin with | some d => d.relCtr == ctr | none => false) s
    else s
  let s : State := if released then
      { s with host := { s.host with windows := s.host.windows.map fun w =>
          if w.ctx = n && w.dir && w.pubCtr = ctr && w.state = 0 then { w with state := 1 } else w } }
    else s
  if released && ramp then rampTrigger n s else s

/-- Apply one signal; counters that underflowed in this instant take no more (R268). -/
def applySig (n : CtxId) (acc : State × List Nat) (g : SigReq) : State × List Nat :=
  let (s, bad) := acc
  if bad.contains g.ctr then acc
  else match (s.ctx n).ctrs.find? fun k => k.ctr == g.ctr with
  | none => acc
  | some k =>
    if k.value < g.dec then (threadFault n g.thread g.cmd flDepUnderflow (put g.ctr 44 ||| put k.value 0) [] s, g.ctr :: bad)
    else
      let v := k.value - g.dec
      let s := s.modCtx n fun c => { c with
        ctrs := modFirst (fun k => k.ctr == g.ctr) (fun k => { k with value := v, hist := (c.stamp + 1, v) :: k.hist }) c.ctrs }
      (counterFell n g.ctr k.value v s, bad)

/-- Apply the signals of one instant, in the order given; the pins that they release free their buffers together (R421). -/
def applySigs (n : CtxId) (gs : List SigReq) (s : State) : State :=
  let t := (gs.foldl (applySig n) (s, [])).1
  afterReleases n (s.ctx n).w.pins (t.modCtx n fun c => { c with stamp := c.stamp + 1 })

/-- Does a command wait for its chain's done word (R158, R201)? -/
def awaitsDone (r : Run) : Bool := (r.role == 1 || r.role == 2) && !r.retDone

/-- Can a command complete: its outputs are written and every comparison of it is decided (R465, R466, R313)? -/
def canComplete (r : Run) : Bool := r.executed && !awaitsDone r && r.checks.all fun k => k.decided

/-- The signals that a command's completion applies here: its own, and those of local windows it filled (R400). -/
def completionSigs (s : State) (n : CtxId) (r : Run) : List SigReq :=
  let c := s.ctx n
  let own := ((envSigs r.env).filter fun (g : Nat × Nat) => !ctrRemote s c g.1).map fun (g : Nat × Nat) =>
    { thread := r.thread, cmd := r.cmd, ctr := g.1, dec := g.2 : SigReq }
  let wins := r.windows.filterMap fun w => (winDecl c w).bind fun d => if d.src = d.dst then some d else none
  own ++ wins.flatMap fun d => d.sigs.map fun (g : Nat × Nat) => { thread := r.thread, cmd := r.cmd, ctr := g.1, dec := g.2 }

/-- COMMAND_COMPLETE (R268): the commands that complete in one cycle; their signals apply in ascending thread and index. -/
def execCommandComplete (n : CtxId) (done : List (Nat × Nat)) (s : State) : Host.Outcome State Fault Refusal :=
  let c := s.ctx n
  let rs := sortBy (fun a b => decide (a.thread < b.thread) || (a.thread == b.thread && decide (a.cmd ≤ b.cmd)))
    (c.runs.filter fun r => done.contains (r.thread, r.cmd) && canComplete r && working s n r.core)
  if rs.isEmpty then ok s
  else
    let gone (r : Run) : Bool := rs.any fun x => x.thread == r.thread && x.cmd == r.cmd
    let sigs := rs.flatMap (completionSigs s n)
    let local_ := rs.flatMap fun r => r.windows.filter fun w => match winDecl c w with
      | some d => d.src == d.dst
      | none => false
    let s := s.modCtx n fun c => { c with runs := c.runs.filter fun r => !gone r, x := { c.x with applied := c.x.applied ++ local_ } }
    let s := s.allCores fun k => { k with queue := k.queue.filter fun q => !(q.ctx == n && match q.held with
      | some h => rs.any fun r => r.thread == h.1 && r.cmd == h.2
      | none => false) }
    ok (noteEnd n (applySigs n sigs s))

/-! ### The wait limit (R281) -/

/-- The wait limit in frames. -/
def waitLimit (c : Ctx) : Nat := (c.dl.waitLimitA.toNat + 1) * 16

/-- The limited wait that an issued command is in, 0 for none: the s or a word of its chain, its next partial row, or the done word
(R204), a settle (R245), a counter (R174), or a reference that waits (R421, R405, R433, R544). -/
def runWait (s : State) (n : CtxId) (r : Run) : Nat :=
  let c := s.ctx n
  if r.role != 0 && r.phase == 1 then 1
  else if r.role != 0 && r.executed && awaitsDone r then 2
  else if r.role != 0 && r.phase == 3 && !rowsIn s c r then 16 + 16 * r.inRows.length
  else if r.executed then 0
  else match r.eng with
    | .dma => match r.opcode with
      | 0x60 =>
        if chanHead s r && (match r.ops with
            | .copy xs => copyWaits s n r xs
            | _ => match dcopyWalk (r.ec s n) r.body with
              | .ok ds => descsHeld (r.ec s n) ds
              | .error _ => false) then 3 else 0
      | 0x62 =>
        if chanHead s r && (match r.ops with
            | .scatter fmt sa da ixs => scatterWaits s r fmt sa da ixs
            | _ => [wd r.body 1, wd r.body 2, wd r.body 3].any fun w => refWaits c (Ref.ofWord w)) then 3 else 0
      | _ => if r.written.all fun x => c.x.acked.contains x then 0 else 4
    | .xe => if (match r.ops with
        | .xe o => let x := xeDone (r.ec s n) o; x.pubHeld s o || x.refs.any (refWaits c)
        | _ => xeHeld c r.body) then 3 else 0
    | .le => if lctrWaits s n r then 5 else 0
    | _ => 0

/-- Is an issued command in the limited wait that its count belongs to? -/
def runWaits (s : State) (n : CtxId) (r : Run) : Bool := runWait s n r != 0 && runWait s n r == r.waitOn

/-- The limited wait that a head command is in, 0 for none: an unsatisfied wait, a full engine, or a missing queue entry. -/
def headWait (s : State) (n : CtxId) (h : Head) : Nat :=
  if (readyAt (s.ctx n) h.env).isNone then 1
  else if engineRoom s n h.t.core h.body then 0
  else if eeQueue h.body && (oldestEntry s n h.t.core).isNone then 2
  else 3

/-- Is a head command in the limited wait that its thread's count belongs to? -/
def headWaits (s : State) (n : CtxId) (h : Head) : Bool := headWait s n h != 0 && headWait s n h == h.t.waitOn

/-- The count of a limited wait after one more frame start; another wait than before begins anew (R281). -/
def countWait (now old waited : Nat) : Nat := if now = 0 then 0 else if now = old then waited + 1 else 1

/-- Count one frame start in every limited wait of a running context (R281). -/
def countWaits (n : CtxId) (s : State) : State :=
  let c := s.ctx n
  if c.state != 2 then s
  else
    let threads := c.threads.map fun t => match headOf s c t with
      | some h => let k := headWait s n h; { t with waited := countWait k t.waitOn t.waited, waitOn := k }
      | none => t
    let runs := c.runs.map fun r => let k := runWait s n r; { r with waited := countWait k r.waitOn r.waited, waitOn := k }
    let stall := if startDue s n && closeStalls s n then c.dl.stallWait + 1 else 0
    let land := if landWaiting s n then c.dl.landWait + 1 else 0
    s.modCtx n fun c => { c with threads := threads, runs := runs, dl := { c.dl with stallWait := stall, landWait := land } }

/-- The datum of a WAIT_TIMEOUT of a head command, its unsatisfied counter and value, and the REQ of that wait (R281, R549). -/
def waitDatum (c : Ctx) (env : List Word) : Word × Nat :=
  match (envWaits env).find? fun w => (waitStamp c w).isNone with
  | some w => (put w.1 44 ||| put (((c.ctrs.find? fun k => k.ctr == w.1).map (·.value)).getD 0) 0, w.2)
  | none => (0, 0)

/-- Count a WAIT_TIMEOUT (R280). -/
def countTimeout (n : CtxId) (s : State) : State :=
  s.modCtx n fun c => { c with dl := { c.dl with timeouts := satAdd c.dl.timeouts 1 } }

/-- WAIT_TIMEOUT (R281, R421, R452): a wait of a thread, or one of the context without a thread, that has passed its limit and is
still not satisfied. -/
def execWaitTimeout (n : CtxId) (thread : Nat) (s : State) : Host.Outcome State Fault Refusal :=
  let c := s.ctx n
  if !runsNow s n then ok s
  else if c.state == 2 && ((decide (waitLimit c < c.dl.stallWait) && startDue s n && closeStalls s n) ||
      (decide (waitLimit c < c.dl.landWait) && landWaiting s n)) then
    ok (ctxFault n flWaitTimeout (countTimeout n s))
  else
    let late := (c.threads.find? fun t => t.thread == thread && decide (waitLimit c < t.waited)).bind (headOf s c)
    match late.bind fun h => if headWaits s n h then some h else none with
    | some h => ok (threadFaultReq n thread h.t.next flWaitTimeout (waitDatum c h.env).1 [] (waitDatum c h.env).2 (countTimeout n s))
    | none =>
      match c.runs.find? fun r => r.thread == thread && decide (waitLimit c < r.waited) && runWaits s n r &&
          !c.v.faults.any (fun x => x.thread == r.thread && x.cmd == r.cmd) with
      | some r =>
        let d : Word := if r.opcode = 0x3C then
            (let ctr := r.lctr
             put ctr 44 ||| put (((c.ctrs.find? fun k => k.ctr == ctr).map (·.value)).getD 0) 0)
          else 0
        ok (threadFault n thread r.cmd flWaitTimeout d [] (countTimeout n s))
      | none => ok s

end Sys2Proof.Machine
end

