-- ==== Sys2Proof/Machine/Engines.lean ====
section
/-! DEFINITION. The engines at work: products (R103 to R106), judgement and repeats (R82 to R84, R123, R201), the drain and
the convert pass (R113, R118 to R120), and the element, layout and reduction commands. -/

namespace Sys2Proof.Machine

/-! ### What the final stage releases -/

/-- Count one chain whose final stage completed on a core (R194). -/
def countFinal (n : CtxId) (core : CoreId) (s : State) : State :=
  s.modCore core fun k => { k with reCnt := upd k.reCnt n fun x => { x with finals := satAdd x.finals 1 } }

/-- Release the output of a judged final stage, or wait for a queue entry (R118 to R120, R201, R202). -/
def releaseOut (n : CtxId) (r : Run) (eff : Effects) (s : State) : State :=
  if eff.queue.isSome && !(queueRoom s n (coreOf r.core) && queueTurn s n r) then
    modRun n r.thread r.cmd (fun x => { x with phase := 6, held := some eff, digP := eff.tints }) s
  else withBanks n r (writeRanges eff.writes) s fun s =>
    let s := applyEffects n r eff s
    let s := modRun n r.thread r.cmd (fun x => { x with executed := true, held := none, digP := eff.tints }) s
    match runStage (s.ctx n) r with
    | some e => countFinal n (coreOf r.core) (sendReturn n e 2 r.s r.repeats r.pass s)
    | none => s

/-- Start a repeat at a new s: it counts, and the final stage sends it back along its chain (R82, R83, R85, R201). -/
def repeatAt (n : CtxId) (r : Run) (sv : Int) (s : State) : State :=
  let s := addCounts n (coreOf r.core) { repeats := 1 } s
  let pass := if r.role = 0 then 0 else r.pass + 1
  let s := modRun n r.thread r.cmd (fun x => { x with
    s := sv, repeats := x.repeats + 1, pass := pass, phase := 7, again := none, partials := .none, inRows := [], inParts := [], ee := {} }) s
  match runStage (s.ctx n) r with
  | some e => sendReturn n e 1 sv (r.repeats + 1) pass s
  | none => s

/-- What follows a judgement (R82): a fault, a repeat or an output; the final stage of a chain that crosses devices holds
it until its second run agrees (R202). DESIGN CHOICE (log entry 60): PHASE reads 5 while it is held (R125). -/
def afterJudge (n : CtxId) (r : Run) (j : Judgement) (eff : Effects) (s : State) : State :=
  let held := r.role == 3 && crossDevice (s.ctx n) r.chain
  match j with
  | .range x => runFault n r flGridRange (put (twos 16 x) 0) s
  | .again x =>
    if held then modRun n r.thread r.cmd (fun y => { y with phase := 5, again := some x, digP := [] }) s
    else repeatAt n r x s
  | .drain =>
    if held then modRun n r.thread r.cmd (fun y => { y with phase := 5, held := some eff, digP := eff.tints }) s
    else releaseOut n r eff s

/-! ### A stage's own partial -/

/-- The last stage of a chain on this device hands its partial over to the next device once its rows are in (R198). -/
def handOver (n : CtxId) (thread cmd : Nat) (s : State) : State :=
  let c := s.ctx n
  match findRun s n thread cmd with
  | none => s
  | some r =>
    match runStage c r with
    | none => s
    | some e =>
      if r.role != 3 && r.phase == 3 && r.partials != .none && rowsIn s c r && (stageAfter c e).isNone then
        match hopOut s c e.chain with
        | some w => modRun n thread cmd (fun x => { x with executed := true }) (sendPartial n e w r s)
        | none => s
      else s

/-- The digest of a stage's partial rows, for a check execution (R460). -/
def partialTint (e : EC) (r : Run) (p : Partials) : TintOut :=
  let k := ((runStage e.ctx r).map (·.kM1)).getD 0 + 1
  roleDigest e.ctx e.thread e.cmd 0x0A (wordsToBytes ((List.range p.rows).flatMap fun i => p.rowWords k (r.sAt i) i))

/-- A command holds its own partial of the pass. -/
def ownPartial (n : CtxId) (r : Run) (p : Partials) (s : State) : State :=
  let dig := if r.eng == .me && (r.role == 1 || r.role == 2) then r.digP ++ [partialTint (r.ec s n) r p] else r.digP
  let s := modRun n r.thread r.cmd (fun x => { x with
    partials := p, phase := if r.role = 0 then 4 else 3, digP := dig, passS := x.passS ++ [r.s] }) s
  toJudge n r.thread r.cmd (handOver n r.thread r.cmd s)

/-! ### The matrix engine -/

/-- Do a repeat's products take the array ahead of a tile (R123)? A tile that has not repeated pauses while another of its context
on the core has restarted and its products are not done. -/
def pausedByRepeat (s : State) (n : CtxId) (r : Run) : Bool :=
  r.repeats == 0 && (s.ctx n).runs.any fun x => x.eng == .me && x.core == r.core && x.phase == 2 && decide (0 < x.repeats)

/-- Products per element of the pair that comes last: K, or K2 of an MMD (R125). -/
def Run.lastK (r : Run) : Nat := if r.opcode = 0x11 then fld (wd r.body 13) 19 0 else fld (wd r.body 0) 19 0

/-- The product phase of an ME command of an opcode (R103 to R106). -/
def products (n : CtxId) (thread cmd op : Nat) (s : State) : State :=
  withRun s n thread cmd (fun r => r.eng == .me && r.opcode == op && r.phase == 2 && !pausedByRepeat s n r) fun r =>
    match r.ops with
    | .me o => withBanks n r o.readRanges s fun s =>
        ownPartial n r (.sum (o.products s r.s)) (modRun n thread cmd (fun x => { x with kdone := r.lastK }) s)
    | _ => s

/-- MM (R103). -/
def execMm (n : CtxId) (thread cmd : Nat) (arb : List BankCycle) (s : State) : Host.Outcome State Fault Refusal :=
  ok (products n thread cmd 0x10 (arbitrate arb s))

/-- MMD (R106): both pairs of operands accumulate into one set. -/
def execMmd (n : CtxId) (thread cmd : Nat) (arb : List BankCycle) (s : State) : Host.Outcome State Fault Refusal :=
  ok (products n thread cmd 0x11 (arbitrate arb s))

/-- The drain of a final stage: the check of s, the epilogue, the judgement and what follows from it (R77, R81, R82, R113). -/
def drainTile (n : CtxId) (thread cmd : Nat) (s : State) : State :=
  withRun s n thread cmd (fun r => r.eng == .me && mayJudge r) fun r =>
    match r.ops with
    | .me o =>
      if !sInRange r.s then runFault n r flGridRange (put (twos 16 r.s) 0) s
      else withBanks n r o.drainRanges s fun s =>
        let rows := match r.partials with | .sum l => l | _ => []
        let tot := o.totals s r.s rows
        afterJudge n r (judge tot.flatten r.s r.repeats) (o.drain (r.ec s n) r.s r.repeats tot) s
    | _ => s

/-- DRAIN (R77, R81, R82, R113): the epilogue, the judgement and the conversion of a final stage's tile. -/
def execDrain (n : CtxId) (thread cmd : Nat) (arb : List BankCycle) (s : State) : Host.Outcome State Fault Refusal :=
  ok (drainTile n thread cmd (arbitrate arb s))

/-- May a stage take an accumulator set for its repeat: the final stage kept its own, another takes one again (R93, R201)? -/
def setForRepeat (s : State) (n : CtxId) (r : Run) : Bool :=
  !r.executed || decide (((runsOn s n .me r.core).filter fun x => !x.executed).length < splitOf (s.core (coreOf r.core)).acc n)

/-- REPEAT (R83, R123, R201): the product phase starts again at the new s. -/
def execRepeatPass (n : CtxId) (thread cmd : Nat) (s : State) : Host.Outcome State Fault Refusal :=
  ok <| withRun s n thread cmd (fun r => r.eng == .me && r.phase == 7 && setForRepeat s n r) fun r =>
    let set := if r.executed then freeSet s r.core else r.set
    modRun n thread cmd (fun x => { x with phase := 2, kdone := 0, executed := false, set := set }) s

/-- CONVERT_PASS (R120): a convert pass that waited for a queue entry goes on once its context has room. -/
def execConvertPass (n : CtxId) (thread cmd : Nat) (s : State) : Host.Outcome State Fault Refusal :=
  ok <| withRun s n thread cmd (fun r => r.eng == .me && r.phase == 6) fun r =>
    match r.held with
    | some eff => releaseOut n r eff s
    | none => s

/-! ### The element engine -/

/-- The queue entry that an EE command holds (R164). -/
def heldEntry (s : State) (n : CtxId) (r : Run) : Option QEntry :=
  (s.core (coreOf r.core)).queue.find? fun q => q.ctx == n && q.held == some (r.thread, r.cmd)

/-- An EE command goes on through a number of chunks, or to its end (R139, R167). A part that does not end it writes the rows as
far as they are stored. The end writes the rest with the headers; a chain stage then holds its partial rows, each with its own S,
and its digests and taps wait for the done word (R158, R201). Results and repeats count when they are made, also in a part or a pass
that is abandoned or run again later (R85, R151, R157). -/
def runEe (n : CtxId) (thread cmd : Nat) (chunks : Option Nat) (s : State) : State :=
  withRun s n thread cmd (fun r => r.eng == .ee && r.opcode == 0x20 && (r.phase == 0 || r.phase == 7) && !r.executed) fun r =>
    match r.ops with
    | .ee o => withBanks n r o.ranges s fun s =>
      let e := r.ec s n
      let lo := r.ee.row
      let ran := eeRun s e.ctx o (if r.pass = 0 then none else some r.s) chunks r.ee
      let s := addCounts n (coreOf r.core) { repeats := ran.reps, exc := ran.exc } s
      let st : EeSt := { ran with reps := 0, exc := {} }
      match st.fault with
      | some x => runFault n r x.1 (put (twos 16 x.2.toInt) 0) s
      | none =>
        if !st.done o then writeFor n r (eePart s o st lo) (modRun n thread cmd (fun x => { x with ee := st }) s)
        else
          let eff := eeEffects e o (r.role != 0) lo st
          if r.role = 0 then
            modRun n thread cmd (fun x => { x with executed := true, ee := st, digP := eff.tints }) (applyEffects n r eff s)
          else
            let ps := eePartials st
            let r' : Run := { r with
              s := ((ps.head?).map (·.s)).getD r.s, rowS := ps.map (·.s), ee := st
              held := some { eff with writes := [] }, digP := eff.tints }
            let s := writeFor n r eff.writes (modRun n thread cmd (fun _ => r') s)
            ownPartial n r' (.sum (ps.map fun p => [p.el])) s
    | _ => s

/-- EP (R137 to R164): an element program runs over its rows and chunks, to its end or through a number of chunks. -/
def execEp (n : CtxId) (thread cmd : Nat) (chunks : Option Nat) (arb : List BankCycle) (s : State) :
    Host.Outcome State Fault Refusal :=
  ok (runEe n thread cmd chunks (arbitrate arb s))

/-! ### The layout engine -/

/-- A layout command of an opcode goes on through a number of output rows, or to its end (R171 to R173, R177). -/
def runLe (n : CtxId) (thread cmd op : Nat) (rows : Option Nat) (s : State) : State :=
  withRun s n thread cmd (fun r => r.eng == .le && r.opcode == op && !r.executed) fun r =>
    match r.ops with
    | .le o => withBanks n r o.ranges s fun s =>
      let e := r.ec s n
      let lo := r.le.rows.length
      orFault n r (if lo = 0 then leIdx s o else .ok r.le.idx) s fun idx =>
        let hi := min o.outRows (lo + rows.getD o.outRows)
        let rs := r.le.rows ++ (List.range (hi - lo)).map fun i => leRow s o idx (lo + i)
        if hi < o.outRows then
          writeFor n r (leRowWrites o lo rs) (modRun n thread cmd (fun x => { x with le := { idx, rows := rs } }) s)
        else
          let eff := if op = 0x33 then lsealEff e o else leEffects e o lo rs
          modRun n thread cmd (fun x => { x with executed := true, digP := eff.tints }) (applyEffects n r eff s)
    | _ => s

/-- LXPOSE (R171). -/
def execLxpose (n : CtxId) (thread cmd : Nat) (rows : Option Nat) (arb : List BankCycle) (s : State) :
    Host.Outcome State Fault Refusal :=
  ok (runLe n thread cmd 0x30 rows (arbitrate arb s))

/-- LGATHER (R171). -/
def execLgather (n : CtxId) (thread cmd : Nat) (rows : Option Nat) (arb : List BankCycle) (s : State) :
    Host.Outcome State Fault Refusal :=
  ok (runLe n thread cmd 0x31 rows (arbitrate arb s))

/-- LCONV (R172). -/
def execLconv (n : CtxId) (thread cmd : Nat) (rows : Option Nat) (arb : List BankCycle) (s : State) :
    Host.Outcome State Fault Refusal :=
  ok (runLe n thread cmd 0x32 rows (arbitrate arb s))

/-- LSEAL (R173). -/
def execLseal (n : CtxId) (thread cmd : Nat) (arb : List BankCycle) (s : State) : Host.Outcome State Fault Refusal :=
  ok (runLe n thread cmd 0x33 none (arbitrate arb s))

/-- Write LCTR's word with the counter's value (R174); in a lent slot the read is counted (R45). -/
def writeCtr (n : CtxId) (r : Run) (isSettled : Bool) (s : State) : State :=
  match r.ops with
  | .le o => withBanks n r o.ranges s fun s =>
    let s := if isSettled then s else s.modCtx n fun c => { c with cntRead := satAdd c.cntRead 1 }
    let v := (((s.ctx n).ctrs.find? fun k => k.ctr == o.ctr).map (·.value)).getD 0
    let eff := lctrEff (r.ec s n) o v isSettled
    modRun n r.thread r.cmd (fun x => { x with executed := true, digP := eff.tints, le := { idx := [v] } }) (applyEffects n r eff s)
  | _ => s

/-- LCTR waits until its counter has settled; in a lent slot it reads at once and is counted (R47, R174). -/
def runLctr (n : CtxId) (thread cmd : Nat) (lentToo : Bool) (s : State) : State :=
  withRun s n thread cmd (fun r => r.eng == .le && r.opcode == 0x3C && !r.executed) fun r =>
    if r.lent then
      if lentToo then writeCtr n r false s else s
    else if settled s n r.lctr then writeCtr n r true s
    else s

/-- LCTR (R174). -/
def execLctr (n : CtxId) (thread cmd : Nat) (arb : List BankCycle) (s : State) : Host.Outcome State Fault Refusal :=
  ok (runLctr n thread cmd true (arbitrate arb s))

/-- COUNTER_SETTLED (R174): a waiting LCTR's counter has settled. -/
def execCounterSettled (n : CtxId) (thread cmd : Nat) (s : State) : Host.Outcome State Fault Refusal :=
  ok (runLctr n thread cmd false s)

/-! ### The reduction engine -/

/-- Judge sums at s, and again at each new s of a repeat (R82, R183); the fuel is one more than the repeats of R82. -/
def reSettle (s : State) (o : ReOps) : Nat → Int → Nat → Except (Int × Nat) (Int × Nat × Partials)
  | 0, sv, reps => .error (sv, reps)
  | f + 1, sv, reps =>
    let p := (reOwn s o sv {}).1
    match p with
    | .sum rows =>
      if !sInRange sv then .error (sv, reps)
      else match judge (sumTotals rows) sv reps with
        | .drain => .ok (sv, reps, p)
        | .again x => reSettle s o f x (reps + 1)
        | .range x => .error (x, reps)
    | p => .ok (sv, reps, p)

/-- A whole RE command outside a chain (R183 to R192). -/
def reSolo (n : CtxId) (r : Run) (o : ReOps) (tap : Sq) (s : State) : State :=
  let x : Except (Int × Nat) (Int × Nat × Partials) := if o.op = 0x50 then reSettle s o 9 r.s 0 else .ok (r.s, 0, (reOwn s o r.s tap).1)
  match x with
  | .error (v, reps) => runFault n r flGridRange (put (twos 16 v) 0) (addCounts n (coreOf r.core) { repeats := reps } s)
  | .ok (sv, reps, p) =>
    let eff := { reFinish (r.ec s n) o p sv reps with repeats := reps }
    let s := modRun n r.thread r.cmd (fun y => { y with s := sv, repeats := reps, partials := p }) s
    releaseOut n { r with s := sv, repeats := reps } eff s

/-- The judgement and the output of a LAST stage (R183 to R192, R201, R202). -/
def reLast (n : CtxId) (r : Run) (o : ReOps) (s : State) : State :=
  match r.partials with
  | .sum rows =>
    if !sInRange r.s then runFault n r flGridRange (put (twos 16 r.s) 0) s
    else afterJudge n r (judge (sumTotals rows) r.s r.repeats) (reFinish (r.ec s n) o r.partials r.s r.repeats) s
  | p => afterJudge n r .drain (reFinish (r.ec s n) o p r.s r.repeats) s

/-- An RE command of an opcode: it makes its partial (a TAPX reads and clears its channel, R188), and the final stage
finishes once its rows are in. -/
def runRe (n : CtxId) (thread cmd op : Nat) (s : State) : State :=
  withRun s n thread cmd (fun r => r.eng == .re && r.opcode == op && !r.executed) fun r =>
    match r.ops with
    | .re o => withBanks n r o.ranges s fun s =>
      let core := coreOf r.core
      if r.phase = 2 || r.phase = 7 then
        let key := (n, o.channel)
        let tap := if op = 0x59 then (assocGet key (s.core core).taps).getD {} else {}
        let x := reOwn s o r.s tap
        let s := if op = 0x59 then
            modRun n thread cmd (fun x => { x with tapIn := tap }) (s.modCore core fun k => { k with taps := k.taps.filter fun t => t.1 != key })
          else s
        let s := addCounts n core { nanExcl := x.2 } s
        if r.role = 0 then reSolo n r o tap s
        else
          let s := ownPartial n r x.1 s
          match findRun s n thread cmd with
          | some r' => if mayJudge r' then reLast n r' o s else s
          | none => s
      else if mayJudge r then reLast n r o s
      else s
    | _ => s

/-- RSUM (R183). -/
def execRsum (n : CtxId) (thread cmd : Nat) (arb : List BankCycle) (s : State) : Host.Outcome State Fault Refusal :=
  ok (runRe n thread cmd 0x50 (arbitrate arb s))
/-- RSSQ (R184, R187). -/
def execRssq (n : CtxId) (thread cmd : Nat) (arb : List BankCycle) (s : State) : Host.Outcome State Fault Refusal :=
  ok (runRe n thread cmd 0x51 (arbitrate arb s))
/-- TOPK (R189, R190). -/
def execTopk (n : CtxId) (thread cmd : Nat) (arb : List BankCycle) (s : State) : Host.Outcome State Fault Refusal :=
  ok (runRe n thread cmd 0x52 (arbitrate arb s))
/-- TOPKM (R191). -/
def execTopkm (n : CtxId) (thread cmd : Nat) (arb : List BankCycle) (s : State) : Host.Outcome State Fault Refusal :=
  ok (runRe n thread cmd 0x53 (arbitrate arb s))
/-- XIDX (R189, R190). -/
def execXidx (n : CtxId) (thread cmd : Nat) (arb : List BankCycle) (s : State) : Host.Outcome State Fault Refusal :=
  ok (runRe n thread cmd 0x54 (arbitrate arb s))
/-- CNT (R192). -/
def execCnt (n : CtxId) (thread cmd : Nat) (arb : List BankCycle) (s : State) : Host.Outcome State Fault Refusal :=
  ok (runRe n thread cmd 0x55 (arbitrate arb s))
/-- BAND (R192). -/
def execBand (n : CtxId) (thread cmd : Nat) (arb : List BankCycle) (s : State) : Host.Outcome State Fault Refusal :=
  ok (runRe n thread cmd 0x56 (arbitrate arb s))
/-- BOR (R192). -/
def execBor (n : CtxId) (thread cmd : Nat) (arb : List BankCycle) (s : State) : Host.Outcome State Fault Refusal :=
  ok (runRe n thread cmd 0x57 (arbitrate arb s))
/-- BXOR (R192). -/
def execBxor (n : CtxId) (thread cmd : Nat) (arb : List BankCycle) (s : State) : Host.Outcome State Fault Refusal :=
  ok (runRe n thread cmd 0x58 (arbitrate arb s))
/-- TAPX (R187, R188). -/
def execTapx (n : CtxId) (thread cmd : Nat) (arb : List BankCycle) (s : State) : Host.Outcome State Fault Refusal :=
  ok (runRe n thread cmd 0x59 (arbitrate arb s))

/-! ### Partial rows and control words (R198 to R204) -/

/-- The stage of a chain with a number on this device. -/
def stageEnt (c : Ctx) (chain stage : Nat) : Option ChainEnt := (stagesHere c chain).find? fun e => e.stage == stage

/-- Receive a partial row at the stage that expects it (R74, R197, R203). Every pair's S must be the stage's own s of the row. -/
def takeRow (n : CtxId) (e : ChainEnt) (r : Run) (row : Nat) (q : Partials) (sIn : List Int) (s : State) : State :=
  if e.kind = 0 && sIn.any fun x => x != r.sAt row then runFault n r flFormatMismatch 0 s
  else
    let smallest := r.eng == .re && bit (wd r.body 0) 43
    let s := modRun n r.thread r.cmd (fun x => { x with
      partials := x.partials.addRow e.kind (e.kM1 + 1) smallest row q (x.sAt row), inRows := x.inRows ++ [row]
      inParts := x.inParts ++ [(row, q)] }) s
    let s := s.modCore (coreOf r.core) fun k => { k with
      reCnt := upd k.reCnt n fun x => { x with rowsIn := satAdd x.rowsIn 1 } }
    toJudge n r.thread r.cmd (handOver n r.thread r.cmd s)

/-- The address of a partial row from another device, once its cells have landed (R199, R399). -/
def landedRow (s : State) (n : CtxId) (e : ChainEnt) (w : WinDecl) (pass row : Nat) : Option (Chk Nat) :=
  let c := s.ctx n
  let cells := dedup ((List.range e.width).map fun i => cellOfEntry e w.flag (row * e.width + i))
  if !cells.all fun k => c.x.landed.contains (w.win, k, pass) then none
  else some (landAddr s n ((Ref.ofWord w.dstRef).add (rowOffset e w.flag row)) (partialRowBytes e.kind e.width))

/-- A Rust record of a row that no stage expects (R203). -/
def strayRow (n : CtxId) (g : RowTags) (s : State) : State :=
  raiseRust { ctxRust ruStrayPartial n s with
    detail := leBytes 2 g.chain ++ leBytes 2 g.stage ++ leBytes 1 g.pass ++ leBytes 1 g.row } s

/-- A row that its receiver does not expect: no such row, a row received before, or one of an earlier pass. -/
def rowStray (d : ChainEnt) (r : Run) (g : RowTags) : Bool :=
  decide (d.rowsM1 < g.row) || (g.pass == r.pass && r.inRows.contains g.row) || decide (g.pass < r.pass)

/-- The stage that receives a row by its tags: the one after its sender here, or the first one here for a row that a hop brings;
none where no stage expects it (R203). -/
def rowReceiver (s : State) (c : Ctx) (g : RowTags) : Option ChainEnt :=
  match stageEnt c g.chain g.stage with
  | some e => stageAfter c e
  | none => if (hopIn s c g.chain).isSome then (stagesHere c g.chain).head? else none

/-- Has a sender on this device handed over a row: it holds the row's partial of the pass, with what came in for the row? -/
def rowReady (s : State) (c : Ctx) (e : ChainEnt) (p : Run) (g : RowTags) : Bool :=
  p.phase == 3 && p.partials != .none && p.pass == g.pass && (!hasBefore s c e || p.inRows.contains g.row)

/-- The sender on this device has done its part of the pass once its receiver has every row (R201). -/
def rowsTaken (n : CtxId) (p r : Run) (s : State) : State :=
  let all := match findRun s n r.thread r.cmd with
    | some x => rowsIn s (s.ctx n) x
    | none => false
  if all then modRun n p.thread p.cmd (fun x => { x with executed := true }) s else s

/-- PARTIAL_ROW (R198, R203): a row arrives at the stage after its sender. A row of another step is discarded (R204); a row
that comes before its receiver holds its own partial waits in the chain input; one that is uncorrectable on the device condemns
the step (`ue`; across devices its cell is retried, R403). -/
def execPartialRow (n : CtxId) (g : RowTags) (ue : Bool) (s : State) : Host.Outcome State Fault Refusal :=
  let c := s.ctx n
  ok <|
    if !runsNow s n || !c.v.live || g.step != c.v.t then s
    else match rowReceiver s c g with
    | none => strayRow n g s
    | some d =>
      match stageRun s n d with
      | none => s
      | some r =>
        if rowStray d r g then strayRow n g s
        else if r.phase != 3 || r.partials == .none || g.pass != r.pass || (s.core (coreOf r.core)).quarantined then s
        else
          match stageEnt c g.chain g.stage with
          | some e =>
            match stageRun s n e with
            | none => s
            | some p =>
              if !rowReady s c e p g then s
              else if ue then condemn n caMemUe none s
              else rowsTaken n p r (takeRow n d r g.row p.partials [p.sAt g.row] s)
          | none =>
            match hopIn s c g.chain with
            | none => s
            | some w =>
              match landedRow s n d w g.pass g.row with
              | some at_ =>
                if ue then s
                else orFault n r at_ s fun a =>
                  let nb := partialRowBytes d.kind d.width
                  withBanks n r [(a, nb)] s fun s =>
                    let x := rowOfWords d.kind g.row (bytesToWords (s.readB a nb))
                    takeRow n d r g.row x.1 x.2 s
              | none => s

/-- The header word that comes into a stage: from the stage before it here, or from the hop that enters; the first stage of
the order has none (R200). -/
def headerIn (s : State) (n : CtxId) (e : ChainEnt) : Option (List (Option Int)) :=
  let c := s.ctx n
  match stageBefore c e with
  | some b => (stageRun s n b).bind fun r => if r.hdrDone then some r.hdr else none
  | none => match hopIn s c e.chain with
    | some w => (assocGet (w.win, 0, 0) c.x.chainIn).map fun ws => headerFields (wd ws 0)
    | none => some []

/-- The s of a header pass, at the final stage (R78, R183). -/
def finalS (r : Run) (h : List (Option Int)) : Option Int :=
  match r.ops with
  | .me o => some (o.headS h)
  | .re o => some (sumS (h.getD 0 none) o.kt)
  | _ => none

/-- HEADER_WORD (R200): a stage holds its own values and the incoming word, and forwards their maxima; the final stage
computes s and sends it back (R78, R79). -/
def execHeaderWord (n : CtxId) (chain stage : Nat) (s : State) : Host.Outcome State Fault Refusal :=
  ok <| match stageEnt (s.ctx n) chain stage with
  | none => s
  | some e => withRun s n e.thread e.cmd (fun r => (r.phase == 1 || r.eng == .ee) && !r.hdrDone) fun r =>
      match headerIn s n e with
      | none => s
      | some h0 =>
        let h := mergeHdr h0 r.hdr
        let s := modRun n e.thread e.cmd (fun x => { x with hdr := h, hdrDone := true }) s
        if e.role = 3 then
          match finalS r h with
          | some sv => sendReturn n e 0 sv 0 0 (modRun n e.thread e.cmd (fun x => { x with s := sv, phase := 2 }) s)
          | none => s
        else
          match stageAfter (s.ctx n) e, hopOut s (s.ctx n) chain with
          | none, some w => if w.flag then chainSend n w.win 0 0 [headerWord h] s else s
          | _, _ => s

/-- The return words that have reached a stage from the next one: KIND, s and repeat count (R200, R201). -/
def returnsFor (s : State) (n : CtxId) (e : ChainEnt) (r : Run) : List (Nat × Int × Nat) :=
  let c := s.ctx n
  match stageAfter c e with
  | some x => (assocGet (e.chain, x.stage) c.x.rets).toList
  | none => match hopOut s c e.chain with
    | none => []
    | some w =>
      let done := (if w.flag then 2 else 0) + partialCells e
      let back := if w.flag then 1 else done
      ([(w.win, back, 0), (w.win, back, r.pass + 1), (w.win, done, r.pass)].filterMap fun k => assocGet k c.x.chainIn).map fun ws =>
        let x := wd ws 0
        (fld x 39 32, sext 16 (fld x 63 48), fld x 47 40)

/-- Does a stage take a return word now: s of the header pass, the start of the next pass, or the done word of this one? -/
def takesReturn (s : State) (n : CtxId) (e : ChainEnt) (r : Run) (x : Nat × Int × Nat) : Bool :=
  match x.1 with
  | 0 => r.phase == 1 || (r.eng == .ee && (assocGet (e.chain, e.stage) (s.ctx n).x.rets).isNone)
  | 1 => r.phase == 3 && x.2.2 == r.pass + 1
  | 2 => r.phase == 3 && x.2.2 == r.pass && !r.retDone
  | _ => false

/-- RETURN_WORD (R200, R201): a stage takes a return word and passes it on. A repeat makes it recompute its partial at the
new s; the done word ends its part. -/
def execReturnWord (n : CtxId) (chain stage : Nat) (s : State) : Host.Outcome State Fault Refusal :=
  ok <| match stageEnt (s.ctx n) chain stage with
  | none => s
  | some e => withRun s n e.thread e.cmd (fun _ => e.role != 3) fun r =>
      match (returnsFor s n e r).find? (takesReturn s n e r) with
      | none => s
      | some (kind, sv, reps) =>
        let s := match kind with
          | 0 => modRun n e.thread e.cmd (fun x => if x.phase = 1 then { x with s := sv, phase := 2 } else x) s
          | 1 => modRun n e.thread e.cmd (fun x => { x with
              s := sv, rowS := [], repeats := reps, pass := x.pass + 1, phase := 7, partials := .none, inRows := [], inParts := [], ee := {}
              executed := x.executed && x.eng == .me }) s
          | _ =>
            let s := modRun n e.thread e.cmd (fun x => { x with retDone := true, held := none }) s
            match r.held with
            | some eff => applyEffects n r eff s
            | none => s
        sendReturn n e kind sv reps (if kind = 1 then r.pass + 1 else if kind = 2 then r.pass else 0) s

end Sys2Proof.Machine
end

