-- ==== Sys2Proof/Machine/Shade.lean ====
section
/-! DEFINITION. Comparisons and verdicts: operand fingerprints (R492), the comparisons of sampled checks, mirrors and final
stages (R202, R312, R465, R466), third executions and verdicts (R470, R471), and quarantine (R472). -/

namespace Sys2Proof.Machine

/-! ### Operand fingerprints (R492) -/

/-- The stored bytes of a tile: header line, rows, scale rows (R439). -/
def tileBytes (s : State) (t : Tile) : List Byte :=
  (if t.hdr.isSome then s.readB (t.row0 - 64) 64 else []) ++
  ((List.range t.rows).flatMap fun r => s.readB (t.row0 + r * t.stride) (rowBytes t.code t.cols)) ++
  (if fmtMX t.code then (List.range t.rows).flatMap fun r => s.readB (t.scale0 + r * t.sstride) (t.cols / 32) else [])

/-- The operand streams of a command in the read order of R219: operand index and bytes. Those of an XE command and of a DSCAT stand in
the order of their body's words; the tables that the checks read are given as they were read (log entry 56). -/
def operandStreams (s : State) (r : Run) : List (Nat × List Byte) :=
  let tiles (ts : List Tile) : List Byte := ts.flatMap (tileBytes s)
  let all : List (List Byte) := match r.ops with
    | .me o => (o.pairs.flatMap fun p => [tiles p.1.tiles, tiles p.2.tiles]) ++ (if o.pairs.length = 1 then [[], []] else []) ++
        [tiles o.scale.toList, tiles o.bias.toList, tiles o.res.toList, tiles o.auxIn.toList]
    | .ee o => (o.ins.map fun (i : InStream) => match i with
        | .none => []
        | .elems t => tileBytes s t
        | .both t _ _ => tileBytes s t
        | .row code a => s.readB a (rowStreamBytes code o.rows)
        | .entry q => q.rows.flatMap (packRow (fmtBits q.hdr.format))) ++ [o.prog, o.gridLine]
    | .re o =>
      let nb := ceilDiv o.len 8
      [tiles o.src.toList,
       match o.rowMask with
         | some m => (List.range o.rows).flatMap fun i => s.readB (m.1 + i * m.2) nb
         | none => [],
       match o.colMask with | some a => s.readB a nb | none => []]
    | .le o => if o.op = 0x3C then [] else [tileBytes s o.src, if o.op = 0x31 then s.readB o.idx (4 * o.rows) else []]
    | .copy xs => xs.map fun x => segBytes s x.src
    | .scatter fmt sa _ ixs => [s.readB sa (ixs.length * (fmtBits fmt / 8)), ixs.flatMap (leBytes 4)]
    | .xe o => [s.readB o.src (o.tokens * o.rowBytes), o.idx.flatMap (leBytes (if o.op = 0x71 then 8 else 4)),
        o.experts.flatMap fun x => wordsToBytes [put x.dest 48 ||| put x.cap 0, x.rows, x.index]]
    | .none => []
  ((all.zipIdx.map fun (b, i) => (i, b)).take 16).filter fun (x : Nat × List Byte) => !x.2.isEmpty

/-- The command part of a Rust record (R491, R492). -/
def cmdSig (s : State) (n : CtxId) (r : Run) : CmdSig :=
  let h := tintKey (jobKey (s.ctx n)) 0 0x6FFFFFFE
  { thread := r.thread, cmd := r.cmd, body := r.body
    prints := (operandStreams s r).map fun (x : Nat × List Byte) =>
      (x.1, x.2.length, tileDigest h (tintCoord 0 0 (0x10 + x.1) x.2.length) x.2) }

/-! ### Comparisons -/

/-- The third core of R470: the first that qualifies from p + 8. -/
def thirdCore (s : State) (n : CtxId) (r : Run) (p : Nat) : Option Nat :=
  let good (x : Nat) : Bool := !(s.core (coreOf x)).quarantined && x / 8 != r.core / 8 && x / 8 != p / 8 &&
    (match r.eng.pat with | some e => slotOn s n x e | none => true)
  ((List.range 128).map fun i => (p + 8 + i) % 128).find? good

/-! ### Second executions -/

/-- What a second execution of a command finds: the digests to compare, and what it would write. -/
structure Second where
  digs : List TintOut := []
  eff : Effects := {}
  judged : Judgement := .drain

/-- A second execution whose outputs are digested. -/
def Second.of (x : Effects) (j : Judgement := .drain) : Second := { digs := x.tints, eff := x, judged := j }

/-- A stage's own partial with the rows that it received: both runs of a final stage get a copy of every incoming row (R202). -/
def withIncoming (e : EC) (r : Run) (own : Partials) : Partials :=
  match runStage e.ctx r with
  | none => own
  | some x =>
    let smallest := r.eng == .re && bit (wd r.body 0) 43
    r.inParts.foldl (fun p q => p.addRow x.kind (x.kM1 + 1) smallest q.1 q.2 (r.sAt q.1)) own

/-- Run a command a second time, on the operands as they stand in memory (R129, R312, R464): `ops` are its references, on the bound
core or on the mirror. It computes its own partial again; to it come the rows that both runs received (R202). A TAPX uses its
tap channel, an LCTR the value that the command read. -/
def secondRun (e : EC) (r : Run) (ops : CmdOps) (tap : Sq) : Second :=
  match ops with
  | .me o =>
    if r.role = 1 || r.role = 2 then
      { digs := r.passS.map fun sv => partialTint e { r with s := sv } (.sum (o.products e.s sv)) }
    else
      let rows := match withIncoming e r (.sum (o.products e.s r.s)) with | .sum l => l | _ => []
      let tot := o.totals e.s r.s rows
      .of (o.drain e r.s r.repeats tot) (judge tot.flatten r.s r.repeats)
  | .ee o => .of (eeEffects e o (r.role != 0) 0 (eeRun e.s e.ctx o (if r.pass = 0 then none else some r.s) none {}))
  | .re o =>
    if r.role = 1 || r.role = 2 then {}
    else
      let p := withIncoming e r (reOwn e.s o r.s tap).1
      .of (reFinish e o p r.s r.repeats) (match p with | .sum rows => judge (sumTotals rows) r.s r.repeats | _ => .drain)
  | .le o =>
    if o.op = 0x3C then .of (lctrEff e o (r.le.idx.headD 0) (!r.lent))
    else (match leWhole e o with | .ok x => .of x | .error _ => {})
  | _ => {}

/-- Does a second execution judge as the bound one did: the same new s, or none (R202, R465)? -/
def Second.agrees (x : Second) (r : Run) : Bool :=
  match x.judged with
  | .drain => r.again.isNone
  | .again sv => r.again == some sv
  | .range _ => false

/-- The second execution of a check on a partner core: it reads the operands as they stood before the bound run's writes, and a TAPX
finds its channel's sum in the bound run (R464, R465). -/
def checkRun (s : State) (n : CtxId) (r : Run) : Second := secondRun (r.ec (s.writeAll r.before) n) r r.ops r.tapIn

/-- The ranges of memory that a command of an engine reads and writes. -/
def CmdOps.ranges : CmdOps → List (Nat × Nat)
  | .me o => o.readRanges ++ o.drainRanges
  | .ee o => o.ranges
  | .re o => o.ranges
  | .le o => o.ranges
  | _ => []

/-- The digests of a second execution, but for what an upset of it flips. -/
def secondDigests (d : List TintOut) (err : BitVec 128) : List TintOut :=
  match d with
  | [] => []
  | t :: rest => { t with digest := t.digest ^^^ err } :: rest

/-- Decide a comparison: agreement ends it, a mismatch starts a third execution and counts (R465, R470, R474). -/
def compareWith (s : State) (n : CtxId) (r : Run) (k : Check) (digC : List TintOut) (sEq : Bool) : Check :=
  if digC == r.digP && sEq then { k with digC := digC, decided := true }
  else { k with digC := digC, mism := true, third := k.checker.bind (thirdCore s n r) }

/-- Count a comparison that disagreed (R474). -/
def countMism (n : CtxId) (r : Run) (k : Check) (s : State) : State :=
  if k.mism then countShd n r.core (fun x => { x with mismatches := satAdd x.mismatches 1 }) s else s

/-- Has a command a second execution on a core that can end now: the bound execution has made its digests (R202, R465)? -/
def checkReady (r : Run) (core : Nat) : Bool :=
  (openCheck r.check && (r.check.bind (·.checker)) == some core && r.executed && !awaitsDone r) ||
  (openCheck r.final && (r.final.bind (·.checker)) == some core && r.phase == 5)

/-- Is it a context's turn for a second execution on a core: in slots of its own, or in unowned ones, which serve the lowest waiting
context first (R275, R464)? -/
def checkMayEnd (s : State) (n : CtxId) (e : Eng) (core : Nat) : Bool :=
  match e.pat with
  | none => true
  | some p => ownsSlot s n core p || !allCtxIds.any fun m => decide (m < n) && runsNow s m && !ownsSlot s m core p &&
      (s.ctx m).runs.any fun r => r.eng == e && checkReady r core

/-- SHADE_COMPARE (R465): a selected command's check execution is compared once both have made their digests. Its reads are remote
requests of the context, which wait for a bank's clear and may find the bank lost (R208, R216, R464). -/
def execShadeCompare (n : CtxId) (thread cmd : Nat) (err : BitVec 128) (errS : Int) (s : State) : Host.Outcome State Fault Refusal :=
  ok <| withRun s n thread cmd (fun r => r.executed && !awaitsDone r && openCheck r.check) fun r =>
    match r.check with
    | none => s
    | some k => if !checkMayEnd s n r.eng (k.checker.getD 0) then s else withBanks n r r.ops.ranges s fun s =>
      let x := checkRun s n r
      let k := compareWith s n r k (secondDigests x.digs err) (errS == 0 && x.agrees r)
      noteEnd n (countMism n r k (modRun n thread cmd (fun x => { x with check := some k }) s))

/-- The references of a command on its group's mirror (R312). -/
def mirrorOps (s : State) (n : CtxId) (r : Run) : CmdOps :=
  let e := ecOf s n true r.thread r.cmd
  let get {α : Type} (x : Chk α) (f : α → CmdOps) : CmdOps := match x with | .ok o => f o | .error _ => .none
  match r.eng with
  | .me => get (meRead e r.env r.body) .me
  | .ee => get (eeRead e r.env r.body (heldEntry s n r)) .ee
  | .re => get (reRead e r.body) .re
  | .le => get (leRead e r.body) .le
  | _ => .none

/-- A mirror's execution of a command: the state with the mirror's own slabs and tap channels written, and its digests. A DMA or
an XE command's was made with the group's (R312). The mirrors' tap channels are their own (log entry 45). -/
def mirrorExec (s : State) (n : CtxId) (r : Run) (k : Check) : State × List TintOut :=
  if r.eng == .dma || r.eng == .xe then (s, r.digM)
  else
    let core := coreOf (k.checker.getD 0)
    let ch : Nat := match r.ops with | .re o => o.channel | _ => 0
    let x := secondRun (ecOf s n true r.thread r.cmd) r (mirrorOps s n r) ((assocGet (n, ch) (s.core core).mirTaps).getD {})
    let s := s.writeAll x.eff.writes
    let s := match x.eff.tap with
      | some q => s.modCore core fun k =>
          { k with mirTaps := let c := (n, fld (wd r.env 0) 63 58); assocSet c (((assocGet c k.mirTaps).getD {}).join q) k.mirTaps }
      | none => s
    (if r.opcode = 0x59 then s.modCore core fun k => { k with mirTaps := k.mirTaps.filter fun t => t.1 != (n, ch) } else s, x.digs)

/-- MIRROR_COMPARE (R312, R313, R467): a command of a mirrored group against its mirror, in command index order. -/
def execMirrorCompare (n : CtxId) (thread cmd : Nat) (err : BitVec 128) (s : State) : Host.Outcome State Fault Refusal :=
  ok <| withRun s n thread cmd (fun r => r.executed && !awaitsDone r && openCheck r.mirror &&
      !(s.ctx n).runs.any fun x => x.thread == thread && decide (x.cmd < cmd) && openCheck x.mirror) fun r =>
    match r.mirror with
    | none => s
    | some k => withBanks n r (mirrorOps s n r).ranges s fun s =>
      let x := mirrorExec s n r k
      let k := compareWith s n r k (secondDigests x.2 err) true
      noteEnd n (countMism n r k (modRun n thread cmd (fun y => { y with mirror := some k }) x.1))

/-- Release what a final stage held: its output, or the repeat it calls for (R202). -/
def releaseHeld (n : CtxId) (r : Run) (s : State) : State :=
  match r.again, r.held with
  | some x, _ => repeatAt n r x s
  | none, some eff => releaseOut n r eff s
  | none, none => s

/-- FINAL_STAGE_CHECK (R202): the two runs of a final stage compare judgement, new s and digests; on agreement the output
or the repeat is released. -/
def execFinalStageCheck (n : CtxId) (thread cmd : Nat) (err : BitVec 128) (errS : Int) (s : State) : Host.Outcome State Fault Refusal :=
  ok <| withRun s n thread cmd (fun r => r.phase == 5 && openCheck r.final) fun r =>
    match r.final with
    | none => s
    | some k => if !checkMayEnd s n r.eng (k.checker.getD 0) then s else withBanks n r r.ops.ranges s fun s =>
      let x := checkRun s n r
      let k := compareWith s n r k (if r.again.isSome then [] else secondDigests x.digs err) (errS == 0 && x.agrees r)
      let k : Check := if r.again.isSome && k.decided then { k with decided := false } else k
      let s := countMism n r k (modRun n thread cmd (fun x => { x with final := some k }) s)
      noteEnd n (if k.mism then s else releaseHeld n r s)

/-! ### Quarantine (R472) -/

/-- Has a context a group, or a mirror of one, on a core? -/
def boundOn (c : Ctx) (core : Nat) : Bool :=
  c.b.cores.any (fun (x : Nat × Nat) => x.2 == core) || c.b.mirrorCores.any fun (x : Nat × Nat) => x.2 == core

/-- Quarantine a core: its contexts' attempts are condemned with cause QUARANTINE unless they already are, and the groups of
a context with no pending attempt are rebound at once; a running context with no group on the core loses its banks there (R472,
R260). -/
def quarantineCore (core : CoreId) (cause : Nat) (s : State) : State :=
  if (s.core core).quarantined then s
  else
    let s := s.modCore core fun k => { k with quarantined := true }
    let s := raiseEvent evCoreQuarantined none [put core.val 0 ||| put cause 8] s
    allCtxIds.foldl (fun s n =>
      let c := s.ctx n
      if !boundOn c core.val then (if c.state = 2 then takeBanks n core s else s)
      else if attemptPending c then (if c.v.condemnAt.isSome then s else condemn n caQuarantine none s)
      else rebind n s) s

/-! ### Verdicts (R471) -/

/-- Which comparison of a command a cause names. -/
def checkOf (r : Run) (cause : Nat) : Option Check :=
  if cause = caShadeTile then r.check else if cause = caFinalStage then r.final
  else (match r.mirror with | some k => if k.cause = cause then some k else none | none => none)

/-- Mark the comparison that a cause names as decided. -/
def decideCheck (cause : Nat) (r : Run) : Run :=
  let d (k : Option Check) : Option Check := k.map fun k => { k with decided := true }
  if cause = caShadeTile then { r with check := d r.check } else if cause = caFinalStage then { r with final := d r.final }
  else { r with mirror := d r.mirror }

/-- The outcome of R471 and the third digest: `third` is what the third execution's digest differs by from the primary's. -/
def verdictOf (r : Run) (k : Check) (third : Option (BitVec 128)) : Nat × BitVec 128 :=
  match k.checker, k.third, third with
  | some _, some _, some e =>
    let d := (roleDiff r.digP k.digC).map fun (x : Nat × BitVec 128 × BitVec 128) => x.2
    match d with
    | some (p, c) => (if e = 0 then 1 else if p ^^^ e = c then 2 else 3, p ^^^ e)
    | none => (if e = 0 then 1 else if e = 1 then 2 else 3, ((r.digP.head?).map (·.digest)).getD 0)
  | _, _, _ => (3, 0)

/-- The verdict on a command: its entry, records and events, the suspect's quarantine and the condemnation (R471, R472). -/
def cmdVerdict (n : CtxId) (cause : Nat) (r : Run) (k : Check) (third : Option (BitVec 128)) (s : State) : State :=
  let v := verdictOf r k third
  let e := checkEntry r k v.1 v.2
  let s := reportVerdict n e (some (cmdSig s n r)) s
  let s := modRun n r.thread r.cmd (decideCheck cause) s
  let s := match v.1 with
    | 1 => (match k.checker with | some q => quarantineCore (coreOf q) cause s | none => s)
    | 2 => quarantineCore (coreOf r.core) cause (condemn n cause (some e) s)
    | _ => condemn n cause (some e) s
  let s := if cause = caFinalStage && v.1 = 1 then
      (let s := if r.again.isSome then modRun n r.thread r.cmd (fun x => { x with
          final := x.final.map fun k => { k with decided := false, mism := false, third := none } }) s else s
       releaseHeld n r s)
    else s
  noteEnd n s

/-- VERDICT (R471): three results decide. For a command, `third` is what the third execution's digest differs by from the
primary's (where only s or the repeat count differs: 0 when it agrees with the primary, 1 when with the checker), none
where there is no third. A plan's verdict is taken with its computation. -/
def execVerdict (n : CtxId) (subject : Subject) (third : Option (BitVec 128)) (s : State) : Host.Outcome State Fault Refusal :=
  match subject with
  | .command cause thread cmd =>
    ok <| match findRun s n thread cmd with
    | some r => match checkOf r cause with
      | some k => if k.mism && !k.decided && attemptPending (s.ctx n) then cmdVerdict n cause r k third s else s
      | none => s
    | none => s
  | .plan => ok s
  | .anchor =>
    ok (decideAnchor n (third.map fun e => e.setWidth 256) s)

end Sys2Proof.Machine
end

