-- ==== Sys2Proof/Machine/Indigo.lean ====
section
/-! DEFINITION. Indigo time: frame and epoch starts (R347, R364, R365), stretch requests and their freeze (R367 to R372),
the servo and lock states (R355, R356), the time root (R361, R362), references (R351), cadence (R373, R374, R504, R507),
facility time (R377), the alarm (R379), memory sensors (R343) and the commit vote (R477, R479). -/

namespace Sys2Proof.Machine

/-- Time moves on to an instant of whole nanoseconds, when it lies ahead: a command that happens at that instant finds it
reached. -/
def advanceTo (t : Nat) (s : State) : State :=
  if nsNow s < t then { s with ind := { s.ind with ns := BitVec.ofNat 64 t, frac := 0 } } else s

/-! ### Stretch requests (R367 to R369) -/

/-- Merge a request for a frame: the maximum of N and the union of the causes (R368). -/
def mergeStretch (g : FrameNo) (n cause : Nat) (own : Bool) (l : List Stretch) : List Stretch :=
  match l.find? fun x => x.frame == g with
  | some x => (l.filter fun y => y.frame != g) ++ [{ frame := g, n := max x.n n, cause := x.cause ||| cause, own := x.own || own }]
  | none => l ++ [{ frame := g, n, cause, own }]

/-- The merged request for a frame. -/
def stretchFor (l : List Stretch) (g : FrameNo) : Stretch := (l.find? fun x => x.frame == g).getD { frame := g, n := 0, cause := 0 }

/-- Requests of n units for a frame, and of 16 for each later frame that the lateness still reaches (R367); the fuel bounds
their number. -/
def requestAll (cause : Nat) : Nat → FrameNo → Nat → Nat → List Stretch → List Stretch
  | 0, _, _, _, l => l
  | f + 1, g, n, late, l =>
    if late = 0 then l else requestAll cause f (g + 1) 16 (late - 4096) (mergeStretch g n cause true l)

/-- Raise this device's own request for a frame, or for the first frame still open (R367, R369). A request with cause droop
or thermal counts for R373. -/
def requestStretch (g : FrameNo) (late cause : Nat) (s : State) : State :=
  if late = 0 || cause = 0 then s
  else
    let g := max g (openFrame s)
    let f := frameNow s
    let sensor := if cause / 4 % 4 = 0 || s.ind.sensor.contains f then s.ind.sensor else s.ind.sensor ++ [f]
    { s with ind := { s.ind with stretch := requestAll cause (late / 4096 + 1) g (min 16 (ceilDiv late 256)) late s.ind.stretch, sensor := sensor } }

/-- STRETCH_REQUEST (R367): the fabric sequencer finds a lateness in ns for a frame, named by epoch × 65,536 + frame. -/
def execStretchRequest (frame lateness : Nat) (cause : BitVec 5) (s : State) : Host.Outcome State Fault Refusal :=
  ok (requestStretch frame lateness cause.toNat s)

/-- Fix the stretch of a frame as its merged request (R369). -/
def freezeFrame (g : FrameNo) (s : State) : State :=
  if s.ind.fixed.any fun x => x.frame == g then s
  else { s with ind := { s.ind with
    fixed := s.ind.fixed ++ [stretchFor s.ind.stretch g], stretch := s.ind.stretch.filter fun x => x.frame != g } }

/-- STRETCH_FREEZE (R369): the freeze instant of the next frame. -/
def execStretchFreeze (frame : Nat) (s : State) : Host.Outcome State Fault Refusal :=
  if frame = frameNow s + 1 then ok (freezeFrame frame (advanceTo (nextFreeze s) s)) else ok s

/-- Count a stretched frame at its start (R372). -/
def countStretch (x : Stretch) (i : IndSt) : IndSt :=
  let own := if x.own then satAdd i.ownCnt 1 else i.ownCnt
  if x.n = 0 then { i with ownCnt := own }
  else { i with
    ownCnt := own
    units := satAdd i.units x.n
    strA := Vector.ofFn fun k => if x.cause.testBit k.val then satAdd i.strA[k.val] 1 else i.strA[k.val]
    overrun := if x.cause.testBit 4 then satAdd i.overrun 1 else i.overrun }

/-! ### The time tree (R355) -/

/-- May a port carry time: up, not miscabled, in the map, and with a valid cell within the loss limit of 64 slots, or of 4 frames
on a link to or from Grey (R355, R517)? -/
def portUsable (s : State) (p : PortId) : Bool :=
  let q := s.port p
  let limit8 : Nat := if s.pwr.now = 2 || q.peerState = 2 then 4 * 4096 * slot8 s else 64 * slot8 s
  q.up && !q.miscabled && decide ((nsNow s - q.heardAt) * 8 < limit8) && (linkAt s.boot.cfg.map (devNum s) p.val).isSome

/-- The parent port: the least hop distance from the root, then the lowest number (R355). -/
def pickParent (s : State) : Option PortId :=
  let m := s.boot.cfg.map
  let ds := distances m s.ind.root.toNat
  let cands := (allPortIds.filter (portUsable s)).filterMap fun p =>
    (linkAt m (devNum s) p.val).bind fun (l : Nat × Nat × Nat) => (assocGet l.1 ds).map fun d => (p, d)
  (argMin (fun (a b : PortId × Nat) => decide (a.2 < b.2)) cands).map fun (x : PortId × Nat) => x.1

/-- Set the parent port. -/
def setParent (p : Option PortId) (s : State) : State :=
  { s with ind := { s.ind with parent := match p with | some p => BitVec.ofNat 4 p.val | none => 0xF } }

/-- The parent port, when there is one. -/
def parentPort (s : State) : Option PortId := if h : s.ind.parent.toNat < 8 then some ⟨s.ind.parent.toNat, h⟩ else none

/-- The arithmetic mean of a list, rounded toward zero. -/
def meanInt (l : List Int) : Int := if l.isEmpty then 0 else Int.tdiv (l.foldl (· + ·) 0) l.length

/-- Clamp an integer to ±k. -/
def clampInt (k x : Int) : Int := max (-k) (min k x)

/-! ### The commit vote (R477, R479) -/

/-- The key of an attempt (R477). -/
def attemptKey (t a : Nat) (ready : Bool) : Nat := (t % 2 ^ 55) * 512 + (a % 256) * 2 + ready.toNat

/-- The device's own value: none where it runs no thread of the context (R477). A shard that was renewed again after the horizon keeps
the device from being ready until its seal (R424). -/
def ownKey (c : Ctx) : Option Nat :=
  if c.v.started && !(boundThreads c).isEmpty then some (attemptKey c.v.t c.v.a (c.v.ready && sealsDone c)) else none

/-- The value of a subtree without threads (R478). -/
def noKey : Nat := 2 ^ 64 - 1

/-- The verdict horizon of a context: its device is ready from the start of the third frame after the frame in which the
attempt's end, its verdicts and its seals first all held (R476). -/
def horizonCtx (s : State) (n : CtxId) : State :=
  match (s.ctx n).v.endFrame with
  | some f => if (s.ctx n).v.live && sealsDone (s.ctx n) && decide (f + 3 ≤ frameNow s) then modV n (fun v => { v with ready := true }) s else s
  | none => s

/-- VERDICT_HORIZON (R476). -/
def execVerdictHorizon (n : CtxId) (s : State) : Host.Outcome State Fault Refusal := ok (horizonCtx s n)

/-- UP: the minimum of the own value and of the latest UP of every port on which CHILD was last received as 1 (R478). -/
def upKey (s : State) (n : CtxId) : Nat :=
  let own := match ownKey (s.ctx n) with | some k => k | none => noKey
  (allPortIds.filter fun p => (s.port p).child).foldl (fun m p => min m ((s.port p).up_[n.val]).toNat) own

/-- The root fixes the commit frame of the pending attempt when every device is ready for it (R479). A halted context votes too; its
halt then keeps the attempt from its commit (R480). -/
def voteCtx (s : State) (n : CtxId) : State :=
  let c := s.ctx n
  let m := upKey s n
  if s.ind.isRoot && inHall c && c.v.started && m == attemptKey c.v.t c.v.a true && c.v.condemnAt.isNone && c.v.commitAt.isNone then
    let cf := frameNow s + diameter s.boot.cfg.map + 6
    modV n (fun v => { v with
      commitAt := some (m, cf), down := (m, cf), haltAt := if c.state = 3 || c.state = 4 then v.haltAt else none }) s
  else s

/-! ### Memory sensors (R343) -/

/-- The new rate bits of one die: above 85 °C is 2×, at or below 82 °C is 1×, between them the rate stays. -/
def rateBits (old : Nat) (ts : List Int) : Nat :=
  (ts.zipIdx.foldl (fun v (t, i) =>
    let b := if 680 < t then true else if t ≤ 656 then false else v.testBit i
    if b == v.testBit i then v else v ^^^ 1 <<< i) old)

/-- How many of the low 8 bits differ. -/
def bitsDiffer (a b : Nat) : Nat := ((List.range 8).filter fun i => a.testBit i != b.testBit i).length

/-- Take the rates chosen at the last frame start, and choose those of the next from the sensors in 0.125 °C. -/
def sensorDie (ddr hbm : List Int) (d : DieSt) : DieSt :=
  let n := bitsDiffer d.ddr2x.toNat d.next2x.1.toNat + bitsDiffer d.hbm2x.toNat d.next2x.2.toNat
  { d with
    ddr2x := d.next2x.1, hbm2x := d.next2x.2, changes := satAdd d.changes n
    next2x := (BitVec.ofNat 8 (rateBits d.next2x.1.toNat (ddr.take 8)), BitVec.ofNat 6 (rateBits d.next2x.2.toNat (hbm.take 6))) }

/-- Ask for at least one level slower than NOW (R511, R343). -/
def forceSlower (s : State) : State :=
  { s with ind := { s.ind with cadReq := BitVec.ofNat 4 (max s.ind.cadReq.toNat (min (s.ind.cadNow.toNat + 1) 4)) } }

/-! ### The time root (R361, R362, R481) -/

/-- The list index of a device among the root candidates (R360). -/
def rootIndex (s : State) (dev : Nat) : Option (Fin 8) :=
  (List.finRange 8).find? fun k => let r := s.ind.roots[k.val]; bit r 15 && fld r 14 0 == dev

/-- A change of ROOT while a commit is pending or ready condemns (R481). -/
def rootCondemn (s : State) (n : CtxId) : State :=
  let v := (s.ctx n).v
  let held := match v.commitAt with | some (_, c) => decide (frameNow s < c) | none => v.ready
  if held then condemn n caRootChange none s else s

/-- Follow a root. -/
def followRoot (dev : Nat) (s : State) : State :=
  if s.ind.root.toNat = dev then s
  else
    let i := s.ind
    let s := { s with ind := { i with
      root := BitVec.ofNat 15 dev, rootIdx := BitVec.ofNat 3 (((rootIndex s dev).map (·.val)).getD 0)
      isRoot := dev == devNum s, rootChanges := satAdd i.rootChanges 1, underRoot := 0, seqLost := 0, takeover := false } }
    let s := if s.ind.isRoot then setParent none s else s
    allCtxIds.foldl rootCondemn s

/-- The index of a device among the candidates, 8 where it is none. -/
def rootRank (s : State) (dev : Nat) : Nat := ((rootIndex s dev).map (·.val)).getD 8

/-- The takeover that a device holds as announced: the one with the lowest index, its own among them (R362). -/
def takeoverOf (s : State) : Option Nat :=
  let own := if s.ind.takeover then [devNum s] else []
  argMin (fun a b => decide (rootRank s a < rootRank s b)) (s.ind.announced.toList ++ own)

/-- At the epoch boundary the announced device becomes the root of every other device; ROOT_TAKEOVER does it on that device
(R362). -/
def takeAnnounced (s : State) : State :=
  let t := takeoverOf s
  let s := { s with ind := { s.ind with announced := none } }
  match t with
  | some d => if d = devNum s then s else followRoot d s
  | none => s

/-- ROOT_LOST (R361): a LOCKED candidate that sees no advance of ROOT_SEQ for 4 frames acts as root. -/
def execRootLost (s : State) : Host.Outcome State Fault Refusal :=
  if s.ind.state = 1 && !s.ind.isRoot && 4 ≤ s.ind.seqLost && (rootIndex s (devNum s)).isSome then ok (followRoot (devNum s) s)
  else ok s

/-- ROOT_TAKEOVER (R362): a candidate with a lower index, LOCKED under the root for 1,024 frames, announces the takeover
from frame 65,024 and takes the root at the boundary. -/
def execRootTakeover (s : State) : Host.Outcome State Fault Refusal :=
  let i := s.ind
  if i.frame = 0 && i.takeover then ok (followRoot (devNum s) s)
  else match rootIndex s (devNum s) with
    | some k =>
      if !i.isRoot && i.state = 1 && k.val < i.rootIdx.toNat && 1024 ≤ i.underRoot && 65024 ≤ i.frame.toNat then
        ok { s with ind := { i with takeover := true } }
      else ok s
    | none => ok s

/-! ### FRAME_START -/

/-- The servo (R355, R358): the mean θ and D of the parent's cells of the frame, and the slew of the next. -/
def servo (s : State) : State :=
  let (th, de) : List Int × List Int := match parentPort s with
    | some p => ((s.port p).thetas, (s.port p).delays)
    | none => ([], [])
  let theta := meanInt th
  let m := theta.natAbs
  let i := s.ind
  let limit := if i.state = 2 then 32768 else 16384
  let timed := i.isRoot || !th.isEmpty
  let i : IndSt := { i with
    good := if timed && decide (m ≤ limit) then i.good + 1 else 0
    bad := if th.isEmpty then i.bad else if 49152 < m then i.bad + 1 else 0
    noPort := if i.isRoot || (pickParent s).isSome then 0 else i.noPort + 1
    seqLost := if i.isRoot || i.seqSeen then 0 else i.seqLost + 1
    lostRoot := if i.isRoot || i.seqSeen || i.seqLost < 3 then i.lostRoot else some (i.root.toNat, i.rootSeq)
    seqSeen := false
    underRoot := if i.state = 1 then i.underRoot + 1 else 0
    slew := -clampInt 8192 (Int.tdiv theta 4) }
  let i : IndSt := if th.isEmpty then i else { i with
    theta := BitVec.ofInt 32 theta, delay := BitVec.ofInt 32 (meanInt de) }
  let s := { s with ind := i, fab := s.fab.map fun q => { q with thetas := [], delays := [] } }
  if i.state = 0 then setParent (if i.isRoot then none else pickParent s) s else s

/-- The mean estimates of the frame that ends join the epoch's list, in 2^−16 W (R507). -/
def closeFramePower (p : PwrSt) : PwrSt :=
  let c := p.frameAcc.1
  { p with frameAcc := (0, 0, 0)
           frames := (if c = 0 then (0, 0) else (p.frameAcc.2.1 * 65536 / c, p.frameAcc.2.2 * 65536 / c)) :: p.frames }

/-- One frame in the records of running attempts (R449, word 7 of the header). -/
def recordFrame (two : Bool) (c : Ctx) : Ctx :=
  { c with record := c.record.map fun r =>
      if c.v.live && r.endNs.isNone then { r with frames := r.frames + 1, frames2x := r.frames2x + two.toNat } else r }

/-- The islands take a cadence level whose held F the rails are ready for (R504). -/
def takeReady (level : BitVec 4) (p : PwrSt) : PwrSt :=
  match p.heldF with
  | some (f, _) =>
    if p.heldCad && p.heldReady && f == level then { p with fLevel := f, heldF := none, heldCad := false, heldReady := false } else p
  | none => p

/-- The way back from Grey ends at the first frame start after the refill: the device is Bright, and the owner learns of the wake (R520,
R523). -/
def finishExit (s : State) : State :=
  if s.pwr.trans == .greyOut true then
    let s := toBright s
    raiseEvent evWake none [regGet s .pwrWake] s
  else s

/-- FRAME_START (R347, R355, R361, R364, R371, R476, R479): the next frame starts; a device that becomes ready at it is ready
for the root's vote of the same start. An announced takeover of the root happens at the start of frame 0 (R362). The operands
are the readings of the HBM stacks (six per die) and of the hottest DIMM of each DDR5 channel (eight per die), in 0.125 °C
(R343), and the measured deviations of the two reference inputs in 0.01 ppm (R352). A late cadence level whose rails are ready is
taken (R504), and a way back from Grey ends (R523). -/
def execFrameStart (hbm ddr : List Int) (refA refB : BitVec 16) (s : State) : Host.Outcome State Fault Refusal :=
  let start := nextStart s
  let f := frameNow s + 1
  let s := freezeFrame f s
  let x := stretchFor s.ind.fixed f
  let s := advanceTo start s
  let i := s.ind
  let i : IndSt := { i with
    epoch := BitVec.ofNat 48 (f / 65536), frame := BitVec.ofNat 16 (f % 65536), slot := 0, phase := 0
    frameStart := start, gap := 256 * x.n, lastSlot8 := slot8 s
    fixed := i.fixed.filter fun y => f < y.frame
    stretch := i.stretch.filter fun y => f < y.frame
    sensor := i.sensor.filter fun g => f < g + 1024
    cadPrev := i.cadSeen, cadSeen := 0
    rootSeq := if i.isRoot then i.rootSeq + 1 else i.rootSeq
    devA := refA, devB := refB
    state := if i.state = 3 then 0 else i.state }
  let s := finishExit (servo { s with ind := countStretch x i, pwr := takeReady s.ind.cadNow (closeFramePower s.pwr) })
  let s := if f % 65536 = 0 then takeAnnounced s else s
  let s := (s.modDie 0 (sensorDie ddr hbm)).modDie 1 (sensorDie (ddr.drop 8) (hbm.drop 6))
  let s := if (hbm ++ ddr).any fun t => decide (760 < t) then forceSlower s else s
  let two := s.dies.toList.any fun d => d.ddr2x != 0 || d.hbm2x != 0
  let s := s.allCtxs (recordFrame two)
  let s := allCtxIds.foldl judgeEnded (allCtxIds.foldl (fun s n => countWaits n s) s)
  ok (startScrub (allCtxIds.foldl voteCtx (allCtxIds.foldl horizonCtx s)))

/-! ### EPOCH_START and cadence -/

/-- Do both core rails' set points in effect support a level (R501, R503)? -/
def supports (p : PwrSt) (level : Nat) : Bool := decide (setPoint level ≤ p.vD1.toNat) && decide (setPoint level ≤ p.vD0.toNat)

/-- A change to a faster level, in its transition gap (R504): the islands take it where the rails are ready for it, or where no level
waits for them and their set points support it. Otherwise they keep the old clock, the level waits in HELD_F for the first frame
start after the rails are ready, and VF_LATE counts. -/
def takeFaster (level : BitVec 4) (t : Nat) (p : PwrSt) : PwrSt :=
  let taken : PwrSt := { p with fLevel := level, heldF := none, heldCad := false, heldReady := false }
  let waits := p.heldCad && (match p.heldF with | some (f, _) => f == level | none => false)
  if (if waits then p.heldReady else supports p level.toNat) then taken
  else { p with
    heldF := if waits then p.heldF else some (level, t), heldCad := true, heldReady := false, vfLate := satAdd p.vfLate 1 }

/-- EPOCH_START (R364, R365, R374, R504): at the start of frame 0 the level becomes NEXT, with a transition gap on a change.
The islands follow in the gap: to a slower level at once, with the lower set points written after it; to a faster level
where the rails have reached it, and otherwise late. -/
def execEpochStart (s : State) : Host.Outcome State Fault Refusal :=
  if s.ind.frame != 0 || s.ind.cadNext = 0xF then ok s
  else
    let old := s.ind.cadNow.toNat
    let new := s.ind.cadNext.toNat
    let s := { s with
      ind := { s.ind with
        cadNow := s.ind.cadNext, cadNext := 0xF
        gap := s.ind.gap + (if old = new then 0 else 2048)
        cadChanges := if old = new then s.ind.cadChanges else satAdd s.ind.cadChanges 1 }
      pwr := { s.pwr with frames := [], hotInEpoch := s.pwr.hot } }
    if old = new then ok s
    else if old < new then
      let v := BitVec.ofNat 8 (setPoint new)
      ok { s with pwr := { s.pwr with
        fLevel := BitVec.ofNat 4 new, heldF := none, heldCad := false, heldReady := false, vD1 := v, vD0 := v, heldV := none } }
    else ok { s with pwr := takeFaster (BitVec.ofNat 4 new) (nsNow s) s.pwr }

/-- Core-rail dynamic power of a level relative to C0, in thousandths (R501). -/
def levelK (level : Nat) : Nat := [1000, 812, 648, 408, 225].getD level 225

/-- Sums of the nominal and core-rail means over every window of consecutive frames; the fuel is the number of frames. -/
def windowSums (w : Nat) : List (Nat × Nat) → List (Nat × Nat) → Nat × Nat → List (Nat × Nat)
  | a :: as, b :: bs, (x, y) =>
    let n := (x + a.1 - b.1, y + a.2 - b.2)
    n :: windowSums w as bs n
  | _, _, _ => []

/-- P and Pd of R507 as sums over the window with the largest mean, and the window's length. -/
def bestWindow (fs : List (Nat × Nat)) : Nat × Nat × Nat :=
  let w := min 1024 fs.length
  let first := (fs.take w).foldl (fun (a x : Nat × Nat) => (a.1 + x.1, a.2 + x.2)) (0, 0)
  let all := first :: windowSums w (fs.drop w) fs first
  let b := all.foldl (fun (m x : Nat × Nat) => if m.1 < x.1 then x else m) (0, 0)
  (b.1, b.2, w)

/-- The REQ of R507. Power sums are in 2^−16 W over w frames. -/
def cadenceReq (s : State) : Nat :=
  let p := s.pwr
  let now := s.ind.cadNow.toNat
  let (sp, sd, w) := bestWindow p.frames
  let lim := p.limit.toNat * w * 65536 * levelK now
  let at_ (l : Nat) : Nat := (sp - sd) * levelK now + sd * levelK l
  let slow := ((List.range 5).find? fun l => decide (now ≤ l) && (l == 4 || decide (100 * at_ l ≤ 97 * lim))).getD 4
  let calm := !p.hotInEpoch && !p.hot && decide (s.ind.sensor.length < 8)
  let l := if slow = now && 0 < now && calm && 100 * at_ (now - 1) ≤ 90 * lim then now - 1 else slow
  if p.hot || 64 ≤ s.ind.sensor.length then max l (min (now + 1) 4) else l

/-- CADENCE_DECISION (R507): the Renine controller sets REQ at the start of frame 64,512. -/
def execCadenceDecision (s : State) : Host.Outcome State Fault Refusal :=
  if s.ind.frame = 64512 then ok { s with ind := { s.ind with cadReq := BitVec.ofNat 4 (cadenceReq s) } } else ok s

/-- The slowest level that the device holds as asked for in the frame (R373). -/
def cadMerged (s : State) : Nat := max s.ind.cadReq.toNat s.ind.cadSeen

/-- CAD_NEXT_FIX (R374): at the start of frame 65,024 the root fixes NEXT as the slowest level that it holds: its own REQ and
the CAD_REQ values of the frame that ended and of the frame so far (log entry 33). A root that takes over later announces what it
has seen. -/
def execCadNextFix (s : State) : Host.Outcome State Fault Refusal :=
  if s.ind.isRoot && s.ind.frame = 65024 && s.ind.cadNext = 0xF then
    ok { s with ind := { s.ind with cadNext := BitVec.ofNat 4 (min (max (cadMerged s) s.ind.cadPrev) 4) } }
  else ok s

/-- CAD_NEXT_DEFAULT (R374, R504): at frame 65,280 NEXT is NOW where none came; for a faster level the higher set points are
written and the clock's level waits for the rails. -/
def execCadNextDefault (s : State) : Host.Outcome State Fault Refusal :=
  if s.ind.frame != 65280 then ok s
  else
    let s := if s.ind.cadNext = 0xF then { s with ind := { s.ind with cadNext := s.ind.cadNow } } else s
    if s.ind.cadNext.toNat < s.ind.cadNow.toNat then
      let v := BitVec.ofNat 8 (setPoint s.ind.cadNext.toNat)
      ok { s with pwr := { s.pwr with
        vD1 := v, vD0 := v, heldV := none, heldF := some (s.ind.cadNext, nsNow s), heldCad := true, heldReady := false } }
    else ok s

/-! ### Lock states (R355, R356) -/

/-- ENTER_LOCKED (R356). -/
def execEnterLocked (s : State) : Host.Outcome State Fault Refusal :=
  if (s.ind.state = 0 || s.ind.state = 2) && 16 ≤ s.ind.good then
    ok { s with
      ind := { s.ind with state := 1, bad := 0 }
      boot := { s.boot with lateTime := s.boot.lateTime || bootLate 8500 s } }
  else ok s

/-- REPARENT (R355, R356): the parent link is lost or no longer the nearest; a new parent is chosen. -/
def execReparent (s : State) : Host.Outcome State Fault Refusal :=
  let p := pickParent s
  if s.ind.isRoot || !(s.ind.state = 1 || s.ind.state = 2) || p == parentPort s then ok s
  else
    ok (setParent p { s with ind := { s.ind with state := 2, good := 0, reparents := satAdd s.ind.reparents 1 } })

/-- Enter LOST: job halt, TIME_LOSS and a Rust record (R356). -/
def enterLost (s : State) : State :=
  let s := { s with ind := { s.ind with state := 3, losses := satAdd s.ind.losses 1, good := 0, bad := 0, noPort := 0 } }
  let s := raiseEvent evTimeLoss none [regGet s .indStatus, regGet s .indOffset] (haltAll s)
  raiseRust { kind := ruTimeLoss } s

/-- ENTER_LOST (R356). -/
def execEnterLost (s : State) : Host.Outcome State Fault Refusal :=
  let i := s.ind
  let port := !i.isRoot && (decide (4 ≤ i.bad) || decide (4 ≤ i.noPort))
  if (i.state = 1 || i.state = 2) && (port || (i.deadA && i.deadB)) then ok (enterLost s) else ok s

/-! ### References, facility time and the alarm -/

/-- REF_FAULT (R351): a selected input without edges or off frequency is replaced by the other, unless that one lacks edges; where two inputs disagree and nothing
else tells which, both are marked. Both without edges is LOST. -/
def execRefFault (f : RefFault) (s : State) : Host.Outcome State Fault Refusal :=
  let mark (b dead : Bool) (s : State) : State :=
    let i := s.ind
    { s with ind := if b then { i with failB := true, deadB := i.deadB || dead } else { i with failA := true, deadA := i.deadA || dead } }
  let event (s : State) : State := raiseEvent evRefFault none [regGet s .indRef] s
  let one (b dead : Bool) (s : State) : State :=
    let sel := s.ind.sel = 1
    let s := mark b dead s
    let otherDead := if b then s.ind.deadA else s.ind.deadB
    if s.ind.deadA && s.ind.deadB then
      (let s := event s
       if s.ind.state = 3 then s else enterLost s)
    else if sel == b then
      event (if otherDead then s else { s with ind := { s.ind with sel := if b then 0 else 1 } })
    else s
  match f with
  | .missing b => ok (one b true s)
  | .deviates b => ok (one b false s)
  | .disagree =>
    if s.ind.isRoot || s.ind.parent = 0xF then ok (event { s with ind := { s.ind with failA := true, failB := true } }) else ok s

/-- PTP_MESSAGE (R377): the offset that the slave clock keeps, and whether it holds. -/
def execPtpMessage (offset : Word) (valid : Bool) (s : State) : Host.Outcome State Fault Refusal :=
  if s.ind.ptpPort = 0xF then ok s else ok { s with ind := { s.ind with facOffset := offset, ptpValid := valid } }

/-- ALARM (R379). -/
def execAlarm (s : State) : Host.Outcome State Fault Refusal :=
  if s.ind.alarmEn && s.ind.alarmAt.toNat ≤ nsNow s then ok (fireAlarm s) else ok s

end Sys2Proof.Machine
end

