-- ==== Sys2Proof/Machine/Power.lean ====
section
/-! DEFINITION. Power: estimate intervals (R497 to R500, R505, R506, R510 to R512), supply droop (R508), held set points
(R503, R504), the emergency ramp-down (R513, R584), the power states (R516 to R518, R523, R524, R582) and the watchdog
(R496). -/

namespace Sys2Proof.Machine

/-! ### The emergency ramp-down (R513, R584) -/

/-- Is the device up: powered, out of reset and not in Black? -/
def running (s : State) : Bool := s.pwr.now != 3 && !s.sup.sequencing && s.sup.railsEn && s.sup.aonUp

/-- Does the board hold the rails of groups A to D up (R572, R584)? -/
def powered (s : State) : Bool := s.sup.railsEn && s.sup.aonUp

/-- A cause of the emergency ramp-down, by its bit in PWR_SEQ.CAUSES. Every running context halts, one ramp runs, and a
power-state transition in progress, a REBOOT's too, gives way to it. -/
def startRamp (bitNo : Nat) (s : State) : State :=
  let mark := BitVec.ofNat 8 (2 ^ bitNo)
  if !powered s then s
  else if s.pwr.ramp.isSome then { s with sup := { s.sup with causes := s.sup.causes ||| mark } }
  else
    let s := haltAll s
    { s with
      sup := { s.sup with causes := mark, ramps := satAdd s.sup.ramps 1 }
      boot := { s.boot with rebooting := false }
      pwr := { s.pwr with
        ramp := some ((nsNow s / 64 + 1) * 64), waves := Vector.replicate 8 0, clamped := 0, trans := .blackIn, busy := true
        exitAfter := none } }

/-- Has the ramp-down ended: every wave has stopped? -/
def rampDone (s : State) : Bool := s.pwr.ramp.isSome && s.pwr.waves.toList.all (· == 2)

/-- The device in reset (R577): the Rust store, the flash with its lists and logs, the fuses and the always-on state of the
supplies survive; the count of sequence faults is cleared (R583). -/
def deviceReset (s : State) : State :=
  let s := setTime 0 s
  { pending := s.pending, out := s.out, free := s.free, flash := s.flash, rust := s.rust
    boot := { count := s.boot.count, fuses := s.boot.fuses, flashSize := s.boot.flashSize, unverified := s.boot.unverified }
    scrub := { list := s.scrub.list, full := s.scrub.full }
    sup := { s.sup with railsEn := true, sequencing := true, faults := 0, faultAt := none } }

/-- RAMP_DOWN_WAVE (R513, R577, R585): the next act of a wave at its instant: its fall to quarter rate, or its stop. A die of `low`,
whose core rail has fallen below 0.55 V, stops at once and clamps its outputs; when both have, every wave has stopped. The last
stop of a ramp-down with the cause RESET_N resets the device. -/
def execRampDownWave (w : Fin 8) (low : BitVec 2) (s : State) : Host.Outcome State Fault Refusal :=
  match s.pwr.ramp with
  | none => ok s
  | some t0 =>
    let k := s.pwr.waves[w.val]
    if 2 ≤ k then ok s
    else
      let s := { s with pwr := { s.pwr with clamped := s.pwr.clamped ||| low } }
      let s :=
        if s.pwr.clamped = 3 then { s with pwr := { s.pwr with waves := Vector.replicate 8 2 } }
        else
          let s := advanceTo (t0 + 2560 * w.val + 10240 * k) s
          { s with pwr := { s.pwr with waves := upd s.pwr.waves w fun _ => k + 1 } }
      ok (if rampDone s && s.sup.causes.getLsbD 3 then deviceReset s else s)

/-! ### Estimate intervals -/

/-- Add energy in 2^−16 µJ to a counter with its fraction (R499). -/
def addEnergy (uj : Word) (frac : BitVec 16) (e : Nat) : Word × BitVec 16 :=
  let t := uj.toNat * 65536 + frac.toNat + e
  (BitVec.ofNat 64 (t / 65536), BitVec.ofNat 16 (t % 65536))

/-- The number of an activity class, by which the weights name it. -/
def actCode : ActClass → Nat
  | .product f => f.val
  | .element => 16
  | .reduction => 17
  | .layout => 18
  | .bank => 19
  | .network => 20
  | .seam => 21
  | .hbm => 22
  | .ddr => 23
  | .cell p => 24 + p.val

/-- The numbers of the refreshes of the two memories among the weights. -/
def refreshCode (ddr : Bool) : Nat := if ddr then 33 else 32

/-- The context to which an activity's energy goes, none for the device counter (R499). -/
def chargedTo (s : State) : Doer → Option CtxId
  | .engine n => some n
  | .check n => some n
  | .channel c ch => let h := (s.core c).chan[ch.val]; if h.valid then some h.ctx else none
  | .bank n => some n
  | .window n => some n
  | .transit => none

/-- The energy of activities by a table of weights, in 2^−16 µJ. -/
def weighed (weight : Nat → Nat) (acts : List Act) : Nat := acts.foldl (fun e a => e + a.count * weight (actCode a.cls)) 0

/-- The dynamic energy that goes to a context, or to the device counter (R499). -/
def dynamicOf (s : State) (r : Interval) (n : Option CtxId) : Nat :=
  weighed Config.calibWeight (r.acts.filter fun a => chargedTo s a.doer == n)

/-- The shared energy of an interval: static power, refresh, idle SerDes, Indigo and management (R497, R499). -/
def sharedEnergy (s : State) (r : Interval) : Nat :=
  Config.staticEnergy r.tj0 r.tj1 s.pwr.vD1.toNat s.pwr.vD0.toNat + Config.idleEnergy s.ind.cadNow.toNat s.pwr.now.toNat +
    r.refHbm * Config.calibWeight (refreshCode false) + r.refDdr * Config.calibWeight (refreshCode true)

/-- The shares of the shared energy: in proportion to the dynamic energy of the contexts in STATE 0x02, the rest of the
division to the device counter (R499). -/
def sharedOf (s : State) (r : Interval) : List Nat × Nat :=
  let dyn := allCtxIds.map fun n => if (s.ctx n).state = 2 then dynamicOf s r (some n) else 0
  let total := dyn.foldl (· + ·) 0
  let e := sharedEnergy s r
  let shares := dyn.map fun d => if total = 0 then 0 else e * d / total
  (shares, e - shares.foldl (· + ·) 0)

/-- Attribute the calibrated energy of an interval (R499). -/
def chargeEnergy (s : State) (r : Interval) (p : PwrSt) : PwrSt :=
  let (shares, rest) := sharedOf s r
  let one (n : Fin 8) : Word × BitVec 16 :=
    addEnergy p.uj[n.val] p.ujFrac[n.val] (dynamicOf s r (some n) + shares.getD n.val 0)
  let dev := addEnergy p.ujDev p.ujDevFrac (dynamicOf s r none + rest)
  { p with uj := Vector.ofFn fun n => (one n).1, ujFrac := Vector.ofFn fun n => (one n).2
           ujDev := dev.1, ujDevFrac := dev.2 }

/-- The mean power of an interval of 2,048 ns in W, rounded down (log entry 37), for its energy in 2^−16 µJ. -/
def watts (e : Nat) : Nat := e * 1000 / (65536 * 2048)

/-- The nominal estimate (R497, R498): counts by the nominal weights and the fixed power of level and power state, which holds refresh
at the 1× rate whatever the rate in use. -/
def nominalW (s : State) (r : Interval) : Nat :=
  watts (weighed Config.nominalWeight r.acts + Config.nominalFixed s.ind.cadNow.toNat s.pwr.now.toNat)

/-- The part of the nominal estimate that the core rails deliver (R507). -/
def coreW (s : State) (r : Interval) : Nat :=
  watts (weighed Config.coreWeight r.acts + Config.coreFixed s.ind.cadNow.toNat s.pwr.now.toNat)

/-- The calibrated estimate (R497): the same counts by the fused weights, static power, and the energy that no activity counts. -/
def calibW (s : State) (r : Interval) : Nat := watts (weighed Config.calibWeight r.acts + sharedEnergy s r)

/-- The estimate registers after an interval (R497, R500): AVG_W is the mean of at most 64 intervals. -/
def estimates (s : State) (r : Interval) (p : PwrSt) : PwrSt :=
  let window := (nominalW s r :: p.window).take 64
  { p with
    nominal := BitVec.ofNat 16 (nominalW s r), calib := BitVec.ofNat 16 (calibW s r), window := window
    avg := BitVec.ofNat 16 (window.foldl (· + ·) 0 / window.length)
    frameAcc := (p.frameAcc.1 + 1, p.frameAcc.2.1 + nominalW s r, p.frameAcc.2.2 + coreW s r) }

/-- The junction readings of an interval, and HOT (R510, R511). -/
def temperatures (r : Interval) (p : PwrSt) : PwrSt :=
  let top := max r.tj0 r.tj1
  let hot := decide (840 < top) || (p.hot && decide (800 < top))
  { p with
    tjD0 := BitVec.ofInt 16 r.tj0, tjD1 := BitVec.ofInt 16 r.tj1, tjMax := BitVec.ofInt 16 top
    tjPeak := BitVec.ofInt 16 (if p.tjSeen then max p.tjPeak.toInt top else top), tjSeen := true, hot := hot, hotInEpoch := p.hotInEpoch || hot
    hotEvents := if hot && !p.hot then satAdd p.hotEvents 1 else p.hotEvents }

/-- The power guard at the end of an interval (R505, R506): 0.85 of the limit counts while HOT is 1, and the guard ends at
0.97 of that. -/
def guardAfter (p : PwrSt) : PwrSt :=
  let eff := p.guardLimit.toNat * (if p.hot then 85 else 100)
  let avg := p.avg.toNat
  let on := if p.guard then decide (97 * eff < avg * 10000) else decide (eff < avg * 100)
  { p with
    guardIntervals := if p.guard then satAdd p.guardIntervals 1 else p.guardIntervals
    guard := on, guardLimit := p.limit }

/-- THERMAL_TRIP, steps 1 and 2 (R512); BLACK_ENTRY does the rest. -/
def thermalTrip (s : State) : State :=
  if !running s then s else startRamp 0 { s with sup := { s.sup with thermtripN := false } }

/-- ESTIMATE_INTERVAL (R497): at the next multiple of 2,048 ns the device closes an interval. -/
def execEstimateInterval (r : Interval) (s : State) : Host.Outcome State Fault Refusal :=
  let t := max (ceilDiv (nsNow s) 2048 * 2048) ((s.pwr.lastInterval / 2048 + 1) * 2048)
  let s := advanceTo t s
  let was := s.pwr.hot
  let p := guardAfter (temperatures r (estimates s r (chargeEnergy s r s.pwr)))
  let s := { s with pwr := { p with lastInterval := t } }
  let s := if was || p.hot then s.allCtxs fun c => { c with record := c.record.map fun x =>
      if x.endNs.isNone then { x with hotSeen := true } else x } else s
  let top := max r.tj0 r.tj1
  let s := if 840 < top then forceSlower s else s
  let s := if p.hot && !was then raiseEvent evThermalHot none [regGet s .pwrTemp] s else s
  ok (if 920 < top then thermalTrip s else s)

/-! ### Supply droop (R508) -/

/-- DROOP: an island begins to suppress clock edges. -/
def execDroop (island : Fin 16) (s : State) : Host.Outcome State Fault Refusal :=
  match s.pwr.islands[island.val] with
  | some _ => ok s
  | none => ok { s with pwr := { s.pwr with
      islands := upd s.pwr.islands island fun _ => some 0, droopEvents := satAdd s.pwr.droopEvents 1 } }

/-- DROOP_END: 16 cycles above the threshold end the event, which suppressed `lost` cycles. -/
def execDroopEnd (island : Fin 16) (lost : Nat) (s : State) : Host.Outcome State Fault Refusal :=
  match s.pwr.islands[island.val] with
  | some _ => ok { s with pwr := { s.pwr with
      islands := upd s.pwr.islands island fun _ => none, droopLost := satAdd s.pwr.droopLost lost } }
  | none => ok s

/-- DROOP_LONG: an event has passed 256 suppressed cycles; the owner learns the region, the die and the cycles. -/
def execDroopLong (island : Fin 16) (lost : Nat) (s : State) : Host.Outcome State Fault Refusal :=
  match s.pwr.islands[island.val] with
  | some k =>
    if k ≤ 256 && decide (256 < lost) then
      ok (raiseEvent evDroopLong none [put island.val 0 ||| put (island.val / 8) 8, put lost 0]
        { s with pwr := { s.pwr with islands := upd s.pwr.islands island fun _ => some lost } })
    else ok s
  | none => ok s

/-! ### Held set points (R503, R504) -/

/-- A held level whose set point both rails hold (R503): a write's is applied; a cadence change's waits for its gap, or, when it is late,
for the next frame start (R504). -/
def applyHeldF (railsReady : Bool) (p : PwrSt) : PwrSt :=
  match p.heldF with
  | some (f, _) =>
    if !(railsReady && supports p f.toNat) then p
    else if p.heldCad then { p with heldReady := true }
    else { p with fLevel := f, heldF := none }
  | none => p

/-- Apply held voltages that meet the set point of F_LEVEL. -/
def applyHeldV (p : PwrSt) : PwrSt :=
  match p.heldV with
  | some h =>
    if setPoint p.fLevel.toNat ≤ h.d1.toNat && setPoint p.fLevel.toNat ≤ h.d0.toNat then
      { p with vD1 := h.d1, vD0 := h.d0, heldV := none }
    else p
  | none => p

/-- VF_APPLY (R503): a held write is applied once its order is met. -/
def execVfApply (railsReady : Bool) (s : State) : Host.Outcome State Fault Refusal :=
  ok { s with pwr := applyHeldV (applyHeldF railsReady s.pwr) }

/-- VF_EXPIRED (R503): each write held for 1 ms is discarded and counted, and the owner learns of it. A level that waits for a cadence
change is no such write (R504). -/
def execVfExpired (s : State) : Host.Outcome State Fault Refusal :=
  let late (t : Nat) : Bool := decide (t + 1000000 ≤ nsNow s)
  let gone (s : State) : State :=
    let s := { s with pwr := { s.pwr with vfExpired := satAdd s.pwr.vfExpired 1 } }
    raiseEvent evVfOrder none [regGet s .pwrVf] s
  let f := !s.pwr.heldCad && (match s.pwr.heldF with | some (_, t) => late t | none => false)
  let s := match s.pwr.heldV with
    | some h => if late h.at_ then gone { s with pwr := { s.pwr with heldV := none } } else s
    | none => s
  ok (if f then gone { s with pwr := { s.pwr with heldF := none } } else s)

/-! ### Power states -/

/-- DIM_TRANSITION (R516): a transition into or out of Dim ends. -/
def execDimTransition (s : State) : Host.Outcome State Fault Refusal :=
  match s.pwr.trans with
  | .dimIn => ok (endTransition { s with pwr := { s.pwr with now := 1, busy := false, trans := .none } })
  | .dimOut => ok (toBright s)
  | _ => ok s

/-- SIGNAL_DETECTED (R520): a signal on H0, or on H1, after no signal. -/
def execSignalDetected (h1 : Bool) (s : State) : Host.Outcome State Fault Refusal :=
  match h1 with
  | true => ok (wakeBy 4 s)
  | false => ok (wakeBy 4 s)

/-- Does any on-chip bank still clear (R215)? -/
def banksBusy (s : State) : Bool :=
  (allCoreIds.any fun c => (s.core c).own.toList.any (·.busy)) ||
    s.dies.toList.any fun d => (d.stg.toList.any fun (v : Vector BankOwn 48) => v.toList.any (·.busy)) || d.pool.toList.any (·.busy)

/-- GREY_ENTRY (R522 to R524): the clamps are set, after the domains' last transaction, or the entry completes with the compute domains
off. A wake source seen after the clamps starts the exit at once. -/
def execGreyEntry (clamps : Bool) (s : State) : Host.Outcome State Fault Refusal :=
  match s.pwr.trans, clamps with
  | .greyIn false, true => ok (if banksBusy s then s else { s with pwr := { s.pwr with trans := .greyIn true, isolated := true } })
  | .greyIn true, false =>
    let s := endTransition { s with pwr := { s.pwr with now := 2, busy := false, trans := .none } }
    match s.pwr.exitAfter with
    | some c => ok { s with pwr := { s.pwr with
        trans := .greyOut false, busy := true, req := 0, exitAfter := none, wakeCause := BitVec.ofNat 8 c } }
    | none => ok s
  | _, _ => ok s

/-- Is a scratchpad bank one that Grey retained: RETAIN was 1 at the request and still is (R225)? -/
def retained (s : State) (c : CoreId) (b : Fin 56) : Bool :=
  (s.core c).own[b.val].retain && s.pwr.retainMark.contains (c, b.val)

/-- The reset value of an OWN register, DISABLED excepted (R225). -/
def ownReset (o : BankOwn) : BankOwn := { disabled := o.disabled }

/-- The banks that Grey did not retain are cleared and their OWN registers return to reset values (R225). -/
def clearBanks (s : State) : State :=
  let kept : List (Nat × Nat) := allCoreIds.flatMap fun c =>
    ((List.finRange 56).filter fun b => retained s c b).map fun b => (spadBase c.val + b.val * bankBytes, bankBytes)
  let stays (a : Nat) : Bool :=
    a < 0x100000000000 || ctlBase ≤ a || kept.any fun (k : Nat × Nat) => decide (k.1 ≤ a) && decide (a < k.1 + k.2)
  { s with
    mem := s.mem.filter fun (c : Nat × Byte) => stays c.1
    cores := Vector.ofFn fun c : Fin 128 =>
      let k := s.core c
      { k with own := Vector.ofFn fun b : Fin 56 => if retained s c b then k.own[b.val] else ownReset k.own[b.val] }
    dies := s.dies.map fun d => { d with
      stg := d.stg.map fun (v : Vector BankOwn 48) => v.map ownReset, pool := d.pool.map ownReset } }

/-- Refill the slabs of a context in STATE 0x01 from their images (R517). -/
def refill (s : State) (n : CtxId) : State :=
  let c := s.ctx n
  match c.job with
  | some j => if c.state = 1 then fillSlabs j (c.b.slabs ++ c.b.mirrors) s else s
  | none => s

/-- GREY_EXIT (R517, R522, R523): the supply is good and the reset has ended, the clamps are released, the banks cleared and the slabs
refilled. The next frame start makes the device Bright. -/
def execGreyExit (s : State) : Host.Outcome State Fault Refusal :=
  if s.pwr.trans != .greyOut false then ok s
  else
    let s := allCtxIds.foldl refill (clearBanks { s with pwr := { s.pwr with isolated := false } })
    ok { s with pwr := { s.pwr with trans := .greyOut true } }

/-- Black unloads a context (R518). -/
def blackCtx (s : State) (n : CtxId) : State := setMode n 0 9 s

/-- What is left of the device in Black (R514, R518): the events of the entry itself, the Rust store, the flash with the retirement list, and what the always-on domain
itself holds: the supplies' state, the junction readings, the settings of the image's checks that the orders of R552 need, the
last wake's cause (log entry 38). Every compute domain is clamped. -/
def blackState (s : State) : State :=
  let p := s.pwr
  let keep : PwrSt := {
    now := 3, tjD0 := p.tjD0, tjD1 := p.tjD1, tjMax := p.tjMax, tjPeak := p.tjPeak, tjSeen := p.tjSeen, hot := p.hot
    wakeCause := p.wakeCause, isolated := true }
  let s := setTime 0 s
  { pending := s.pending, out := s.out, free := s.free, flash := s.flash
    host := s.host, rust := s.rust, boot := { s.boot with rebooting := false }, sup := { s.sup with railsEn := false, sequencing := false }
    scrub := { list := s.scrub.list, full := s.scrub.full, older := s.scrub.older }, pwr := keep }

/-- BLACK_ENTRY (R582, R512, R518, R521, R522, R577, R584): the isolation is done, after the last transaction, or after a ramp-down once
its last wave has stopped. A ramp-down that a late RESET_N joined ends in reset. A REBOOT then raises RAILS_EN again.
Sessions, ownership, claims and earlier events are lost (log entry 38). -/
def execBlackEntry (s : State) : Host.Outcome State Fault Refusal :=
  let ramp := s.pwr.ramp.isSome
  if s.pwr.trans != .blackIn || (if ramp then !rampDone s else banksBusy s) then ok s
  else if ramp && s.sup.causes.getLsbD 3 then ok (deviceReset s)
  else
    let tripped := ramp && s.sup.causes.getLsbD 0
    let again := s.boot.rebooting
    let s := blackState (allCtxIds.foldl blackCtx { s with host := {} })
    let s := if tripped then raiseEvent evThermalTrip none [regGet s .pwrTemp] s else s
    ok (if again then { s with sup := { s.sup with railsEn := true, sequencing := true }, pwr := { s.pwr with busy := true } } else s)

/-! ### The watchdog (R496) -/

/-- WATCHDOG (R496): not restarted for 100 ms, it marks job halt for every running context and restarts the controller. -/
def execWatchdog (s : State) : Host.Outcome State Fault Refusal :=
  if s.rust.watchdog + 100000000 ≤ (nsNow s : Int) then
    let s := haltAll s
    ok { s with rust := { s.rust with watchdog := nsNow s, wdRecord := true } }
  else ok s

/-- WATCHDOG_RESTART (R496): the firmware restarts the watchdog; after an expiry it produces the record. -/
def execWatchdogRestart (s : State) : Host.Outcome State Fault Refusal :=
  let due := s.rust.wdRecord
  let s := { s with rust := { s.rust with watchdog := nsNow s, wdRecord := false } }
  ok (if due then raiseRust { kind := ruWatchdog } s else s)

end Sys2Proof.Machine
end

