-- ==== Sys2Proof/Machine/Supply.lean ====
section
/-! DEFINITION. Supplies, always-on feeds and control pins (R571 to R585). -/

namespace Sys2Proof.Machine

/-! ### Rails and sequencing (R572, R581, R583, R584) -/

/-- The sequence group of a rail of groups A to D: 0 to 3 (R571, R587). -/
def railGroup (rail : Nat) : Nat := [3, 3, 1, 1, 2, 0, 1, 2, 0, 0].getD rail 4

/-- The window of a rail in µV (R571): a core rail's from 80 mV below to 60 mV above the set point in effect, another's 5% or 3% about
its nominal voltage. -/
def railWindow (s : State) (rail : Nat) : Nat × Nat :=
  let about (uv pct : Nat) : Nat × Nat := (uv * (100 - pct) / 100, uv * (100 + pct) / 100)
  let core (v : BitVec 8) : Nat × Nat := (5000 * v.toNat - 80000, 5000 * v.toNat + 60000)
  match rail with
  | 0 => core s.pwr.vD0
  | 1 => core s.pwr.vD1
  | 2 => about (750000 + Config.sramSet.val) 5
  | 3 => about 1050000 5
  | 4 => about 750000 5
  | 5 => about 1800000 5
  | 6 => about 1100000 5
  | 7 => about 750000 3
  | 8 => about 1200000 5
  | 9 => about 1800000 5
  | _ => about 800000 5

/-- Does a voltage lie in a rail's window? -/
def inWindow (s : State) (rail uv : Nat) : Bool :=
  let w := railWindow s rail
  decide (w.1 ≤ uv) && decide (uv ≤ w.2)

/-- Is every rail of groups A to D in window? -/
def railsIn (u : SupSt) : Bool := (List.range 10).all fun r => u.rails.getLsbD r

/-- Set or clear a rail's bit of IN_WINDOW; the rail's excursion ends. -/
def setRail (rail : Nat) (inside : Bool) (u : SupSt) : SupSt :=
  let m := BitVec.ofNat 12 (2 ^ rail)
  { u with rails := if inside then u.rails ||| m else u.rails &&& ~~~m, out := u.out.filter fun (x : Nat × Int) => x.1 != rail }

/-- A sequence fault (R583): it is counted and recorded, and RAILS_EN falls, and with it the device to Black: at once, or when the
ramp-down that runs ends. -/
def sequenceFault (rail : Nat) (s : State) : State :=
  let ramping := s.pwr.ramp.isSome
  let s := if ramping then s else { s with pwr := { s.pwr with now := 3, busy := false, trans := .none, isolated := true } }
  raiseRust { kind := ruSupplyFault } { s with sup := { s.sup with
    railsEn := s.sup.railsEn && ramping, sequencing := false, faultAt := some (nsNow s)
    faults := satAdd s.sup.faults 1, faultRail := BitVec.ofNat 12 (2 ^ rail) } }

/-- RAIL_IN_WINDOW (R571, R581, R583): a rail of groups A to D enters its window; the voltage measured is in it. -/
def execRailInWindow (rail : Fin 12) (uv : Nat) (s : State) : Host.Outcome State Fault Refusal :=
  if 10 ≤ rail.val || !inWindow s rail.val uv then ok s
  else
    let early := (List.range 10).any fun r => decide (railGroup r < railGroup rail.val) && !s.sup.rails.getLsbD r
    let fault := s.sup.sequencing && s.sup.railsEn && early
    let u := setRail rail.val true s.sup
    let s := { s with sup := if railsIn u && !railsIn s.sup then { u with railsAt := nsNow s } else u }
    ok (if fault then sequenceFault rail.val s else s)

/-- RAIL_EXCURSION (R571, R572): a rail's voltage leaves its window, or returns to it; a return within 1 µs counts a glitch. -/
def execRailExcursion (rail : Fin 12) (uv : Nat) (s : State) : Host.Outcome State Fault Refusal :=
  let u := s.sup
  match inWindow s rail.val uv, assocGet rail.val u.out with
  | false, none => ok { s with sup := { u with out := u.out ++ [(rail.val, (nsNow s : Int))] } }
  | true, some t =>
    if (nsNow s : Int) < t + 1000 then
      ok { s with sup := { u with
        out := u.out.filter fun (x : Nat × Int) => x.1 != rail.val, glitches := satAdd u.glitches 1 } }
    else ok s
  | _, _ => ok s

/-- RAIL_OUT_OF_WINDOW (R571, R572, R583, R584): a rail of groups A to D that was in window has been outside it for 1 µs. With RAILS_EN
asserted it starts the emergency ramp-down, and it is a sequence fault; during a ramp-down it is one more cause. -/
def execRailOutOfWindow (rail : Fin 12) (uv : Nat) (s : State) : Host.Outcome State Fault Refusal :=
  if 10 ≤ rail.val || inWindow s rail.val uv then ok s
  else
    let s := match assocGet rail.val s.sup.out with
      | some t => advanceTo (t + 1000).toNat s
      | none => s
    let was := s.sup.rails.getLsbD rail.val
    let s := { s with sup := setRail rail.val false s.sup }
    if !s.sup.railsEn || !was then ok s
    else if s.pwr.ramp.isSome then ok (startRamp 4 s)
    else ok (sequenceFault rail.val (startRamp 4 s))

/-- SEQUENCE_RETRY (R583): 1 s after a sequence fault RAILS_EN rises again, unless three faults have come in a row. -/
def execSequenceRetry (s : State) : Host.Outcome State Fault Refusal :=
  match s.sup.faultAt with
  | some t =>
    if t + 1000000000 ≤ (nsNow s : Int) && s.sup.faults.toNat < 3 && s.pwr.ramp.isNone then
      ok { s with sup := { s.sup with railsEn := true, sequencing := true, faultAt := none } }
    else ok s
  | none => ok s

/-! ### Always-on feeds (R574, R575) -/

/-- A feed switch: it counts and produces a record. -/
def switchTo (backup : Bool) (s : State) : State :=
  raiseRust { kind := ruAonSwitch } { s with sup := { s.sup with
    feed := backup, switches := satAdd s.sup.switches 1, holdup := none, mainSince := none } }

/-- AON_SWITCH (R574, R575): MAIN leaves its window. A domain that MAIN feeds switches to BACKUP, or, without it, holds up. -/
def execAonSwitch (s : State) : Host.Outcome State Fault Refusal :=
  if !s.sup.aonUp then ok s
  else
    let s := { s with sup := { setRail 10 false s.sup with mainSince := none } }
    if s.sup.feed then ok s
    else if s.sup.rails.getLsbD 11 then ok (switchTo true s)
    else ok { s with sup := { s.sup with holdup := some (s.sup.holdup.getD (nsNow s)) } }

/-- AON_BACKUP_OUT_OF_WINDOW (R575): a domain that BACKUP feeds takes MAIN, or, without it, holds up. -/
def execAonBackupOutOfWindow (s : State) : Host.Outcome State Fault Refusal :=
  if !s.sup.aonUp then ok s
  else
    let s := { s with sup := setRail 11 false s.sup }
    if !s.sup.feed then ok s
    else if s.sup.rails.getLsbD 10 then ok (switchTo false s)
    else ok { s with sup := { s.sup with holdup := some (s.sup.holdup.getD (nsNow s)) } }

/-- AON_FEED_IN_WINDOW (R574, R575, R581): a feed enters its window. A domain without power starts the cold power-up; a
hold-up ends with one switch; MAIN entering while BACKUP feeds starts the 100 ms. When both enter in one cycle, MAIN is
used. -/
def execAonFeedInWindow (backup : Bool) (s : State) : Host.Outcome State Fault Refusal :=
  let s := { s with sup := setRail (if backup then 11 else 10) true s.sup }
  let u := s.sup
  if !u.aonUp then
    ok { s with
      sup := { u with
        aonUp := true, aonAt := nsNow s, feed := backup, railsEn := true, sequencing := true, holdup := none, mainSince := none }
      rust := { s.rust with watchdog := nsNow s } }
  else match u.holdup with
    | some t =>
      if (nsNow s : Int) ≤ t + 5000 then
        let s := switchTo backup s
        ok { s with sup := { s.sup with aonAt := nsNow s } }
      else ok s
    | none =>
      if backup || !u.feed then ok s
      else if u.aonAt = (nsNow s : Int) then ok { s with sup := { u with feed := false } }
      else ok { s with sup := { u with mainSince := some (nsNow s) } }

/-- AON_RETURN (R574): MAIN has stayed in window for 100 ms. -/
def execAonReturn (s : State) : Host.Outcome State Fault Refusal :=
  match s.sup.mainSince with
  | some t => if s.sup.feed && decide (t + 100000000 ≤ (nsNow s : Int)) then ok (switchTo false s) else ok s
  | none => ok s

/-- AON_HOLDUP_EXPIRY (R575): both feeds out for 5 µs: the always-on domain resets and every always-on state is lost. The
fuses, the flash and the pins' levels remain. -/
def execAonHoldupExpiry (s : State) : Host.Outcome State Fault Refusal :=
  match s.sup.holdup with
  | some t =>
    if (nsNow s : Int) < t + 5000 then ok s
    else
      let u := s.sup
      ok { pending := s.pending, out := s.out, free := s.free, flash := s.flash
           boot := { count := s.boot.count, fuses := s.boot.fuses, flashSize := s.boot.flashSize, unverified := s.boot.unverified }
           scrub := { list := s.scrub.list, full := s.scrub.full }
           sup := { rails := u.rails, out := [], resetN := u.resetN, powerFailN := u.powerFailN, coolantN := u.coolantN
                    railsEn := false, aonUp := false, sequencing := false } }
  | none => ok s

/-! ### Control pins (R576 to R578) -/

/-- How long a level must hold at an input pin before it counts, in ns (R576): RESET_N and POWER_FAIL_N, or COOLANT_FAULT_N. -/
def deglitch (coolant : Bool) : Nat := if coolant then 1000 else 50

/-- RESET_N (R576, R577): a level counts once it has held for 50 ns. Low starts the emergency ramp-down of a running device, or joins the
one that runs, and the device then resets; in Black or in reset the device resets at once. -/
def execResetN (low : Bool) (held : Nat) (s : State) : Host.Outcome State Fault Refusal :=
  if held < deglitch false then ok s
  else
    let s := { s with sup := { s.sup with
      resetN := !low, resetAt := if !low && !s.sup.resetN then (nsNow s : Int) else s.sup.resetAt } }
    if !low then ok s
    else ok (if running s || s.pwr.ramp.isSome then startRamp 3 s else deviceReset s)

/-- POWER_FAIL_N (R576, R578): a level counts once it has held for 50 ns; low starts the emergency ramp-down into Black. -/
def execPowerFailN (low : Bool) (held : Nat) (s : State) : Host.Outcome State Fault Refusal :=
  if held < deglitch false then ok s
  else
    let s := { s with sup := { s.sup with powerFailN := !low } }
    ok (if low then startRamp 1 s else s)

/-- COOLANT_FAULT_N (R576, R578): a level counts once it has held for 1 µs; low starts the emergency ramp-down into Black. -/
def execCoolantFaultN (low : Bool) (held : Nat) (s : State) : Host.Outcome State Fault Refusal :=
  if held < deglitch true then ok s
  else
    let s := { s with sup := { s.sup with coolantN := !low } }
    ok (if low then startRamp 2 s else s)

end Sys2Proof.Machine
end

