-- ==== Sys2Proof/Machine/Upkeep.lean ====
section
/-! DEFINITION. The upkeep of the memories: decode outcomes, counts and retirement (R332 to R342), the scrubber (R335,
R336), refresh (R344), and bank clears and ownership changes (R215, R216). -/

namespace Sys2Proof.Machine

/-! ### Counts and retirement -/

/-- The medium codes of R549. -/
def mediumCode : Medium → Nat
  | .sram => 1
  | .hbm => 2
  | .ddr => 3
  | .seam => 4

/-- The medium of the memory at a place. -/
def Place.medium : Place → Option Medium
  | .hbm _ => some .hbm
  | .ddr _ _ => some .ddr
  | .spad _ _ => some .sram
  | .stg _ _ => some .sram
  | .pool _ _ => some .sram
  | .control => none
  | .hole => none

/-- Count one word of a medium (R334). -/
def EccCnt.count (e : EccCnt) (m : Medium) : EccCnt :=
  match m with
  | .sram => { e with sram := satAdd e.sram 1 }
  | .hbm => { e with hbm := satAdd e.hbm 1 }
  | .ddr => { e with ddr := satAdd e.ddr 1 }
  | .seam => { e with seam := satAdd e.seam 1 }

/-- The location part of a Rust record about an address (R491). -/
def rustPlace (s : State) (addr : Nat) (m : Medium) (r : RustReq) : RustReq :=
  let r := { r with addr := some addr, medium := some (mediumCode m) }
  match placeOf s addr with
  | .spad c b => { r with core := some c.val, bank := some b }
  | .stg g b => { r with die := some (g.val / 8), bank := some b }
  | .pool d b => { r with die := some d.val, bank := some b }
  | .hbm d => { r with die := some d.val }
  | .ddr d _ => { r with die := some d.val }
  | _ => r

/-- The two words of a retirement entry (R339). -/
def retireWords (e : RetireEnt) : List Word :=
  [put e.kind 60 ||| put e.cause 56 ||| put e.state 54 ||| put e.addr 0, put e.boot 32 ||| put e.column 0]

/-- The flash offset of a copy of the list (R339, R554). -/
def copyBase (s : State) (second : Bool) : Nat := s.boot.flashSize - 0x100000 + if second then 0x80000 else 0

/-- Write the entry of an index into one copy of the list. -/
def retireCopy (i : Nat) (e : RetireEnt) (second : Bool) (s : State) : State :=
  { s with flash := memWrite flashDefault s.flash (copyBase s second + 16 * i) (wordsToBytes (retireWords e)) }

/-- Write the entry of an index into the older copy of the list and then into the other (R339). -/
def retireFlash (i : Nat) (e : RetireEnt) (s : State) : State :=
  retireCopy i e (!s.scrub.older) (retireCopy i e s.scrub.older s)

/-- The entry that two words of the flash hold; none where no entry stands. -/
def entryOf (ws : List Word) : Option RetireEnt :=
  let w := wd ws 0
  let v := wd ws 1
  if 1 ≤ fld w 63 60 && fld w 63 60 ≤ 3 then
    some { kind := fld w 63 60, cause := fld w 59 56, state := fld w 55 54, addr := fld w 47 0, boot := fld v 63 32, column := fld v 9 0 }
  else none

/-- The entries of a copy of the list from an offset on; the first argument bounds them. -/
def readEntries (s : State) : Nat → Nat → List RetireEnt
  | 0, _ => []
  | f + 1, a => match entryOf (bytesToWords (memRead flashDefault s.flash a 16)) with
    | some e => e :: readEntries s f (a + 16)
    | none => []

/-- The boot reads the list (R339): the whole copy, which is the one with more entries, where a power loss cut a write. -/
def readList (s : State) : State :=
  let a := readEntries s 32768 (copyBase s false)
  let b := readEntries s 32768 (copyBase s true)
  let older := decide (b.length < a.length)
  let l := if older then a else b
  { s with scrub := { s.scrub with list := l, older := older, full := decide (32768 ≤ l.length), pending := 0 } }

/-- The flash offset of a copy of the boot count log (R554). -/
def logBase (s : State) (second : Bool) : Nat := s.boot.flashSize - 0x200000 + if second then 0x80000 else 0

/-- The boot count that a copy of the log holds, in [31:0] of its first word (log entry 36); an erased copy holds 0. -/
def logOf (s : State) (second : Bool) : Nat :=
  let w := wd (bytesToWords (memRead flashDefault s.flash (logBase s second) 8)) 0
  if w = BitVec.allOnes 64 then 0 else fld w 31 0

/-- The boots of the part so far: what the newer copy of the log holds (R559). -/
def logCount (s : State) : Nat := max (logOf s false) (logOf s true)

/-- Write the boot count into one copy of the log. -/
def logCopy (n : BitVec 32) (second : Bool) (s : State) : State :=
  { s with flash := memWrite flashDefault s.flash (logBase s second) (wordsToBytes [put n.toNat 0]) }

/-- Write the boot count into the older copy of the log and then into the other (R339, R554). -/
def logWrite (n : BitVec 32) (s : State) : State :=
  let older := decide (logOf s true < logOf s false)
  logCopy n (!older) (logCopy n older s)

/-- Do two entries name one location? -/
def sameSpot (a b : RetireEnt) : Bool :=
  a.kind == b.kind && (if a.kind = 1 then a.addr / bankBytes == b.addr / bankBytes && a.column == b.column else a.addr == b.addr)

/-- A location enters the retirement list, unless it stands there (R338, R339, R341). -/
def retire (kind cause addr column : Nat) (m : Medium) (s : State) : State :=
  let e : RetireEnt := { kind, cause, state := 0, addr, boot := s.boot.count.toNat, column }
  let sc := s.scrub
  if sc.list.any (sameSpot e) then s
  else
    let req : RustReq := { kind := ruRetired, column := if kind = 1 then some column else none }
    let s := raiseRust (rustPlace s addr m req) s
    let n := sc.list.length
    if 32768 ≤ n then { s with scrub := { sc with full := true } }
    else
      let g := addr / granule
      let s := { s with scrub := { sc with
        list := sc.list ++ [e], pending := satAdd sc.pending 1, full := decide (n + 1 = 32768)
        withheld := if kind = 1 || sc.withheld.contains g then sc.withheld else sc.withheld ++ [g] } }
      retireFlash n e s

/-- The columns of R226 that the set bits of an 80-bit difference touch in a word of a line. -/
def diffColumns (addr : Nat) (x : BitVec 80) : List Nat :=
  ((List.range 80).filter fun i => x.getLsbD i).map fun i => addr % 64 / 8 * 80 + i

/-- 1 hour in ns. -/
def hourNs : Nat := 3600000000000

/-- The corrected words of a DDR5 channel in the last hour. -/
def hourTotal (s : State) (ch : Nat) : Nat :=
  ((assocGet ch s.scrub.hour).getD []).foldl (fun (a : Nat) (x : Nat × Nat) => a + x.2) 0

/-- Corrected words of a DDR5 channel, kept for an hour (R338). Where those of the last hour exceed 1,000, the owner's event follows, and
again each hour for as long as they do (log entry 47). -/
def noteHour (ch k : Nat) (s : State) : State :=
  let old := ((assocGet ch s.scrub.hour).getD []).filter fun x => decide (nsNow s < x.1 + hourNs)
  let s := { s with scrub := { s.scrub with hour := assocSet ch (if k = 0 then old else old ++ [(nsNow s, k)]) s.scrub.hour } }
  let others := s.scrub.hourSaid.filter fun x => x.1 != ch
  let said := match assocGet ch s.scrub.hourSaid with | some t => decide (nsNow s < t + hourNs) | none => false
  if hourTotal s ch ≤ 1000 then { s with scrub := { s.scrub with hourSaid := others } }
  else if said then s
  else raiseEvent evDdrCeRate none [put ch 0, put (hourTotal s ch) 0]
    { s with scrub := { s.scrub with hourSaid := others ++ [(ch, nsNow s)] } }

/-- A corrected word counts toward the thresholds of R338, once per line and scrub period. -/
def noteCorrected (addr : Nat) (x : BitVec 80) (s : State) : State :=
  let line := addr / 64 * 64
  let place := placeOf s addr
  match place.bankBase, place.medium with
  | some b, _ =>
    (diffColumns addr x).foldl (fun s c =>
      let old := (assocGet (b, c) s.scrub.cols).getD []
      if old.contains line then s
      else
        let s := { s with scrub := { s.scrub with cols := assocSet (b, c) (old ++ [line]) s.scrub.cols } }
        if old.length = 2 then retire 1 2 line c .sram s else s) s
  | none, some m =>
    let s := match place with
      | .ddr _ ch => noteHour ch 1 s
      | _ => s
    if s.scrub.seen.contains line then s
    else
      let k := (assocGet line s.scrub.lines).getD 0 + 1
      let s := { s with scrub := { s.scrub with seen := s.scrub.seen ++ [line], lines := assocSet line k s.scrub.lines } }
      if k = 2 then retire (if m = .hbm then 2 else 3) 2 line 0 m s else s
  | none, none => s

/-- The retirement of an UNCORRECTABLE word's location (R338): its line, or every column that its line touches. -/
def retireUe (addr : Nat) (s : State) : State :=
  let line := addr / 64 * 64
  match (placeOf s addr).medium with
  | some .sram => (List.range 640).foldl (fun s c => retire 1 1 line c .sram s) s
  | some .hbm => retire 2 1 line 0 .hbm s
  | some .ddr => retire 3 1 line 0 .ddr s
  | _ => s

/-- The contexts whose kept shard buffers hold an address: what replay cannot restore (R485). -/
def keptBy (s : State) (addr : Nat) : List CtxId :=
  allCtxIds.filter fun n =>
    let c := s.ctx n
    c.state != 0 && c.w.shards.any fun x => match shardDesc c x.shard with
      | some d => (keptBufs s n x).any fun i => match shardBuf c d i with
        | some (a, len) => decide (a ≤ addr) && decide (addr < a + len)
        | none => false
      | none => false

/-- DATA_LOSS of every context in a list (R485, R490). -/
def dataLoss (addr : Nat) (m : Medium) (ns : List CtxId) (s : State) : State :=
  ns.foldl (fun s n => ctxFault n flDataLoss (raiseRust (rustPlace s addr m (ctxRust ruDataLoss n s)) s)) s

/-- What an UNCORRECTABLE word does whoever meets it (R333, R335): the count, the entry and the owner's event. -/
def foundUe (addr : Nat) (m : Medium) (d : DieId) (n : Option CtxId) (s : State) : State :=
  let s := s.modDie d fun k => { k with ue := k.ue.count m }
  raiseEvent evMemUe n [put addr 0, put (mediumCode m) 0] (retireUe addr s)

/-- The word at an address with bits in error, as its reader gets it. -/
def struckAt (s : State) (addr : Nat) (m : Medium) (err : BitVec 80) : BitVec 80 :=
  struckWord (m == .ddr) (umberEncode (s.readB addr 8)) err

/-- What a CORRECTED word does (R332, R338). A word that the Seam corrected was right in its memory, so it counts towards no
threshold of the memory. -/
def foundCe (addr : Nat) (m : Medium) (d : DieId) (x : BitVec 80) (s : State) : State :=
  let s := s.modDie d fun k => { k with ecc := k.ecc.count m }
  if m = .seam then s else noteCorrected addr x s

/-! ### Reads (R332, R333) -/

/-- Can a word at a place be in error in a medium as a core meets it: in the place's own medium, or on the Seam between the dies
(R324)? -/
def metIn (place : Place) (core : Nat) (m : Medium) : Bool :=
  match place.medium, place.die with
  | some own, some d => if m = .seam then d != dieOf (coreOf core) else m == own
  | _, _ => false

/-- A command's read, or merge, of a word (R333, R249, R593). -/
def engineUe (n : CtxId) (r : Run) (addr : Nat) (err : BitVec 80) (m : Medium) (d : DieId) (s : State) : State :=
  let w := struckAt s addr m err
  let (data, _, res) := umberDecode w
  match res with
  | .clean => s
  | .corrected => foundCe addr m d (w ^^^ umberEncode data) s
  | .uncorrectable =>
    let kept := keptBy s addr
    let s := foundUe addr m d (some n) s
    let s := if r.eng = .dma then chanStop n (coreOf r.core) r.chan 4 s else s
    let s := s.modCtx n fun c => { c with runs := c.runs.filter fun x => !(x.thread == r.thread && x.cmd == r.cmd) }
    if kept.isEmpty then condemn n caMemUe none s else dataLoss addr m kept s

/-- A read that is no engine's: of an order's reply, an image, a seal or the journal (R332). It condemns no step. -/
def agentUe (addr : Nat) (err : BitVec 80) (m : Medium) (d : DieId) (s : State) : State :=
  let w := struckAt s addr m err
  let (data, _, res) := umberDecode w
  match res with
  | .clean => s
  | .corrected => foundCe addr m d (w ^^^ umberEncode data) s
  | .uncorrectable => dataLoss addr m (keptBy s addr) (foundUe addr m d none s)

/-- MEM_UE (R332, R333, R249, R593): a command reads, or merges into, the 8-byte word at an address that the error pattern has struck
in its medium, at the die that decodes it; or a reader that is no engine's command does. A correctable pattern is counted and
nothing else happens. -/
def execMemUe (n : CtxId) (reader : Option (Nat × Nat)) (addr : Nat) (err : BitVec 80) (medium : Medium) (die : DieId)
    (s : State) : Host.Outcome State Fault Refusal :=
  let addr := addr / 8 * 8
  let place := placeOf s addr
  let d : DieId := if medium = .seam then die else place.die.getD die
  ok <| match reader with
  | some (thread, cmd) =>
    withRun s n thread cmd (fun r => !r.executed && metIn place r.core medium) fun r => engineUe n r addr err medium d s
  | none => if place.medium == some medium || (medium == .seam && place.medium.isSome) then agentUe addr err medium d s else s

/-! ### The scrubber (R335 to R337) -/

/-- Is the refresh window open that closes the bank of an address to other traffic (R336, R344)? It delays an access by at most 200 ns
in HBM and 300 ns in DDR5, so it is closed after that. -/
def windowOpen (s : State) (m : Medium) (ch addr : Nat) : Bool :=
  s.scrub.refreshOpen.any fun w => w.1 == (mediumCode m, ch, Config.dramBank (mediumCode m) addr) &&
    decide (nsNow s < w.2 + if m = .hbm then 200 else 300)

/-- Is a bank's cycle one in which the scrubber may access it: a remote cycle without a remote request (R220, R336)? -/
def scrubCycle (s : State) (c : BankCycle) : Bool := c.cycle % 64 == 63 && (remoteReq (placeOf s c.bank) c.reqs).isNone

/-- May the scrubber read a word now: in a bank in service that has such a cycle, or in a DRAM bank that its refresh window closes to
other traffic (R210, R336)? -/
def scrubReach (arb : List BankCycle) (s : State) (addr : Nat) : Bool :=
  match ownOf s (placeOf s addr), dramChannel s addr with
  | some o, _ => !o.disabled && arb.any fun c => scrubCycle s c && (placeOf s c.bank).bankBase == (placeOf s addr).bankBase
  | none, some (m, ch) => windowOpen s m ch addr
  | none, none => false

/-- The scrubber reads one struck word. A write to the line between the read and the write-back cancels the write-back. -/
def scrubWord (sram : Bool) (arb : List BankCycle) (s : State) (x : ScrubHit) : State :=
  let addr := x.addr / 8 * 8
  let place := placeOf s addr
  match place.medium, place.die with
  | some m, some d =>
    if (m == .sram) != sram || !scrubReach arb s addr then s
    else
      let w := struckAt s addr m x.err
      let (data, _, res) := umberDecode w
      match res with
      | .clean => s
      | .corrected =>
        let s := foundCe addr m d (w ^^^ umberEncode data) s
        if x.overwritten then s else s.writeB addr data
      | .uncorrectable => dataLoss addr m (keptBy s addr) (foundUe addr m d none s)
  | _, _ => s

/-- Has the period of a pass of the scrubber gone by, as the last pass took it (R337)? -/
def scrubDue (sram : Bool) (s : State) : Bool :=
  let sc := s.scrub
  if sram then decide (sc.sramAt + sc.sramPer.toNat * 60000000000 ≤ nsNow s)
  else decide (sc.dramAt + sc.dramPer.toNat * 3600000000000 ≤ nsNow s)

/-- The next pass starts, with the settings of now (R337). -/
def nextPass (sram : Bool) (s : State) : State :=
  let sc := s.scrub
  { s with scrub := if sram then { sc with cols := [], sramAt := nsNow s, sramPer := sc.sramMin, sramEn := sc.en }
    else { sc with seen := [], dramAt := nsNow s, dramPer := sc.dramH, dramEn := sc.en } }

/-- SCRUB_PASS (R335 to R338): a pass ends, where it ran, and the next starts. `hits` are the words that errors have struck, as the pass
met them: in SRAM in one of the bank cycles `arb`, which are those in which the scrubber meets others and takes remote cycles alone,
where no remote request is pending (R220, R336); in DRAM in a refresh window. -/
def execScrubPass (sram : Bool) (hits : List ScrubHit) (arb : List BankCycle) (s : State) : Host.Outcome State Fault Refusal :=
  if !scrubDue sram s then ok s
  else if !(if sram then s.scrub.sramEn else s.scrub.dramEn) then ok (nextPass sram s)
  else
    let cycles := if sram then arb.filter (scrubCycle s) else []
    ok (nextPass sram (hits.foldl (scrubWord sram cycles) (arbitrate cycles s)))

/-- DDR_CE_RATE (R338): a channel decodes `corrected` words besides those of the commands sent. -/
def execDdrCeRate (channel : Fin 16) (corrected : Nat) (s : State) : Host.Outcome State Fault Refusal :=
  let d : DieId := ⟨channel.val / 8, by have := channel.isLt; omega⟩
  ok (noteHour channel.val corrected (s.modDie d fun k => { k with ecc := { k.ecc with ddr := satAdd k.ecc.ddr corrected } }))

/-! ### Refresh (R344) -/

/-- Does a channel's memory refresh at 2×? HBM channels count 32 to a stack and 192 to a die; DDR5 channels 8 to a die. -/
def refresh2x (s : State) (m : Medium) (channel : Nat) : Bool :=
  match m with
  | .hbm => if h : channel / 192 < 2 then (s.dies[channel / 192]).hbm2x.getLsbD (channel / 32 % 6) else false
  | .ddr => if h : channel / 8 < 2 then (s.dies[channel / 8]).ddr2x.getLsbD (channel % 8) else false
  | _ => false

/-- REFRESH_COMMAND (R344, R336): at the instants where Indigo nanoseconds modulo the interval equal the bank's fixed offset, the
bank's refresh window opens. Closed windows are forgotten. Inside it the scrubber of a pass that runs reads words of the bank. -/
def execRefreshCommand (medium : Medium) (channel bank : Nat) (hits : List ScrubHit) (s : State) :
    Host.Outcome State Fault Refusal :=
  let interval := if refresh2x s medium channel then 1950 else 3900
  let code := mediumCode medium
  let there := match medium with
    | .hbm => decide (channel < 384)
    | .ddr => decide (channel < 16)
    | _ => false
  if !there || nsNow s % interval != Config.refreshOffset code channel bank % interval then ok s
  else
    let w := (code, channel, bank)
    let live := s.scrub.refreshOpen.filter fun x => x.1 != w && decide (nsNow s < x.2 + 300)
    let s := { s with scrub := { s.scrub with refreshOpen := live ++ [(w, nsNow s)] } }
    let here (a : Nat) : Bool := dramChannel s a == some (medium, channel) && Config.dramBank code a == bank
    ok ((hits.filter fun x => s.scrub.dramEn && here (x.addr / 8 * 8)).foldl (scrubWord false []) s)

/-! ### Banks (R215, R216) -/

/-- CLEAR_DONE (R215): the clear of the bank at a base address ends; it holds zeros and BUSY returns to 0. -/
def execClearDone (bank : Nat) (s : State) : Host.Outcome State Fault Refusal :=
  let place := placeOf s bank
  match place.bankBase with
  | some b =>
    if bankBusy s place then
      ok ((modOwn s place fun o => { o with busy := false, arb := none }).clearB b bankBytes)
    else ok s
  | none => ok s

/-- OWNERSHIP_CHANGE (R216): every access granted to the bank has completed, and accesses are checked against the new
owner from here on. -/
def execOwnershipChange (bank : Nat) (s : State) : Host.Outcome State Fault Refusal :=
  ok (modOwn s (placeOf s bank) fun o => { o with arb := none })

end Sys2Proof.Machine
end

