-- ==== Sys2Proof/Machine/Boot.lean ====
section
/-! DEFINITION. Boot: the reset release (R559, R581), the image check (R560, R561), memory training with retirement and the
clear (R207, R227, R228, R317, R320, R325, R340), READY (R562 to R564), the bad image (R565), and what the programming
orders and REBOOT do (R566). -/

namespace Sys2Proof.Machine

/-! ### The reset release (R559 steps 1 and 2, R581) -/

/-- The fuse registers' values in ascending address order, little-endian (R558). -/
def fuseBytes (s : State) : List Byte :=
  let rs : List Reg := [.fuseCtl] ++
    ((List.finRange 4).flatMap fun i => (List.finRange 4).map fun w => Reg.signer i w) ++
    ((List.finRange 2).flatMap fun i => (List.finRange 4).map fun w => Reg.recov i w) ++
    (List.finRange 4).map Reg.vendor ++ (List.finRange 4).map Reg.secId
  wordsToBytes (rs.map fun r => regGet s r)

/-- Put four words into the measurement registers from a place on (R559). -/
def setMeas (at_ : Nat) (ws : List Word) (v : Vector Word 12) : Vector Word 12 :=
  Vector.ofFn fun i : Fin 12 => if at_ ≤ i.val ∧ i.val < at_ + 4 then wd ws (i.val - at_) else v[i.val]

/-- When a reference input became valid: it has toggled within ±200 ppm since an instant, and for 1 ms (R580). -/
def refValid (since : Option Nat) (dead bad : Bool) : Option Int :=
  if dead || bad then none else since.map fun t => (t : Int) + 1000000

/-- When the earlier of the two reference inputs became valid. -/
def refsValid (refA refB : Option Nat) (s : State) : Option Int :=
  match refValid refA s.ind.deadA s.ind.failA, refValid refB s.ind.deadB s.ind.failB with
  | some a, some b => some (min a b)
  | some a, none => some a
  | none, b => b

/-- May the reset be released once the reference is valid: a sequence runs, the rails of groups A to D are in window, RESET_N is high,
and no pin asks for the ramp-down (R578, R581)? -/
def mayRelease (s : State) : Bool :=
  s.sup.aonUp && s.sup.sequencing && s.sup.railsEn && s.sup.resetN && s.sup.powerFailN && s.sup.coolantN && s.pwr.ramp.isNone &&
  railsIn s.sup

/-- RESET_RELEASE (R559 steps 1 and 2, R339, R576, R580, R581, R583): 1 ms after the last of the three conditions, which are the rails,
RESET_N high and a valid reference; the operands say since when each reference input toggles within ±200 ppm. The fuses are measured,
the boot is counted in the log, the list of retired locations is read from the flash, and the image read begins. What counts since boot starts
again. -/
def execResetRelease (refA refB : Option Nat) (s : State) : Host.Outcome State Fault Refusal :=
  match refsValid refA refB s, mayRelease s with
  | some at_, true =>
    let s := advanceTo (max (max s.sup.railsAt s.sup.resetAt) at_ + 1000000).toNat s
    let p := s.pwr
    let s := { s with
      sup := { s.sup with sequencing := false, thermtripN := true, faults := 0, faultAt := none }
      boot := {
        count := BitVec.ofNat 32 (logCount s + 1), fuses := s.boot.fuses, flashSize := s.boot.flashSize, cfg := {}
        unverified := s.boot.unverified, started := nsNow s }
      host := { s.host with changes := 0 }
      pwr := { now := p.now, busy := p.busy, wakeCause := p.wakeCause, wakeBright := p.wakeBright, tjD0 := p.tjD0, tjD1 := p.tjD1
               tjMax := p.tjMax, hot := p.hot, isolated := false } }
    let s := readList (logWrite s.boot.count s)
    ok { s with boot := { s.boot with meas := setMeas 8 (bytesToWords (shake256 32 (fuseBytes s))) s.boot.meas } }
  | _, _ => ok s

/-! ### The image check (R559 steps 3 to 6, R560, R561) -/

/-- The link partner of a port in the map: PEER and PEER_PORT (R384). -/
def peerOf (c : ImageCfg) (p : PortId) : Nat × Nat := match linkAt c.map c.device p.val with
  | some l => (l.1, l.2.1)
  | none => (0, 0)

/-- Does the map give a port a link, or a rail? -/
def portInMap (c : ImageCfg) (p : PortId) : Bool :=
  if c.map.switched then decide (p.val < c.map.ndim) else (linkAt c.map c.device p.val).isSome

/-- The firmware applies the settings, the map and the lists. The image selects the ports' mode, but no field of it says
where: the mode is a free value, one for all ports (R381, R384; log entry 8). -/
def applyConfig (m : Img) (s : State) : State :=
  let xs := settingsOf (imgBytes s m 0x03)
  let cfg := cfgOf s m
  let (r, s) := s.takeFree
  let mode : BitVec 2 := if r.getLsbD 0 then 2 else 1
  let lim := (settingVal xs 0x04).getD 0
  { s with
    boot := { s.boot with cfg := cfg }
    ind := { s.ind with
      roots := Vector.ofFn fun n : Fin 8 => BitVec.ofNat 16 ((settingVal xs (0x10 + n.val)).getD 0).toNat
      ptpPort := BitVec.ofNat 4 ((settingVal xs 0x02).getD 0xF).toNat }
    pwr := { s.pwr with
      boardMax := BitVec.ofNat 16 (fld lim 15 0), limit := BitVec.ofNat 16 (fld lim 31 16)
      guardLimit := BitVec.ofNat 16 (fld lim 31 16) }
    sep := { s.sep with size := BitVec.ofNat 16 ((settingVal xs 0x05).getD 16).toNat }
    fab := Vector.ofFn fun p : Fin 8 =>
      let q := s.fab[p.val]
      let peer := peerOf cfg p
      { q with peer := BitVec.ofNat 15 peer.1, peerPort := BitVec.ofNat 3 peer.2, mode := if portInMap cfg p then mode else 0
               failed := false } }

/-- The header and the sections, in ascending OFFSET, go into the fabric pool of die 0 (R559), each byte at its own offset in the image
(log entry 36). Of an image whose framing fails only the header is read. -/
def loadImage (m : Option Img) (s : State) : State :=
  let copy (s : State) (x : Nat × Nat) : State := s.writeB (poolBase 0 + x.1) (flashRead s x.1 x.2)
  match m with
  | none => copy s (0, 64)
  | some m => ((0, 64 + 16 * m.sects.length) :: m.sects.map fun x => (x.off, x.len)).foldl copy s

/-- A bad image (R560, R565): the device stays in Black. -/
def badImage (code : Nat) (s : State) : State :=
  { s with
    boot := { s.boot with fail := BitVec.ofNat 8 code, phase := 7, good := false, announced := none }
    pwr := { s.pwr with now := 3, busy := false, isolated := true } }

/-- IMAGE_CHECK (R559 to R561, R566): the image is read and checked. `flashOk` is check 0x1: whether the flash answers. An image whose
programming no PROG_END has verified is bad, with code 0x2 (log entry 36). -/
def execImageCheck (flashOk : Bool) (s : State) : Host.Outcome State Fault Refusal :=
  if s.sup.sequencing || s.boot.phase != 0 then ok s
  else if !flashOk then ok (badImage 0x1 s)
  else
    match imgCheck s with
    | (code, none) => ok (badImage code (loadImage none s))
    | (code, some m) =>
      let code := if s.boot.unverified then 0x2 else code
      let s := loadImage (some m) s
      let words (bs : List Byte) : List Word := bytesToWords (shake256 32 bs)
      let s := { s with boot := { s.boot with
        meas := setMeas 4 (words (imgBytes s m 0x01)) (setMeas 0 (words (flashRead s 0 m.length)) s.boot.meas) } }
      if code != 0 then ok (badImage code s)
      else
        let d := signerDigest s m
        let fuses := (fuseReqs (imgBytes s m 0x07)).foldl (applyFuse m d s.boot.fuses) s.boot.fuses
        let s := applyConfig m { s with boot := { s.boot with fuses := fuses } }
        ok { s with boot := { s.boot with phase := 3, fail := 0, good := true }, pwr := { s.pwr with now := 0 } }

/-! ### Memory training (R227, R228, R317, R320, R322, R325, R340) -/

/-- Put a column into a free spare entry of a repair register: none when no entry is free (R226, R227). -/
def useSpare (r : BitVec 48) (column : Nat) : Option (BitVec 48) :=
  let ent (i : Nat) : Nat := (r.toNat >>> (12 * i)) % 4096
  if (List.range 4).any fun i => (ent i).testBit 11 && ent i % 1024 == column then some r
  else ((List.range 4).find? fun i => !(ent i).testBit 11).map fun i =>
    let keep := (List.range 4).foldl (fun a j => if j = i then a else a + ent j * 2 ^ (12 * j)) 0
    BitVec.ofNat 48 (keep + (0xC00 + column) * 2 ^ (12 * i))

/-- The repair register of an on-chip bank. -/
def repairOf (s : State) : Place → BitVec 48
  | .spad c b => (s.core c).repair.toList.getD b 0
  | .stg g b => (((s.die ⟨g.val / 8, by have := g.isLt; omega⟩).stgRepair.toList.getD (g.val % 8) (Vector.replicate 48 0)).toList).getD b 0
  | .pool d b => (s.die d).poolRepair.toList.getD b 0
  | _ => 0

/-- Write the repair register of an on-chip bank. -/
def setRepair (s : State) (p : Place) (v : BitVec 48) : State :=
  match p with
  | .spad c b => if h : b < 56 then s.modCore c fun k => { k with repair := upd k.repair ⟨b, h⟩ fun _ => v } else s
  | .stg g b =>
    if h : b < 48 then s.modDie ⟨g.val / 8, by have := g.isLt; omega⟩ fun d =>
      { d with stgRepair := upd d.stgRepair ⟨g.val % 8, Nat.mod_lt _ (by decide)⟩ fun w => upd w ⟨b, h⟩ fun _ => v }
    else s
  | .pool d b => if h : b < 128 then s.modDie d fun k => { k with poolRepair := upd k.poolRepair ⟨b, h⟩ fun _ => v } else s
  | _ => s

/-- A bank without a spare for a listed column is disabled, with a Rust record; the core of a scratchpad bank is quarantined
for good (R228). -/
def disableBank (p : Place) (addr : Nat) (s : State) : State :=
  if (match ownOf s p with | some o => o.disabled | none => true) then s
  else
    let s := modOwn s p fun o => { o with disabled := true, valid := false, retain := false }
    let s := match p with
      | .spad c _ => s.modCore c fun k => { k with quarantined := true }
      | _ => s
    raiseRust (rustPlace s addr .sram { kind := ruBankDisabled }) s

/-- Act on one entry of the list at boot (R227, R340): a column takes a spare; a line takes a row repair where a resource
remains, which the spec leaves to the parts (a free value), and is otherwise withheld. -/
def bootEntry (acc : State × List RetireEnt) (e : RetireEnt) : State × List RetireEnt :=
  let s := acc.1
  if e.kind = 1 then
    let p := placeOf s e.addr
    match useSpare (repairOf s p) e.column with
    | some r => (setRepair s p r, acc.2 ++ [{ e with state := 1 }])
    | none => (disableBank p e.addr s, acc.2 ++ [e])
  else if e.state = 0 then
    let (r, s) := s.takeFree
    (s, acc.2 ++ [{ e with state := if r.getLsbD 0 then 2 else 1 }])
  else (s, acc.2 ++ [e])

/-- Every entry of the list is acted on and written back to both copies; the granules of withheld lines are withheld. -/
def actOnList (s : State) : State :=
  let acc := s.scrub.list.foldl bootEntry (s, [])
  let s := { acc.1 with scrub := { acc.1.scrub with
    list := acc.2
    withheld := dedup ((acc.2.filter fun e => e.state == 2).map fun e => e.addr / granule) } }
  acc.2.zipIdx.foldl (fun s (x : RetireEnt × Nat) => retireFlash x.2 x.1 s) s

/-- The granules of a ring that ends below a granule: `n` of them downward to a floor, without the withheld ones. Answers
the lowest granule and the ones it skipped; the first argument bounds the walk. -/
def ringDown (withheld : List Nat) (floor : Nat) : Nat → Nat → Nat → List Nat → Option (Nat × List Nat)
  | 0, _, _, _ => none
  | f + 1, top, n, holes =>
    if n = 0 then some (top, holes)
    else if top ≤ floor then none
    else if withheld.contains (top - 1) then ringDown withheld floor f (top - 1) n ((top - 1) :: holes)
    else ringDown withheld floor f (top - 1) (n - 1) holes

/-- The ring's place (R325): the top of populated DDR5, else of die 1's HBM half, else of die 0's. -/
def ringPlace (s : State) : Option (Nat × List Nat) :=
  let n := s.sep.size.toNat * 512
  let tier (base len : Nat) : Option (Nat × List Nat) :=
    ringDown s.scrub.withheld (base / granule) (len / granule + 1) ((base + len) / granule) n []
  let pick (present : Bool) (base len : Nat) : Option (Nat × List Nat) := if present then tier base len else none
  if ddrBytes s != 0 then tier ddrBase (ddrBytes s)
  else match pick s.dies[1].hbmOk hbmHalf hbmHalf with
    | some x => some x
    | none => pick s.dies[0].hbmOk 0 hbmHalf

/-- Place the ring. -/
def placeRing (s : State) : State :=
  match ringPlace s with
  | some (g, holes) => { s with sep := { s.sep with base := some (g * granule), holes := holes } }
  | none => { s with sep := { s.sep with base := none, holes := [] } }

/-- Are the DIMMs of a channel ones that the device supports (R319): type and speed, their number at that speed, 16 to 256 GiB each,
all alike, of x4 or x8 devices? -/
def dimmsOk (f : DdrFound) : Bool :=
  let n := f.dimms.toNat
  let most := match f.type.toNat, f.speed.toNat with
    | 1, 1 => 2
    | 1, 2 => 2
    | 1, 3 => 1
    | 2, 4 => 1
    | _, _ => 0
  decide (1 ≤ n) && decide (n ≤ most) && f.cap.toNat % n == 0 && decide (16 ≤ f.cap.toNat / n) && decide (f.cap.toNat / n ≤ 256) &&
    decide (f.width.toNat ≤ 1)

/-- What training found (R317, R319, R320, R322): a failed stack retires its die's HBM half; a channel with DIMMs that the device does
not support does not train; a channel is used only when all 16 trained. -/
def trained (hbms : List Bool) (channels : List DdrFound) (s : State) : State :=
  let found (k : Nat) : DdrFound :=
    let f := channels.getD k { cap := 0, type := 0, speed := 0, dimms := 0, width := 0, trained := false }
    { f with trained := f.trained && dimmsOk f }
  let all := (List.range 16).all fun k => (found k).trained && (found k).cap != 0
  { s with dies := Vector.ofFn fun d : Fin 2 => { s.dies[d.val] with
      hbmOk := (List.range 6).all fun i => hbms.getD (6 * d.val + i) false
      ddr := Vector.ofFn fun k : Fin 8 =>
        let f := found (8 * d.val + k.val)
        { cap := f.cap, type := f.type, speed := f.speed, dimms := f.dimms, width := f.width, used := all, trained := f.trained } } }

/-- Every bank is cleared (R207). -/
def clearOnChip (s : State) : State :=
  { s with mem := s.mem.filter fun (c : Nat × Byte) => decide (c.1 < 0x100000000000) || decide (ctlBase ≤ c.1) }

/-- The first listed root candidate that is present: in the hall's map, and not among the devices named absent (R360). -/
def firstRoot (absent : List Nat) (s : State) : Option (Nat × Nat) :=
  let present (d : Nat) : Bool := (s.boot.cfg.map.devs.any fun x => x.dev == d) && !absent.contains d
  ((List.finRange 8).map fun i => (i.val, s.ind.roots[i.val])).findSome? fun (x : Nat × BitVec 16) =>
    if x.2.getLsbD 15 && present (x.2.toNat % 32768) then some (x.1, x.2.toNat % 32768) else none

/-- The root starts the hall's time: facility time when PTP is valid, else 0, at frame 0 of epoch 0 (R360). A device that has heard
of a root joins a hall that has formed. -/
def actAsRoot (absent : List Nat) (s : State) : State :=
  match firstRoot absent s with
  | some (k, d) =>
    if d != devNum s || s.ind.state != 0 || s.ind.heardRoot then s
    else
      let late := bootLate 8500 s
      let now := if s.ind.ptpValid then (s.ind.ns + s.ind.facOffset).toNat else 0
      let s := setTime (now * 65536) s
      { s with
        boot := { s.boot with lateTime := s.boot.lateTime || late }
        ind := { s.ind with
        isRoot := true, root := BitVec.ofNat 15 d, rootIdx := BitVec.ofNat 3 k, state := 1, parent := 0xF
        epoch := 0, frame := 0, frameStart := now, gap := 0
        facOffset := if s.ind.ptpValid then 0 else s.ind.facOffset } }
  | none => s

/-- MEMORY_TRAINING_DONE (R207, R227, R317, R320, R325, R340, R360): training ends, the list is acted on, every bank is
cleared, and the device joins the hall's time, as its root where it is the first candidate that is present. The last operand
names the candidates that are absent from the hall. -/
def execMemoryTrainingDone (hbms : List Bool) (channels : List DdrFound) (absent : List Nat) (s : State) : Host.Outcome State Fault Refusal :=
  if !s.boot.good || s.boot.memTrained then ok s
  else
    let late := bootLate 4500 s
    let s := placeRing (clearOnChip (actOnList (trained hbms channels s)))
    let s := { s with boot := { s.boot with
      memTrained := true, cleared := true, lateMem := s.boot.lateMem || late
      phase := if s.boot.phase.toNat < 5 then 5 else s.boot.phase } }
    ok (actAsRoot absent s)

/-- READY (R562 to R564, R520): the hall checks are evaluated. Rows not met by now are late. A wake from Black ends here with
its event. -/
def execReady (ms : BitVec 16) (s : State) : Host.Outcome State Fault Refusal :=
  if !s.boot.good || 6 ≤ s.boot.phase.toNat then ok s
  else
    let links := allPortIds.all fun p => (s.port p).mode == 0 || (s.port p).up
    let woke := s.pwr.wakeBright
    let s := { s with
      boot := { s.boot with
        phase := 6, readyMs := ms, hallOk := hallPasses s.boot.cfg.map (slowMode s)
        lateMem := s.boot.lateMem || !s.boot.memTrained, lateLink := s.boot.lateLink || !links
        lateTime := s.boot.lateTime || s.ind.state != 1 }
      pwr := { s.pwr with now := 0, busy := false, wakeBright := false } }
    ok (if woke then raiseEvent evWake none [regGet s .pwrWake] s else s)

/-! ### A bad image (R565) -/

/-- The words of a Zyndy header (R526). -/
def zyndyHeader (type station len seq status : Nat) : List Word :=
  [put 0x5A59 48 ||| put 1 40 ||| put type 32 ||| put station 28 ||| put len 0, BitVec.ofNat 64 seq, put status 56, 0]

/-- BOOT_ANNOUNCE (R565): every 2,000 ms to ff02::1 on M0, with a zero tag. -/
def execBootAnnounce (s : State) : Host.Outcome State Fault Refusal :=
  let due := match s.boot.announced with
    | some t => decide (t + 2000000000 ≤ nsNow s)
    | none => true
  if s.boot.phase != 7 || !due then ok s
  else
    let body := s.boot.fuses.ident.take 4 ++ [put s.boot.count.toNat 0, put s.boot.fail.toNat 0]
    ok (({ s with boot := { s.boot with announced := some (nsNow s) } } : State).emit
      (.announce (zyndyHeader 0x81 0 (8 * body.length) 0 0) body))

/-! ### What the programming orders and REBOOT do (R566) -/

/-- PROG_BEGIN: the image's range is erased. -/
def progBegin (s : State) : Nat × State :=
  (stOk, { s with
    flash := memErase s.flash 0 imageEnd
    boot := { s.boot with progState := 1, progBytes := 0, progLines := [], unverified := true } })

/-- PROG_WRITE: the data goes to the offset, each 64-byte line once. -/
def progWrite (offset : Nat) (data : List Byte) (s : State) : Nat × State :=
  let b := s.boot
  let lines := (List.range (ceilDiv data.length 64)).map fun i => offset / 64 + i
  if b.progState != 1 || offset % 64 != 0 || imageEnd < offset + data.length || lines.any b.progLines.contains then (stAddressFault, s)
  else (stOk, { s with
    flash := memWrite flashDefault s.flash offset data
    boot := { b with progBytes := b.progBytes + BitVec.ofNat 40 data.length, progLines := b.progLines ++ lines } })

/-- PROG_END: checks 0x2 to 0x8 on the written image. -/
def progEnd (s : State) : Nat × State :=
  let code := (imgCheck s).1
  if code = 0 then (stOk, { s with boot := { s.boot with progState := 2, unverified := false } })
  else (stArtefactBad, { s with boot := { s.boot with progState := 3, progFail := BitVec.ofNat 6 code } })

/-- REBOOT: into Black, then the boot. As every request for Black it is refused while a transition is in progress (R515; log entry 42). -/
def rebootOrder (s : State) : Nat × State :=
  if s.pwr.busy || allCtxIds.any fun n => (s.ctx n).state == 2 then (stCtxBusy, s)
  else (stOk, { s with
    boot := { s.boot with rebooting := true }, pwr := { s.pwr with trans := .blackIn, busy := true, req := 3 } })

end Sys2Proof.Machine
end

