-- ==== Sys2Proof/Machine/Fabric.lean ====
section
/-! DEFINITION. The fabric's sending side: the cells of a port (R353, R364, R366, R386 to R390, R402, R478, R519, R599),
retries and link failure (R403), links (R354, R384), local serve windows (R400) and the plan computation (R468). -/

namespace Sys2Proof.Machine

/-! ### The slots of a port (R364) -/

/-- Cells that fit into the gap of the present frame. -/
def gapCells (s : State) : Nat := s.ind.gap * 8 / slot8 s

/-- The start of the t-th cell of the frame, gap cells first, in eighths of a nanosecond from the frame's start. -/
def cellTime8 (s : State) (t : Nat) : Nat :=
  let g := gapCells s
  if t < g then t * slot8 s else s.ind.gap * 8 + (t - g) * slot8 s

/-- The cell of the frame that is in progress now. -/
def cellNow (s : State) : Nat :=
  let off := (nsNow s - s.ind.frameStart) * 8
  let g := gapCells s
  if off < s.ind.gap * 8 then min (off / slot8 s) g else g + (off - s.ind.gap * 8) / slot8 s

/-- The next cell of the frame that a port sends. -/
def nextCell (s : State) (p : PortId) : Nat :=
  let q := s.port p
  max (cellNow s) (if q.tx.1 = frameNow s then q.tx.2 else 0)

/-- Is a slot for fillers only (R389)? -/
def fillerOnly (f : FrameNo) (k : Nat) : Bool := k == 4095 || (f % 65536 == 0 && decide (4064 ≤ k))

/-- Does a port carry cells: its link runs in the image's mode, and the map has the port (R381, R392)? -/
def carriesCells (s : State) (p : PortId) : Bool :=
  let q := s.port p
  let m := s.boot.cfg.map
  q.mode != 0 && q.linkMode == q.mode && (if m.switched then decide (p.val < m.ndim) else (linkAt m (devNum s) p.val).isSome)

/-- Are a port's outputs clamped: does a die whose core rail collapsed in a ramp-down drive it (R522, R585; log entry 58)? -/
def portClamped (s : State) (p : PortId) : Bool := s.pwr.clamped != 0 && s.pwr.clamped.getLsbD (Config.portDie p.val).val

/-- Does a port transmit (R351, R353, R381, R514)? -/
def txActive (s : State) (p : PortId) : Bool :=
  (s.port p).up && carriesCells s p && !(s.ind.deadA && s.ind.deadB) && s.pwr.now != 3 && !portClamped s p

/-- May a port carry plan cells: one that carries cells, and neither failed nor miscabled (R354, R381, R403)? -/
def carriesPlan (s : State) (p : PortId) : Bool := carriesCells s p && !(s.port p).failed && !(s.port p).miscabled

/-- Does the port send fillers: not on a switched rail without a timing partner (R594)? -/
def sendsFillers (s : State) (p : PortId) : Bool :=
  let m := s.boot.cfg.map
  !m.switched || (linkAt m (devNum s) p.val).isSome

/-! ### Headers (R387, R388, R390) -/

/-- One bit per context. -/
def ctxBits (s : State) (f : Ctx → Bool) : Nat :=
  allCtxIds.foldl (fun a n => if f (s.ctx n) then a + 2 ^ n.val else a) 0

/-- A stretch field for a frame: TGT, N and CAUSE (R368). A device in Grey relays none (R370). -/
def stretchField (s : State) (g : FrameNo) : Nat :=
  if s.pwr.now = 2 then 0 else
  let x := stretchFor s.ind.stretch g
  let x := if s.ind.fixed.any fun y => y.frame == g then stretchFor s.ind.fixed g else x
  (g % 4) * 1024 + (x.n % 32) * 32 + x.cause % 32

/-- The ROOT field: a candidate that takes over announces itself from frame 65,024, and every device but the root passes the
announcement on (R361, R362). -/
def rootField (s : State) : Nat := if s.ind.isRoot then devNum s else (takeoverOf s).getD s.ind.root.toNat

/-- Words 0 to 2 of a cell's header; `kind` is 1 for a data cell, and `low` its STEP, PASS and LAST bits. -/
def headWords (s : State) (p : PortId) (time : BitVec 33) (kind low : Nat) : List Word :=
  let q := s.port p
  let f := frameNow s
  let grey := s.pwr.now == 2
  let nx := s.ind.cadNext != 0xF && !grey
  [put time.toNat 31 ||| put (rootField s) 16 ||| put s.ind.rootSeq.toNat 8 ||| put ((if grey then s.ind.cadReq.toNat else cadMerged s) % 8) 5 |||
     put (if nx then s.ind.cadNext.toNat % 8 else 0) 2 ||| put kind 0,
   put q.lastTx.toNat 31 ||| put (stretchField s (f + 1)) 19 ||| put (stretchField s (f + 2)) 7 ||| putB nx 6,
   put q.lastRx.toNat 31 ||| put (ctxBits s fun c => c.state == 3 || c.state == 4 || c.v.digestHalt) 23 |||
     put (ctxBits s fun c => c.v.resumeSend == some f) 15 ||| put (ctxBits s fun c => c.v.condemnAt.isSome) 7 ||| put low 0]

/-- Word 3 of a cell: the counters while SLOT reads 0, else the plan reference with the oldest acknowledgement and NAK owed
(R387, R388, R403, R404). -/
def word3 (s : State) (p : PortId) (slotZero : Bool) (pf ps : Nat) : Word :=
  if slotZero then put s.ind.epoch.toNat 16 ||| put s.ind.frame.toNat 0
  else
    let q := s.port p
    let a : Word := match q.acks with
      | (f, k) :: _ => putB true 31 ||| put (f % 8) 28 ||| put k 16
      | [] => 0
    let b : Word := match q.naks with
      | (f, k) :: _ => putB true 15 ||| put (f % 4) 13 ||| put k 1
      | [] => 0
    put (pf % 2 ^ 20) 44 ||| put ps 32 ||| a ||| b

/-- The payload of a filler (R389, R478, R519). -/
def fillerPayload (s : State) (p : PortId) : List Word :=
  let recs := allCtxIds.flatMap fun n =>
    let c := s.ctx n
    match planJob c with
    | some j => (putB true 63 ||| (wd j.progDig 0 &&& BitVec.ofNat 64 (2 ^ 63 - 1))) :: (c.x.planDig ++ [0, 0, 0, 0]).take 4
    | none => [0, 0, 0, 0, 0]
  let votes := allCtxIds.flatMap fun n =>
    let d := (s.ctx n).v.down
    if d.1 = 0 || (s.ind.isRoot && decide (d.2 ≤ frameNow s)) then [BitVec.ofNat 64 (upKey s n), 0, 0]
    else [BitVec.ofNat 64 (upKey s n), BitVec.ofNat 64 d.1, put (d.2 / 65536) 16 ||| put (d.2 % 65536) 0]
  let grey := match s.pwr.trans with | .greyIn _ => decide (s.pwr.greyAsked < frameNow s) | _ => s.pwr.now == 2
  let power : Word := (match s.pwr.wakeSend with
    | some (t, all, f) => if f = frameNow s then put 0x57414B45 32 ||| put t 17 ||| putB all 16 else 0
    | none => 0) ||| put (if grey then 2 else s.pwr.now.toNat) 14
  recs ++ votes ++ [putB (parentPort s == some p) 63, power] ++ List.replicate 10 0

/-- The MAC address of a device's port (R383). -/
def portMac (dev port : Nat) : BitVec 48 := BitVec.ofNat 48 (0x024757000000 + dev * 8 + port)

/-- The link partner of a port: on a switched rail its timing partner (R383, R392). -/
def linkPartner (s : State) (p : PortId) : Nat × Nat :=
  match linkAt s.boot.cfg.map (devNum s) p.val with
  | some l => (l.1, l.2.1)
  | none => (0, 0)

/-- The port to which a data cell goes: the partner's on a direct link, on a switched rail the destination device's on the same
rail (R383). -/
def cellDst (s : State) (p : PortId) (ref : CellRef) : Nat × Nat :=
  if s.boot.cfg.map.switched then
    match (s.ctx (ctxOf ref.ctx)).x.plan.find? fun e => e.egress && e.win == ref.win && e.cell == ref.cell with
    | some e => (e.dev, p.val)
    | none => linkPartner s p
  else linkPartner s p

/-- The head of the Ethernet frame of a cell (R382, R383). -/
def ethHead (s : State) (p : PortId) (dst : Nat × Nat) : EthHead :=
  let m := s.boot.cfg.map
  { dst := portMac dst.1 dst.2, src := portMac (devNum s) p.val, tag := if m.switched then some (m.pcp, m.vid) else none
    etherType := BitVec.ofNat 16 m.etherType }

/-- Log a cell in its frame and note the acknowledgement and NAK that it carries. -/
def putCell (p : PortId) (dst : Nat × Nat) (slotZero : Bool) (ws : List Word) (s : State) : State :=
  let s := if slotZero then s else s.modPort p fun q => { q with acks := q.acks.drop 1, naks := q.naks.drop 1 }
  s.emit (.cell p (ethHead s p dst) (ws.map fun w => umberEncode (leBytes 8 w.toNat)))

/-- TX_TIME of the t-th cell of the frame, in 0.5 ns modulo 2^33 (R353). -/
def txTime (s : State) (t : Nat) : BitVec 33 := BitVec.ofNat 33 ((s.ind.frameStart * 8 + cellTime8 s t) / 4)

/-- Send a filler, to the link's or timing partner (R392). -/
def sendFiller (p : PortId) (t : Nat) (slotZero : Bool) (s : State) : State :=
  if sendsFillers s p then putCell p (linkPartner s p) slotZero (headWords s p (txTime s t) 0 0 ++ [word3 s p slotZero 0 0] ++ fillerPayload s p) s
  else s

/-- Send a data cell with its payload, and keep it for retries (R402, R403). -/
def sendData (p : PortId) (t k : Nat) (ref : CellRef) (body : List Word) (origin : Option (Nat × FrameNo × Nat)) (fails : Nat)
    (s : State) : State :=
  let low := (ref.step % 4) * 32 + (ref.pass % 16) * 2 + ref.last.toNat
  let f := frameNow s
  let body := (body ++ List.replicate (76 - body.length) 0).take 76
  let s := putCell p (cellDst s p ref) (k == 0) (headWords s p (txTime s t) 1 low ++ [word3 s p (k == 0) ref.planFrame ref.planSlot] ++ body) s
  s.modPort p fun q => { q with
    sent := (q.sent.filter fun x => decide (f ≤ x.frame + 3) || q.resend.contains (x.frame, x.slot)) ++ [{ ref, frame := f, slot := k, words := body, origin, fails }] }

/-! ### What a window's cell carries (R427, R599) -/

/-- The chain table entries that the device holds of a context. -/
def chainsOf (c : Ctx) : List ChainEnt := (c.job.map (·.chains)).getD []

/-- The feeding window of a relay: one that lands on this device where the serve window's source stands (R427). -/
def feeder (s : State) (c : Ctx) (w : WinDecl) : Option WinDecl :=
  let r := Ref.ofWord w.srcRef
  ((c.job.map (·.wins)).getD []).find? fun x =>
    let d := Ref.ofWord x.dstRef
    x.kind ≤ 1 && x.dst == devNum s && x.win != w.win && d.space == r.space && d.num == r.num && decide (d.off ≤ r.off) &&
      decide (r.off < d.off + x.volume)

/-- Does a command hold back the cell in which its stream to a window ends? A copy does while it goes on, since its next byte may
belong to the cell, and a mirrored command does until its comparison is decided, since the cell carries its signals (R313). -/
def endHeld (c : Ctx) (win off len : Nat) : Bool :=
  let inside (es : List (Nat × Nat)) : Bool := es.any fun e => e.1 == win && decide (off < e.2) && decide (e.2 ≤ off + len)
  c.runs.any fun r =>
    (match r.part with | some p => inside p.ends | none => false) ||
    ((match r.mirror with | some k => !k.decided | none => false) && (inside r.ends || (r.eng == .xe && r.windows.contains win)))

/-- The source of cell i of a serve window, none while a relay's bytes have not landed (R405, R427). -/
def serveCell (s : State) (n : CtxId) (w : WinDecl) (i : Nat) : Option (Chk Nat) :=
  let c := s.ctx n
  let len := min 608 (w.volume - 608 * i)
  let r := (Ref.ofWord w.srcRef).add (608 * i)
  let fed := match feeder s c w with
    | some x => hasLanded c x (r.off - (Ref.ofWord x.dstRef).off) len
    | none => true
  if fed then some (serveAddr s n r len) else none

/-- The payload of cell i of a window in a pass and whether it is LAST; none while its data is not ready (R599). -/
def cellBody (s : State) (n : CtxId) (w : WinDecl) (i pass : Nat) : Option (List Word × Bool) :=
  let c := s.ctx n
  let off := 608 * i
  let len := min 608 (w.volume - off)
  if w.kind = 1 then
    match serveCell s n w i with
    | some (.ok a) => some (bytesToWords (padTo 608 (s.readB a len)), decide (w.volume ≤ off + 608))
    | _ => none
  else if w.kind = 2 then
    (assocGet (w.win, i, pass) c.x.chainOut).map fun ws =>
      (ws, (windowCells (chainsOf c) w)[i]? == some .partials && (windowCells (chainsOf c) w)[i + 1]? == some .done)
  else
    let rs := (c.x.filled.filter fun f => f.1 == w.win).map fun (f : Nat × Nat × Nat) => (f.2.1, f.2.2 - f.2.1)
    let full := coversTo rs (off + len) (rs.length + 1) off
    let ends := c.x.ends.any fun (e : Nat × Nat) => e.1 == w.win && decide (off < e.2) && decide (e.2 ≤ off + len)
    if (full || ends) && !endHeld c w.win off len then
      some (bytesToWords (padTo 608 (memRead 0 ((assocGet w.win c.x.push).getD []) off len)), ends)
    else none

/-- The bytes that a cell takes of its window's VOLUME (R402). -/
def cellBytes (w : WinDecl) (i : Nat) (body : List Word) : Nat :=
  if w.kind = 2 then 8 * body.length else min 608 (w.volume - 608 * i)

/-! ### Choosing a cell (R366, R402) -/

/-- A cell ready for a port: its position as frame × 4,096 + slot, reference, payload and, for a transit cell, where it came
from. -/
structure Ready where
  pos : Nat
  ctx : CtxId
  win : Option WinDecl
  ref : CellRef
  body : List Word
  origin : Option (Nat × FrameNo × Nat)

/-- Does a context's exchange work: its attempt runs, or is halted with everything kept (R204)? -/
def exchLive (c : Ctx) : Bool := c.v.live && (c.state == 2 || c.state == 3)

/-- A window's own cell at a plan record of this device, when ready and not sent yet. -/
def ownCell (s : State) (n : CtxId) (r : PlanRec) (pass : Nat) : Option Ready :=
  let c := s.ctx n
  if c.x.sent.contains (r.win, r.cell, pass) then none
  else (winDecl c r.win).bind fun w => (cellBody s n w r.cell pass).map fun b =>
    { pos := (c.v.stepFrame + r.phi) * 4096 + r.k, ctx := n, win := some w
      ref := { ctx := n.val, win := r.win, cell := r.cell, hop := r.hop, pass, planFrame := r.phi, planSlot := r.k
               step := c.v.t % 4, last := b.2 }
      body := b.1, origin := none }

/-- The plan records of a port for cells that start here. -/
def firstHops (s : State) (c : Ctx) (p : PortId) : List PlanRec :=
  c.x.plan.filter fun r => r.hop == 0 && !r.egress && r.dev == devNum s && r.port == p.val

/-- The transit cells that leave on a port. -/
def transitOn (s : State) (p : PortId) : List Ready :=
  s.transit.filterMap fun x =>
    let n := ctxOf x.ref.ctx
    if (s.ctx n).x.plan.any fun r => r.win == x.ref.win && r.cell == x.ref.cell && r.hop == x.ref.hop && !r.egress &&
        r.dev == devNum s && r.port == p.val then
      some { pos := x.due, ctx := n, win := none, ref := x.ref, body := x.words, origin := some (x.inPort, x.inFrame, x.inSlot) }
    else none

/-- The cell planned for a position of a port, when its data is ready. -/
def plannedAt (s : State) (p : PortId) (pos : Nat) : Option Ready :=
  match (transitOn s p).find? fun x => x.pos == pos && x.ref.pass == 0 with
  | some x => some x
  | none => (allCtxIds.filter fun n => exchLive (s.ctx n)).findSome? fun n =>
      let c := s.ctx n
      ((firstHops s c p).find? fun r => (c.v.stepFrame + r.phi) * 4096 + r.k == pos).bind fun r => ownCell s n r 0

/-- The carried cells of a port whose data is ready: positions passed, and repeat passes (R201, R366). -/
def carriedOn (s : State) (p : PortId) (pos : Nat) : List Ready :=
  ((transitOn s p).filter fun x => decide (x.pos < pos) || x.ref.pass != 0) ++
  (allCtxIds.filter fun n => exchLive (s.ctx n)).flatMap fun n =>
    let c := s.ctx n
    (firstHops s c p).flatMap fun r =>
      let passes := (c.x.chainOut.filter fun x => x.1.1 == r.win && x.1.2.1 == r.cell && x.1.2.2 != 0).map fun x => x.1.2.2
      (if (c.v.stepFrame + r.phi) * 4096 + r.k < pos then (ownCell s n r 0).toList else []) ++ passes.filterMap (ownCell s n r)

/-- Send a ready cell, unless its window's VOLUME would be exceeded (R402). -/
def sendReady (p : PortId) (t k : Nat) (x : Ready) (s : State) : State :=
  match x.win with
  | none =>
    let s := { s with transit := dropFirst (fun y => y.ref == x.ref) s.transit }
    sendData p t k x.ref x.body x.origin 0 s
  | some w =>
    let c := s.ctx x.ctx
    let key := (w.win, x.ref.pass)
    let cnt := (assocGet key c.x.counts).getD 0 + cellBytes w x.ref.cell x.body
    if w.volume < cnt then
      let e := (chainsOf c).find? fun e => e.chain == w.chain
      threadFault x.ctx ((e.map (·.thread)).getD 0) ((e.map (·.cmd)).getD 0) flExchangeOver (put w.win 44) []
        (sendFiller p t (k == 0) s)
    else
      let s := s.modCtx x.ctx fun c => { c with x := { c.x with
        counts := assocSet key cnt c.x.counts, sent := c.x.sent ++ [(w.win, x.ref.cell, x.ref.pass)] } }
      sendData p t k x.ref x.body none 0 s

/-- Resend a kept cell of a port that a NAK named (R403). -/
def resendCell (p : PortId) (t k : Nat) (x : SentCell) (s : State) : State :=
  let same (f : FrameNo) (j : Nat) : Bool := f == x.frame && j == x.slot
  let s := s.modPort p fun q => { q with
    resend := q.resend.filter fun y => !same y.1 y.2, sent := q.sent.filter fun y => !same y.frame y.slot
    retries := satAdd q.retries 1 }
  sendData p t k x.ref x.words x.origin x.fails s

/-- A kept cell of a port that a NAK named, by its transmit frame and slot. -/
def keptCell (s : State) (p : PortId) (frame slot : Nat) : Option SentCell :=
  (s.port p).sent.find? fun x => x.frame == frame && x.slot == slot

/-- The first kept cell of a port that a NAK named. A NAK counts while the cell is within 512 slots of its sending, and its resend
takes the first free spare slot, whenever that comes (R403, log entry 52). -/
def resendable (s : State) (p : PortId) : Option SentCell :=
  (s.port p).resend.findSome? fun (y : Nat × Nat) => keptCell s p y.1 y.2

/-- While a cell waits as a carried one, the device requests a stretch with cause overrun for each frame that is open to
requests, once a frame. How many units it asks for is a free value of 1 to 16 (R366, R369; log entry 51). -/
def carryRequest (p : PortId) (k : Nat) (s : State) : State :=
  let asks := [openFrame s, openFrame s + 1].filter fun g => decide (s.ind.carryAsked < g) && decide (g ≤ frameNow s + 2)
  if asks.isEmpty || (carriedOn s p (frameNow s * 4096 + k)).isEmpty then s
  else
    let (w, s) := s.takeFree
    { s with ind := { s.ind with
      carryAsked := frameNow s + 2
      stretch := asks.foldl (fun l g => mergeStretch g (1 + w.toNat % 16) 16 true l) s.ind.stretch } }

/-- A serve cell of a port, at its position or after it, whose source may not be read: the context and the fault with its datum
(R208, R234, R415). -/
def serveFault (s : State) (p : PortId) (pos : Nat) : Option (CtxId × Nat × Word) :=
  (allCtxIds.filter fun n => exchLive (s.ctx n)).findSome? fun n =>
    let c := s.ctx n
    (firstHops s c p).findSome? fun r =>
      if pos < (c.v.stepFrame + r.phi) * 4096 + r.k || c.x.sent.contains (r.win, r.cell, 0) then none
      else (winDecl c r.win).bind fun w =>
        if w.kind = 1 then match serveCell s n w r.cell with
          | some (.error e) => if e.1 = flWait then none else some (n, e)
          | _ => none
        else none

/-- The sequencer's reads for the serve cells of a port: one that may not be made faults. No command makes it: the fault names thread
0 (log entry 50). -/
def checkServes (p : PortId) (pos : Nat) (s : State) : State :=
  match serveFault s p pos with
  | some (n, e) => threadFault n 0 0 e.1 e.2 [] s
  | none => s

/-- The cell of a slot: in a data slot its planned cell; in a spare slot a retry, else the oldest carried cell; else a filler
(R366, R389, R402). A device that takes no part in jobs sends fillers (R356). -/
def sendSlot (p : PortId) (t k : Nat) (s : State) : State :=
  let f := frameNow s
  if fillerOnly f k || !carriesPlan s p || !takesPart s then sendFiller p t (k == 0) s
  else if k < 3968 then
    match plannedAt s p (f * 4096 + k) with
    | some x => sendReady p t k x s
    | none => sendFiller p t (k == 0) s
  else match resendable s p with
    | some x => resendCell p t k x s
    | none =>
      match argMin (fun (a b : Ready) => decide (a.pos < b.pos)) (carriedOn s p (f * 4096 + k)) with
      | some x => sendReady p t k x s
      | none => sendFiller p t false s

/-- CELL_SEND (R353, R364, R402): the next cell of a port in the present frame. Time moves on to its slot. A port in reduced
traffic sends only the filler of slot 4,095 (R517). -/
def execCellSend (p : PortId) (s : State) : Host.Outcome State Fault Refusal :=
  let t := nextCell s p
  let g := gapCells s
  if !txActive s p || g + 4096 ≤ t then ok s
  else
    let s := advanceTo (s.ind.frameStart + ceilDiv (cellTime8 s t) 8) s
    let s := s.modPort p fun q => { q with tx := (frameNow s, t + 1) }
    let reduced := s.pwr.now = 2 || (s.port p).peerState = 2
    if t < g then ok (if reduced then s else sendFiller p t true s)
    else if reduced then ok (if t - g = 4095 then sendFiller p t false s else s)
    else ok (sendSlot p t (t - g) (carryRequest p (t - g) (checkServes p (frameNow s * 4096 + (t - g)) s)))

/-! ### Retries and links (R403, R354, R384) -/

/-- RESEND (R403): the kept cell of a transmit frame and slot goes out again in the first free spare slot of the frame. -/
def execResend (p : PortId) (frame slot : Nat) (s : State) : Host.Outcome State Fault Refusal :=
  let g := gapCells s
  let t := max (nextCell s p) (g + 3968)
  let k := t - g
  if !txActive s p || !carriesPlan s p || !takesPart s || decide (4095 ≤ k) || fillerOnly (frameNow s) k || s.pwr.now = 2 then ok s
  else if !(s.port p).resend.contains (frame, slot) then ok s
  else match keptCell s p frame slot with
    | none => ok s
    | some x =>
      let s := advanceTo (s.ind.frameStart + ceilDiv (cellTime8 s t) 8) s
      ok (resendCell p t k x (s.modPort p fun q => { q with tx := (frameNow s, t + 1) }))

/-- Does a context's plan use a port of this device? -/
def usesPort (s : State) (c : Ctx) (p : PortId) : Bool :=
  c.x.plan.any fun r => r.dev == devNum s && r.port == p.val && !r.egress

/-- Halt a context over a failed link. A device that only forwards for it sets HALT in its cells (R403). -/
def failHalt (s : State) (n : CtxId) : State :=
  if (s.ctx n).job.isSome then haltMark n s else modV n (fun v => { v with digestHalt := true }) s

/-- LINK_FAIL (R403): the cell of a transmit frame and slot has failed three times. -/
def execLinkFail (p : PortId) (frame slot : Nat) (s : State) : Host.Outcome State Fault Refusal :=
  match (s.port p).sent.find? fun x => x.frame == frame && x.slot == slot && decide (3 ≤ x.fails) with
  | none => ok s
  | some x =>
    if (s.port p).failed then ok s
    else
      let s := s.modPort p fun q => { q with failed := true }
      let s := allCtxIds.foldl (fun s n => if usesPort s (s.ctx n) p then failHalt s n else s) s
      let s := raiseEvent evLinkFail none [put p.val 0, put (x.ref.planFrame % 2 ^ 20) 44 ||| put x.ref.planSlot 32] s
      ok (raiseRust { kind := ruLinkFail, port := some p.val } s)

/-- LINK_UP (R354, R381, R384): the lanes are aligned and the FEC is locked in a mode, and the filtered delay in 2^−16 ns is
compared with NOMINAL_DELAY. -/
def execLinkUp (p : PortId) (mode : BitVec 2) (delay : Nat) (s : State) : Host.Outcome State Fault Refusal :=
  let bad : Option Nat := (linkAt s.boot.cfg.map (devNum s) p.val).bind fun (l : Nat × Nat × Nat) =>
    if 327680 < ((delay : Int) - (l.2.2 * 32768 : Nat)).natAbs then some l.2.2 else none
  let s := s.modPort p fun q => { q with up := true, linkMode := mode, miscabled := bad.isSome, heardAt := nsNow s }
  let s := { s with boot := { s.boot with lateLink := s.boot.lateLink || ((s.port p).mode != 0 && bootLate 2500 s) } }
  match bad with
  | some nom => ok (raiseEvent evLinkMiscabled none [put p.val 0, BitVec.ofNat 64 delay, put nom 0] s)
  | none => ok s

/-- LINK_DOWN (R384): UP clears, and the port carries no cells until it comes up again. -/
def execLinkDown (p : PortId) (s : State) : Host.Outcome State Fault Refusal :=
  ok (s.modPort p fun q => { q with up := false })

/-! ### Local serve windows and the plan -/

/-- The signals of a window on this device: it has no local command, so an underflow names thread 0 (R404, R268). -/
def windowSigs (w : WinDecl) : List SigReq :=
  w.sigs.map fun (g : Nat × Nat) => { thread := 0, cmd := 0, ctr := g.1, dec := g.2 }

/-- Copy the bytes of a serve window of this device to itself (R400). -/
def serveBytes (n : CtxId) (w : WinDecl) (s : State) : Chk State :=
  (serveAddr s n (Ref.ofWord w.srcRef) w.volume).bind fun a => writeRef n w.win (Ref.ofWord w.dstRef) (s.readB a w.volume) s

/-- SERVE_LOCAL (R400): a serve window from this device to itself is copied from its frame FRAME_MIN on, and its signals
apply. It waits for an alternate buffer and for a bank's clear (R421, R216). No command serves it: a fault names thread 0
(log entry 50). -/
def execServeLocal (n : CtxId) (win : Nat) (s : State) : Host.Outcome State Fault Refusal :=
  let c := s.ctx n
  match winDecl c win with
  | none => ok s
  | some w =>
    if !(w.kind == 1 && w.src == w.dst && w.dst == devNum s && c.v.live && c.state == 2 && !c.x.applied.contains win &&
        decide (c.v.stepFrame + w.frameMin ≤ frameNow s)) then ok s
    else
      let fed := match feeder s c w with
        | some x => hasLanded c x ((Ref.ofWord w.srcRef).off - (Ref.ofWord x.dstRef).off) w.volume
        | none => true
      if !fed || refWaits c (Ref.ofWord w.srcRef) then ok s
      else
        match serveBytes n w s with
        | .ok s =>
          let s := s.modCtx n fun c => { c with x := { c.x with
            filled := c.x.filled ++ [(win, 0, w.volume)], applied := c.x.applied ++ [win] } }
          ok (noteEnd n (applySigs n (windowSigs w) s))
        | .error e => ok (if e.1 = flWait then s else threadFault n 0 0 e.1 e.2 [] s)

/-- A plan digest with some bits flipped, as a sequencer that erred would make it. -/
def flipDig (d : List Word) (err : BitVec 256) : List Word :=
  (List.range 4).map fun i => wd d i ^^^ BitVec.ofNat 64 (err.toNat >>> (64 * i))

/-- PLAN_COMPUTE (R466, R468, R471): both fabric sequencers compute a job's plan and its digest; the operands are what errors
flip in each, and in the Renine controller's third computation where the two differ, with the frame in which it finishes (none: it is
not available). -/
def execPlanCompute (n : CtxId) (err0 err1 : BitVec 256) (third : Option (BitVec 256 × Nat)) (s : State) : Host.Outcome State Fault Refusal :=
  if (planJob (s.ctx n)).isNone || (s.ctx n).state = 2 then ok s
  else
    let s := setPlan n s
    let dig := (s.ctx n).x.planDig
    let use (d : List Word) (bad : Bool) (s : State) : State :=
      s.modCtx n fun c => { c with x := { c.x with
        planDig := d, planBad := bad, planAt := if err0 = err1 then 0 else (third.map (·.2)).getD 0 } }
    let low (e : BitVec 256) : BitVec 128 :=
      let d := flipDig dig e
      BitVec.ofNat 128 ((wd d 0).toNat + (wd d 1).toNat <<< 64)
    if err0 = err1 then ok (use (flipDig dig err0) false s)
    else
      let s := s.modDie 0 fun d => { d with shd := upd d.shd n fun x => { x with mismatches := satAdd x.mismatches 1 } }
      let ent (o : Nat) : VerdictEnt :=
        { cause := caPlanCompute, outcome := o, digP := low err0, digC := low err1
          digT := match third with | some t => low t.1 | none => 0
          units := if third.isSome then 3 else 2 }
      let third := third.map (·.1)
      if third = some err0 then
        ok (reportVerdict n (ent 1) none (use (flipDig dig err0) false (s.modDie 1 fun d => { d with seqSuspect := true })))
      else if third = some err1 then
        ok (reportVerdict n (ent 2) none (use (flipDig dig err1) false (s.modDie 0 fun d => { d with seqSuspect := true })))
      else ok (reportVerdict n (ent 3) none (use (flipDig dig err0) true s))

end Sys2Proof.Machine
end

