-- ==== Sys2Proof/Machine/Cbor.lean ====
section
/-! DEFINITION. CBOR with the core deterministic encoding (RFC 8949 section 4.2.1), as far as the bodies of Rust records
(R491), attestation reports and the certificate chain (R568, R569) use it. -/

namespace Sys2Proof.Machine

/-- The head of a data item: its major type and argument, in the shortest form. -/
def cborHead (major n : Nat) : List Byte :=
  let b (info : Nat) : Byte := BitVec.ofNat 8 (major * 32 + info)
  if n < 24 then [b n]
  else if n < 0x100 then b 24 :: (leBytes 1 n).reverse
  else if n < 0x10000 then b 25 :: (leBytes 2 n).reverse
  else if n < 0x100000000 then b 26 :: (leBytes 4 n).reverse
  else b 27 :: (leBytes 8 n).reverse

/-- An unsigned integer. -/
def cborUint (n : Nat) : List Byte := cborHead 0 n

/-- An integer of either sign. -/
def cborInt (i : Int) : List Byte :=
  match i with
  | .ofNat n => cborHead 0 n
  | .negSucc n => cborHead 1 n

/-- A byte string. -/
def cborBytes (bs : List Byte) : List Byte := cborHead 2 bs.length ++ bs

/-- A text string of ASCII characters. -/
def cborText (bs : List Byte) : List Byte := cborHead 3 bs.length ++ bs

/-- An array of encoded items. -/
def cborArray (items : List (List Byte)) : List Byte := cborHead 4 items.length ++ items.flatMap id

/-- A map from small unsigned keys, given in ascending order, to encoded items; absent items are left out. -/
def cborMap (entries : List (Nat × Option (List Byte))) : List Byte :=
  let es := entries.filterMap fun e => e.2.map fun v => (e.1, v)
  cborHead 5 es.length ++ es.flatMap fun e => cborUint e.1 ++ e.2

end Sys2Proof.Machine
end

