-- ==== Sys2Proof/Machine/Rust.lean ====
section
/-! DEFINITION. Rust records: their bodies and signatures (R491, R493), the store and its delivery (R494), and
acknowledgements (R495). -/

namespace Sys2Proof.Machine

/-- The bytes of a 128-bit digest (R438). -/
def dig16 (d : BitVec 128) : List Byte := leBytes 16 d.toNat

/-- The verdict of a record: outcome, cores and the digests of the executions that took part (R491). -/
def verdictCbor (v : VerdictEnt) : List Byte :=
  let ds := [v.digP] ++ (if v.checker = 0xFF && v.third = 0xFF && v.units < 2 then [] else [v.digC]) ++
    (if v.third = 0xFF && v.units < 3 then [] else [v.digT])
  cborMap [(1, some (cborUint v.outcome)), (2, some (cborUint v.primary)), (3, some (cborUint v.checker)),
    (4, some (cborUint v.third)), (5, some (cborArray (ds.map fun d => cborBytes (dig16 d))))]

/-- The command of a record (R491, R492). -/
def commandCbor (c : CmdSig) : List Byte :=
  cborMap [(1, some (cborUint c.thread)), (2, some (cborUint c.cmd)), (3, some (cborBytes (padTo 128 (wordsToBytes c.body)))),
    (4, some (cborArray (c.prints.map fun (p : Nat × Nat × BitVec 128) =>
      cborArray [cborUint p.1, cborUint p.2.1, cborBytes (dig16 p.2.2)])))]

/-- The location of a record, absent when no part of it is named (R491). -/
def placeCbor (r : RustReq) : Option (List Byte) :=
  let parts := [r.core, r.die, r.bank, r.column, r.addr, r.port, r.medium]
  if parts.all (·.isNone) then none
  else some (cborMap (parts.zipIdx.map fun (p : Option Nat × Nat) => (p.2 + 1, p.1.map cborUint)))

/-- The body of a record with its sequence number (R491). -/
def rustBody (s : State) (seq : Nat) (r : RustReq) : List Byte :=
  cborMap [
    (1, some (cborUint 1)), (2, some (cborUint seq)), (3, some (cborUint (devNum s))),
    (4, some (cborBytes (wordsToBytes (s.boot.fuses.ident.take 4)))), (5, some (cborUint s.boot.count.toNat)),
    (6, some (cborUint (nsNow s))),
    (7, if s.ind.ptpValid then some (cborInt s.ind.facOffset.toInt) else none),
    (8, some (cborUint r.kind)), (9, r.ctx.map fun n => cborUint n.val), (10, r.step.map cborUint),
    (11, r.attempt.map fun a => cborUint (a % 256)), (12, r.verdict.map verdictCbor), (13, r.sig.map commandCbor),
    (14, placeCbor r), (15, if r.detail.isEmpty then none else some (cborBytes (r.detail.take 1024)))]

/-- The identity key's signature over a digest (R493, R567). -/
def signature (digest : List Byte) : List Byte :=
  let w := bytesToWords digest
  (List.range ((Config.signLen w).val + 1)).map (Config.signByte w)

/-- The CBOR bytes of a stored record. -/
def RustRec.cbor (r : RustRec) : List Byte := cborArray [cborBytes r.body, cborBytes r.sig]

/-- Send a record to the receivers of the image that have not acknowledged it (R494, R495). -/
def sendRust (r : RustRec) (s : State) : State :=
  ((List.range s.boot.cfg.rust.length).filter fun i => !r.acks.contains i).foldl
    (fun s i => s.emit (.rust i r.seq r.cbor)) s

/-- Change the stored record of a sequence number. -/
def modRust (seq : Nat) (f : RustRec → RustRec) (s : State) : State :=
  { s with rust := { s.rust with store := modFirst (fun r => r.seq == seq) f s.rust.store } }

/-- RUST_RECORD (R490 to R494): the controller makes, signs, stores and sends the next record; the store keeps the latest
1,024. -/
def execRustRecord (s : State) : Host.Outcome State Fault Refusal :=
  match s.rust.pending with
  | [] => ok s
  | q :: rest =>
    let seq := s.rust.seq + 1
    let body := rustBody s seq.toNat q
    let r : RustRec := { seq := seq.toNat, body := body, sig := signature (shake256 32 body), sentAt := some (nsNow s) }
    let store := s.rust.store ++ [r]
    ok (sendRust r { s with rust := { s.rust with
      seq := seq, pending := rest, store := store.drop (store.length - 1024) } })

/-- Does a record wait for a receiver? -/
def RustRec.unacked (s : State) (r : RustRec) : Bool := decide (r.acks.length < s.boot.cfg.rust.length)

/-- The level of ALERT_N, true for high (R576): low while an unacknowledged Rust record is held. -/
def alertN (s : State) : Bool := !s.rust.store.any (·.unacked s)

/-- RUST_RESEND (R494): the first record that 2,000 ms have not seen acknowledged by every receiver is sent again. -/
def execRustResend (s : State) : Host.Outcome State Fault Refusal :=
  let due (r : RustRec) : Bool := r.unacked s && (match r.sentAt with
    | some t => decide (t + 2000000000 ≤ nsNow s)
    | none => true)
  match s.rust.store.find? due with
  | some r => ok (sendRust r (modRust r.seq (fun r => { r with sentAt := some (nsNow s) }) s))
  | none => ok s

/-- RUST_ACK (R495): accepted only with the digest of the stored record's signature; otherwise dropped without a count. -/
def execRustAck (receiver seq : Nat) (digest : List Word) (s : State) : Host.Outcome State Fault Refusal :=
  match s.rust.store.find? fun r => r.seq == seq with
  | some r =>
    if receiver < s.boot.cfg.rust.length && digest == bytesToWords (shake256 32 r.sig) && !r.acks.contains receiver then
      ok (modRust seq (fun r => { r with acks := r.acks ++ [receiver] }) s)
    else ok s
  | none => ok s

end Sys2Proof.Machine
end

