-- ==== Sys2Proof/Machine/Host.lean ====
section
/-! DEFINITION. The message processor: sessions and tags (R526 to R531), replies and repeats (R538), ownership (R532 to
R536), events (R547, R548), and RDMA (R528, R545). -/

namespace Sys2Proof.Machine

/-! ### Sessions, tags and replies -/

/-- The open session of a station. -/
def sessionOf (s : State) (st : StationId) : Option Session := s.host.sessions.find? fun x => x.station == st

/-- Change the open session of a station. -/
def modSession (st : StationId) (f : Session → Session) (s : State) : State :=
  { s with host := { s.host with sessions := modFirst (fun x => x.station == st) f s.host.sessions } }

/-- The tag over the bytes of a message's header and body: KMAC256(K, bytes, 128, "ZYNDY") (R530). -/
def tagOf (key : List Word) (bs : List Byte) : List Byte :=
  kmac256 (wordsToBytes key) bs 128 [0x5A, 0x59, 0x4E, 0x44, 0x59]

/-- The tag of a message. -/
def zyndyTag (key header body : List Word) : List Byte := tagOf key (wordsToBytes (header ++ body))

/-- The device's own address on a port, in a family, as the image gives it: one word of IPv4 or two of IPv6 (R525, R557). -/
def srcAddr (s : State) (v : Via) : List Word :=
  let k := match v.port with | .h0 => 0 | .h1 => 1 | .m0 => 2
  ((assocGet ((if v.v6 then 0x20 else 0x28) + k) s.boot.cfg.addrs).getD []).take (if v.v6 then 2 else 1)

/-- Send a message in a session on a port and family. -/
def sendIn (v : Via) (x : Session) (header body : List Word) (s : State) : State :=
  s.emit (.zyndy v (srcAddr s v) x.station header body (zyndyTag x.key header body))

/-- A datagram that R527 discards. -/
def discard (s : State) : State := { s with host := { s.host with badMsg := satAdd s.host.badMsg 1 } }

/-- What an order answers: its status, the words of the reply's body, and the state after it. -/
abbrev Answer := Nat × List Word × State

/-- Reply to a request in its session, on the port and family on which it arrived (R525). -/
def reply (h : Hdr) (type status : Nat) (body : List Word) (s : State) : State :=
  match sessionOf s h.station with
  | some x => sendIn h.via x (zyndyHeader type h.station.val (8 * body.length) h.seq status) body s
  | none => s

/-- Reply to an applied request and keep the reply among the last 64 (R538). -/
def replyKept (h : Hdr) (type status : Nat) (body : List Word) (s : State) : State :=
  let ws := zyndyHeader type h.station.val (8 * body.length) h.seq status ++ body
  reply h type status body (modSession h.station (fun x => { x with recent := ((h.seq, ws) :: x.recent).take 64 }) s)

/-- The kept reply of a request that was applied before (R538). -/
def keptReply (x : Session) (h : Hdr) : Option (List Word) := assocGet h.seq x.recent

/-- Send a kept reply again. -/
def resendReply (v : Via) (x : Session) (ws : List Word) (s : State) : State := sendIn v x (ws.take 4) (ws.drop 4) s

/-- Every accepted message of the owner extends its lease to 2,000 ms after its arrival (R534). -/
def extendLease (st : StationId) (arrival : Nat) (s : State) : State :=
  if s.host.owner = some st then { s with host := { s.host with leaseEnd := max s.host.leaseEnd (arrival + 2000000000) } } else s

/-- Has the device stopped after three sequence faults in a row (R583)? -/
def seqStopped (s : State) : Bool := s.sup.faults == 3 && !s.sup.railsEn

/-- Does the device hear a port: in Black, and after a sequence-fault stop, M0 alone (R514, R521, R525, R552)? -/
def hears (s : State) (v : Via) : Bool := v.port == .m0 || !(s.pwr.now == 3 || seqStopped s)

/-- What a request answers, and what it leaves: only an accepted message of the owner extends the lease (R534; log entry 11). -/
def withLease (st : StationId) (arrival : Nat) (f : State → Answer) (s : State) : Answer :=
  let a := f (extendLease st arrival s)
  if a.1 = stOk then a else f s

/-- A message marked "any" that is applied on its arrival counts among those applied in its session (R537; log entry 11). -/
def notedAny (h : Hdr) (s : State) : State := modSession h.station (fun x => { x with high := max x.high h.seq }) s

/-- Is the device READY, waiting in Black with a bad image, or stopped: does it accept orders (R521, R563, R565, R583)? -/
def acceptsOrders (s : State) : Bool := s.boot.phase == 6 || s.boot.phase == 7 || seqStopped s

/-- Is the device in Grey or Black (R552, R583)? -/
def isDark (s : State) : Bool := 2 ≤ s.pwr.now.toNat || seqStopped s

/-- The refusal that the power state or an unfinished boot gives an order, 0 when it may be served (R552, R563). -/
def stateRefusal (s : State) (servedDark : Bool) : Nat :=
  if !acceptsOrders s then stNotReady else if isDark s && !servedDark then stPowerState else 0

/-- Serve a message marked "any" (R536 to R538) that arrived at an instant, for every station with an open session. -/
def serveAt (arrival : Nat) (h : Hdr) (type : Nat) (dark : Bool) (f : State → Answer) (s : State) : State :=
  if !hears s h.via then s
  else match sessionOf s h.station with
  | none => discard s
  | some x =>
    match keptReply x h with
    | some ws => resendReply h.via x ws (extendLease h.station arrival s)
    | none =>
      let r := stateRefusal s dark
      if r != 0 then reply h type r [] s
      else
        let a := withLease h.station arrival f (notedAny h s)
        replyKept h type a.1 a.2.1 a.2.2

/-- Serve a message marked "any" on its arrival. -/
def serveAny (h : Hdr) (type : Nat) (dark : Bool) (f : State → Answer) (s : State) : State := serveAt (nsNow s) h type dark f s

/-! ### SESSION (R529 to R531) -/

/-- May a station open a session with a key of this digest (R529, R565)? -/
def mayOpen (s : State) (st : StationId) (digest : List Word) : Bool :=
  if s.boot.phase = 7 then
    s.boot.fuses.recovSet = 0 || (List.finRange 2).any fun r =>
      s.boot.fuses.recovSet.getLsbD r.val && st.val == 14 + r.val && s.boot.fuses.recov[r.val] == digest
  else s.boot.cfg.stations.any fun x => x.num == st.val && x.digest == digest

/-- A reply with BAD_MESSAGE to a SESSION, which has no session to be sent in: its tag is zero (log entry 14). -/
def sessionBad (v : Via) (st : StationId) (seq : Nat) (s : State) : State :=
  s.emit (.zyndy v (srcAddr s v) st (zyndyHeader 0x01 st.val 0 seq stBadMessage) [] (List.replicate 16 0))

/-- SESSION (R525, R527, R529 to R531): the device checks the key and the signature, derives K and replies with the ciphertext, signed.
A body that breaks R530 is answered with BAD_MESSAGE; a session that does not pass is discarded. -/
def execSession (v : Via) (st : StationId) (pk ek sig : List Byte) (s : State) : Host.Outcome State Fault Refusal :=
  let head := padTo 1800 pk ++ ek
  let digest := bytesToWords (shake256 32 pk)
  let form := pk.length == 1793 && ek.length == 1568 && decide (1 ≤ sig.length) && decide (sig.length ≤ 1280)
  let good := mayOpen s st digest && Config.falconVerify pk (shake256 32 head) sig
  if !hears s v then ok s
  else if !form then ok (sessionBad v st 1 s)
  else if !good then ok (discard s)
  else
    let seed := s.free
    let key := bytesToWords ((List.range 32).map (Config.kemSecret ek seed))
    let cipher := (List.range 1568).map (Config.kemCipher ek seed)
    let mine := signature (shake256 32 (head ++ cipher))
    let body := bytesToWords (cipher ++ leBytes 8 mine.length ++ padMul 8 mine)
    let x : Session := { station := st, key := key, via := v }
    let s := { s with free := s.free + 1, host := { s.host with
      sessions := (s.host.sessions.filter fun y => y.station != st) ++ [x] } }
    ok (extendLease st (nsNow s) (reply { station := st, seq := 1, via := v } 0x01 stOk body s))

/-! ### Datagrams that no other command spells (R527, R540) -/

/-- Does the body of a SESSION keep the layout of R530? -/
def sessionFits (body : List Byte) : Bool :=
  let w := wd (bytesToWords ((body.drop 3368).take 8)) 0
  let n := fld w 15 0
  ((body.drop 1793).take 7).all (· == 0) && decide (1 ≤ n) && decide (n ≤ 1280) && fld w 63 16 == 0 &&
    body.length == 3376 + ceilDiv n 8 * 8 && (body.drop (3376 + n)).all (· == 0)

/-- Does a body fit its TYPE: its length, and the ranges of the fields that R540 and R566 bound? A TYPE that they do not list fits no
body. -/
def bodyFits (type : Nat) (w : List Word) : Bool :=
  let n := w.length
  let v (i : Nat) : Nat := (wd w i).toNat
  match type with
  | 0x02 => n == 1 && decide (v 0 ≤ 255)
  | 0x03 => n == 0
  | 0x04 => n == 1 && decide (v 0 < 16)
  | 0x05 => n == 0
  | 0x10 => n == 1
  | 0x11 => n == 2
  | 0x12 => n == 0
  | 0x20 => n == 4 && decide (v 0 < 8)
  | 0x21 => n == 2 && decide (v 0 < 8)
  | 0x22 => decide (3 ≤ n) && decide (n ≤ 4) && decide (v 0 < 8)
  | 0x23 => n == 1 && decide (v 0 < 8)
  | 0x24 => n == 1 && decide (v 0 < 8)
  | 0x25 => n == 1 && decide (v 0 < 8)
  | 0x26 => n == 1 && decide (v 0 < 8)
  | 0x27 => decide (2 ≤ n) && decide (v 0 < 8) && decide (v 1 ≤ 8) && n == 2 + 2 * v 1
  | 0x28 => n == 1 && fld (wd w 0) 63 9 == 0 && fld (wd w 0) 7 3 == 0
  | 0x29 => n == 1 && decide (v 0 < 128)
  | 0x30 => n == 6 && decide (v 1 < 8) && decide (v 4 ≤ 1)
  | 0x31 => decide (2 ≤ n) && decide (v 0 < 8)
  | 0x32 => n == 3 && decide (v 0 < 8)
  | 0x40 => n == 4
  | 0x41 => n == 2
  | 0x42 => n == 2
  | 0x43 => decide (2 ≤ n) && decide (n ≤ 3) && decide (v 0 < 8)
  | 0x44 => n == 1
  | 0x50 => n == 2 && decide (v 0 < 2 ^ 15) && decide (v 1 ≤ 1)
  | 0x51 => n == 1
  | 0x52 => n == 1 && decide (v 0 ≤ 1)
  | 0x60 => n == 0
  | 0x61 => decide (9 ≤ n) && decide (n ≤ 1017)
  | 0x62 => n == 0
  | 0x63 => n == 0
  | 0x64 => n == 4
  | 0x65 => n == 0
  | _ => false

/-- What R527 makes of a datagram: it is discarded, or answered with BAD_MESSAGE in its session or, a SESSION, without one; or nothing
is wrong with it, and it is a command of its own. -/
inductive Fate where
  | discarded
  | bad (h : Hdr) (type : Nat)
  | badSession (st : StationId) (seq : Nat)
  | sound
  deriving DecidableEq, Repr

/-- Judge a datagram by R526, R527 and R540. -/
def fateOf (s : State) (v : Via) (bs : List Byte) : Fate :=
  let ws := bytesToWords (bs.take 32)
  let w0 := wd ws 0
  let n := fld w0 15 0
  let type := fld w0 39 32
  let st : StationId := ⟨fld w0 31 28 % 16, Nat.mod_lt _ (by decide)⟩
  let h : Hdr := { station := st, seq := (wd ws 1).toNat, via := v }
  let body := (bs.drop 32).take n
  let tag := bs.drop (32 + n)
  let fields := fld w0 27 16 == 0 && wd ws 2 == 0 && wd ws 3 == 0 && h.seq != 0 && n % 8 == 0 && decide (n ≤ 8144)
  if fld w0 63 48 != 0x5A59 || fld w0 47 40 != 1 || bs.length != 48 + n then .discarded
  else if type = 0x82 then .sound
  else if type = 0x01 then
    if tag.any (· != 0) then .discarded else if fields && sessionFits body then .sound else .badSession st h.seq
  else match sessionOf s st with
    | none => .discarded
    | some x =>
      if tag != tagOf x.key (bs.take (32 + n)) then .discarded
      else if fields && bodyFits type (bytesToWords body) then .sound
      else .bad h type

/-- DISCARDED_DATAGRAM (R527, R540): a datagram that the header checks discard is counted, without reply; one that breaks a field rule
of its type, or has no listed TYPE, is answered with BAD_MESSAGE and has no other effect. -/
def execDiscardedDatagram (v : Via) (bs : List Byte) (s : State) : Host.Outcome State Fault Refusal :=
  if !hears s v then ok s
  else match fateOf s v bs with
  | .discarded => ok (discard s)
  | .bad h type => ok (reply h type stBadMessage [] s)
  | .badSession st seq => ok (sessionBad v st seq s)
  | .sound => ok s

/-! ### Ownership (R532 to R536) -/

/-- A change of owner (R533 to R535): a fresh lease for the new owner, the count, and the event; an election ends the claim of the
station that it elects. The new owner receives the queue from its oldest entry (R547). Causes: 0 election, 1 handover, 2 release, 3 lapse. -/
def changeOwner (new : Option StationId) (cause : Nat) (s : State) : State :=
  let num (o : Option StationId) : Nat := match o with | some x => x.val | none => 0
  let old := s.host.owner
  let w := put cause 16 ||| putB old.isSome 12 ||| put (num old) 8 ||| putB new.isSome 4 ||| put (num new) 0
  let s := { s with host := { s.host with
    owner := new, changes := satAdd s.host.changes 1, leaseEnd := if new.isSome then nsNow s + 2000000000 else 0
    claims := if cause = 0 || cause = 3 then s.host.claims.filter fun c => some c.station != new else s.host.claims
    events := s.host.events.map fun e => { e with sentAt := none } } }
  raiseEvent evOwnerChange none [w] s

/-- Is a claim still pending: 5,000 ms have not gone by (R533)? -/
def claimLives (s : State) (c : Claim) : Bool := decide ((nsNow s : Int) < c.at_ + 5000000000)

/-- The pending claim with the highest priority, and between equals the lowest station (R533). -/
def bestClaim (s : State) : Option StationId :=
  (argMin (fun (a b : Claim) => decide (b.prio < a.prio) || (a.prio == b.prio && decide (a.station.val < b.station.val)))
    (s.host.claims.filter (claimLives s))).map (·.station)

/-- The claim ceiling of a station (R529, R565): with a bad image 255 for the recovery stations, and for every station where no recovery
slot is set. -/
def ceilingOf (s : State) (st : StationId) : Nat :=
  if s.boot.phase = 7 then
    if s.boot.fuses.recovSet = 0 || (14 ≤ st.val && s.boot.fuses.recovSet.getLsbD (st.val - 14)) then 255 else 0
  else match s.boot.cfg.stations.find? fun x => x.num == st.val with
    | some x => x.ceiling
    | none => 0

/-- What a CLAIM does (R533). -/
def claimEffect (st : StationId) (prio : Nat) (s : State) : Answer :=
  if 255 < prio || ceilingOf s st < prio then (stBadMessage, [], s)
  else
    let claims := (s.host.claims.filter fun c => c.station != st) ++ [{ station := st, prio, at_ := nsNow s }]
    let s := { s with host := { s.host with claims := claims } }
    if s.host.owner.isSome then (stOwned, [], s)
    else (stOk, [], { s with host := { s.host with
      electionAt := some (s.host.electionAt.getD (nsNow s + 100000000)) } })

/-- Apply a claim that has arrived (R533, R537, R538). -/
def applyClaim (arrival : Nat) (h : Hdr) (prio : Nat) (s : State) : State :=
  serveAt arrival h 0x02 true (claimEffect h.station prio) s

/-- CLAIM (R533). -/
def execClaim (h : Hdr) (prio : Nat) (s : State) : Host.Outcome State Fault Refusal := ok (applyClaim (nsNow s) h prio s)

/-- ELECTION_WINDOW_END (R533): the best pending claim is elected. -/
def execElectionWindowEnd (s : State) : Host.Outcome State Fault Refusal :=
  match s.host.electionAt with
  | some t =>
    if nsNow s < t then ok s
    else
      let s := { s with host := { s.host with electionAt := none } }
      match s.host.owner, bestClaim s with
      | none, some st => ok (changeOwner (some st) 0 s)
      | _, _ => ok s
  | none => ok s

/-- CLAIM_EXPIRY (R533): a station's claim has been pending for 5,000 ms. -/
def execClaimExpiry (st : StationId) (s : State) : Host.Outcome State Fault Refusal :=
  ok { s with host := { s.host with claims := s.host.claims.filter fun c => c.station != st || claimLives s c } }

/-- LEASE_LAPSE (R534): the lease ends, and the best of the claims then pending is elected at once. -/
def execLeaseLapse (s : State) : Host.Outcome State Fault Refusal :=
  if s.host.owner.isSome && decide (s.host.leaseEnd ≤ nsNow s) then ok (changeOwner (bestClaim s) 3 s) else ok s

/-! ### Events (R547, R548) -/

/-- The body of an event message (R548). -/
def eventBody (e : Ev) : List Word :=
  let ctx : Word := match e.ctx with
    | some n => put n.val 53 ||| putB true 52
    | none => 0
  let det := e.detail.take 1013
  [BitVec.ofNat 64 e.seq, put e.code 56 ||| ctx ||| put (e.dropped % 2 ^ 32) 0, BitVec.ofNat 64 e.ns,
   (if e.ctx.isSome then BitVec.ofNat 64 e.step else 0), put det.length 0] ++ det

/-- The port and family of a message that the device starts: those of the SESSION, and M0 where nothing else is heard (R512, R525; log
entry 59). -/
def eventVia (s : State) (x : Session) : Via := if hears s x.via then x.via else { x.via with port := .m0 }

/-- Send an event to the owner in its session; the device counts the messages it starts (R530, R547). -/
def sendEvent (e : Ev) (s : State) : State :=
  match s.host.owner.bind (sessionOf s) with
  | some x =>
    let body := eventBody e
    let s := sendIn (eventVia s x) x (zyndyHeader 0x80 x.station.val (8 * body.length) (x.sent + 1) 0) body s
    let s := modSession x.station (fun x => { x with sent := x.sent + 1 }) s
    { s with host := { s.host with events := modFirst (fun y => y.seq == e.seq) (fun y => { y with sentAt := some (nsNow s) }) s.host.events } }
  | none => s

/-- EVENT (R547): the oldest event that this owner has not been sent goes out. -/
def execEvent (s : State) : Host.Outcome State Fault Refusal :=
  match s.host.events.find? fun e => e.sentAt.isNone with
  | some e => ok (sendEvent e s)
  | none => ok s

/-- EVENT_RESEND (R547): the oldest event unacknowledged for 100 ms goes out again. -/
def execEventResend (s : State) : Host.Outcome State Fault Refusal :=
  let due (e : Ev) : Bool := match e.sentAt with
    | some t => decide (t + 100000000 ≤ nsNow s)
    | none => false
  match s.host.events.find? due with
  | some e => ok (sendEvent e s)
  | none => ok s

/-! ### RDMA (R528, R545) -/

/-- The registered window of a number. -/
def anyWin (s : State) (win : Nat) : Option HostWin := s.host.windows.find? fun w => w.win == win

/-- Take a queue pair of H0 or H1 (R528): one that the port holds, or a new one where it holds fewer than 64 (log entry 59). -/
def takeQp (h1 : Bool) (qp : Nat) (s : State) : Option State :=
  if s.host.qps.contains (h1, qp) then some s
  else if 64 ≤ (s.host.qps.filter fun x => x.1 == h1).length then none
  else some { s with host := { s.host with qps := s.host.qps ++ [(h1, qp)] } }

/-- Is RDMA heard: H0 and H1 run (R514, R525)? -/
def hearsRdma (s : State) : Bool := hears s { port := .h0 }

/-- The packets of an answer, of at most 4,096 bytes, on the priority that the image names (R528). -/
def rdmaSend (h1 : Bool) (qp win : Nat) (data : List Byte) (s : State) : State :=
  let parts := if data.isEmpty then [[]] else chunks 4096 data
  parts.foldl (fun s p => s.emit (.rdmaAck h1 qp s.boot.cfg.pfc win p)) s

/-- The remote access error of a request that may not have its access (R528). -/
def rdmaDeny (h1 : Bool) (qp win : Nat) (s : State) : State := s.emit (.rdmaNak h1 qp s.boot.cfg.pfc win)

/-- RDMA_WRITE (R528). -/
def execRdmaWrite (h1 : Bool) (qp win offset : Nat) (data : List Byte) (s : State) : Host.Outcome State Fault Refusal :=
  match hearsRdma s, takeQp h1 qp s with
  | true, some s =>
    (match anyWin s win with
    | some w =>
      if !w.dir && offset + data.length ≤ w.len && !isDark s then ok (rdmaSend h1 qp win [] (s.writeB (w.base + offset) data))
      else ok (rdmaDeny h1 qp win s)
    | none => ok (rdmaDeny h1 qp win s))
  | _, _ => ok s

/-- RDMA_READ (R528, R545): of a DIR = 1 window only while it is published. -/
def execRdmaRead (h1 : Bool) (qp win offset len : Nat) (s : State) : Host.Outcome State Fault Refusal :=
  match hearsRdma s, takeQp h1 qp s with
  | true, some s =>
    (match anyWin s win with
    | some w =>
      if w.dir && w.state == 2 && offset + len ≤ w.len && !isDark s then ok (rdmaSend h1 qp win (s.readB (w.base + offset) len) s)
      else ok (rdmaDeny h1 qp win s)
    | none => ok (rdmaDeny h1 qp win s))
  | _, _ => ok s

end Sys2Proof.Machine
end

