-- ==== Sys2Proof/Machine/Orders.lean ====
section
/-! DEFINITION. What the orders do (R540, R566), and how the owner's orders are judged and applied (R534 to R539, R552). -/

namespace Sys2Proof.Machine

/-! ### Registers by order (R35, R590) -/

/-- A register write of the owner or the controller. A record that waited for room in the ring follows a raised FLOOR or a cleared
STALL (R452), and RELEASE gives the held buffers back to the alternates (R456). -/
def writeReg (who : Who) (addr : Nat) (v : Word) (s : State) : Wrote :=
  let w := regWriteAt who addr v s
  if w.1 != stOk then w
  else match regAt addr with
    | some .sepFloor => (w.1, publishWaiting w.2)
    | some .sepRing => (w.1, publishWaiting w.2)
    | some (.sepCtl n) => (w.1, fillAlts n w.2)
    | _ => w

/-- The registers that the owner may write in Grey and Black (R552). -/
def darkReg (addr : Nat) : Bool :=
  addr == regAddr .pwrState || addr == regAddr .pwrWake || addr == regAddr .alarm

/-- REG_READ (R35, R349). A remote form of an address in control space is refused (R32). -/
def readEffect (addr : Nat) (s : State) : Answer :=
  if resolveAddr (devNum s) addr = .refused then (stDescBounds, [0], s)
  else
    let r := regRead s addr
    (r.1, [r.2.1], r.2.2)

/-- REG_WRITE by the owner: the same of a remote form (R32). -/
def writeEffect (addr : Nat) (v : Word) (s : State) : Wrote :=
  if resolveAddr (devNum s) addr = .refused then refuse stDescBounds s else writeReg .owner addr v s

/-- A base address that an order gives: the remote form of the device's own number is resolved as local (R32). -/
def localBase (s : State) (a : Nat) : Nat := match resolveAddr (devNum s) a with
  | .here b => b
  | _ => a

/-! ### Ranges, privilege, quarantine (R600, R39, R473) -/

/-- Does a range overlap the Sepia ring (R325)? The withheld granules that the ring skips are no part of it. -/
def ringOverlap (s : State) (a len : Nat) : Bool :=
  match s.sep.base with
  | none => false
  | some base =>
    let lo := max a base
    let hi := min (a + len) (base + ringSize s + s.sep.holes.length * granule)
    let holes := s.sep.holes.filter fun h => decide (lo ≤ h * granule) && decide (h * granule < hi)
    decide (lo < hi) && decide (holes.length * granule < hi - lo)

/-- Is a range one that ASSIGN refuses (R600)? -/
def badRange (s : State) (n : CtxId) (r : Nat × Nat) : Bool :=
  r.1 % granule != 0 || r.2 % granule != 0 || !dramRange s r.1 r.2 || ringOverlap s r.1 r.2 ||
  allCtxIds.any fun m => m != n && (s.ctx m).ranges.any fun q => overlap r.1 (r.1 + r.2) q.1 (q.1 + q.2)

/-- ASSIGN (R600, R23, R32). -/
def assignOrder (n : CtxId) (ranges : List (Nat × Nat)) (s : State) : Wrote :=
  let ranges := ranges.map fun r => (localBase s r.1, r.2)
  if 8 < ranges.length then refuse stBadMessage s
  else if (s.ctx n).state != 0 then refuse stCtxBusy s
  else if ranges.any (badRange s n) ||
      !pairsB (fun (a b : Nat × Nat) => !overlap a.1 (a.1 + a.2) b.1 (b.1 + b.2)) ranges then refuse stDescBounds s
  else (stOk, s.modCtx n fun c => { c with ranges := ranges })

/-- PRIVILEGE (R39). -/
def privilegeOrder (n : CtxId) (priv : Bool) (s : State) : Wrote :=
  let others := allCtxIds.filter fun m => m != n && (s.ctx m).priv
  if (s.ctx n).state != 0 then refuse stCtxBusy s
  else if priv && decide (2 ≤ others.length) then refuse stPrivLimit s
  else (stOk, s.modCtx n fun c => { c with priv := priv })

/-- QUARANTINE (R473). -/
def quarantineOrder (station : StationId) (core : Nat) (s : State) : Wrote :=
  match coreId? core with
  | none => refuse stAddressFault s
  | some c =>
    if (s.core c).quarantined then refuse stCtxBusy s
    else (stOk, raiseRust { kind := ruOwnerQuarantine, core := some core, detail := [BitVec.ofNat 8 station.val] }
      (quarantineCore c caQuarantine s))

/-! ### Host windows and artefacts (R543, R433) -/

/-- Is a context one whose windows may be replaced (R543)? -/
def windowsFree (s : State) (n : CtxId) : Bool := (s.ctx n).state == 0 || (s.ctx n).state == 1

/-- Do ranges cover the bytes from an address to an end, one range after another? The number bounds the ranges that it takes. -/
def rangesCover (rs : List (Nat × Nat)) : Nat → Nat → Nat → Bool
  | 0, _, _ => false
  | f + 1, a, e =>
    match rs.find? fun r => decide (r.1 ≤ a) && decide (a < r.1 + r.2) with
    | some r => decide (e ≤ r.1 + r.2) || rangesCover rs f (r.1 + r.2) e
    | none => false

/-- WINDOW (R543): a range of the context becomes a host window; the reply carries its remote key. A number has the 22 bits of a
reference (R234), and that of a window with DIR 1 the 20 bits that PUBLISHED reports (R549; log entry 12). -/
def windowOrder (win : Nat) (n : CtxId) (base len : Nat) (dir : Bool) (pubCtr : Nat) (s : State) : Answer :=
  let base := localBase s base
  let bad := 2 ^ (if dir then 20 else 22) ≤ win || 2 ^ 20 ≤ pubCtr || base % granule != 0 || len % granule != 0 || len == 0
  let inside := rangesCover (s.ctx n).ranges (s.ctx n).ranges.length base (base + len)
  let busy := match anyWin s win with
    | some w => !windowsFree s w.ctx || !windowsFree s n
    | none => false
  if bad then (stBadMessage, [], s)
  else if !inside then (stDescBounds, [], s)
  else if busy then (stCtxBusy, [], s)
  else
    let key := Config.remoteKey s.free
    let w : HostWin := { win, ctx := n, base, len, dir, pubCtr := if dir then pubCtr else 0, rkey := key }
    (stOk, [key], { s with free := s.free + 1, host := { s.host with
      windows := (s.host.windows.filter fun x => x.win != win) ++ [w] } })

/-- The parts of a manifest of so many shards in a window (R432): header, publisher key, entries, signature, and the digest
of parts 1 to 3; none when its form is not that of R432. -/
def manifestParts (s : State) (w : HostWin) (nshard : Nat) : Option (List Word × List Byte × List (List Word) × List Byte × List Byte) :=
  let h := bytesToWords (s.readB w.base 64)
  let sig := fld (wd h 2) 15 0
  let body := 64 + 1856 + 64 * nshard
  let headOk := fld (wd h 0) 63 48 == 1 && fld (wd h 0) 47 32 == 0 && fld (wd h 0) 31 0 == nshard && nshard != 0 &&
    decide (nshard ≤ 65536) && decide (1 ≤ sig) && decide (sig ≤ 1280) && fld (wd h 2) 63 16 == 0 && (h.drop 3).all (· == 0)
  if !headOk || w.len < body + sig then none
  else
    let es := (chunks 64 (s.readB (w.base + 1920) (64 * nshard))).map bytesToWords
    some (h, s.readB (w.base + 64) 1793, es, s.readB (w.base + body) sig, shake256 32 (s.readB w.base body))

/-- Does a shard image match its manifest entry (R433): LENGTH, VERSION and DIGEST? -/
def shardMatches (s : State) (version : Word) (e : List Word) (w : HostWin) : Bool :=
  let h := shardHdr s w.base
  let len := hdrLength h
  let entOk := fld (wd e 0) 43 0 == 0 && fld (wd e 1) 23 0 == 0 && wd e 6 == 0 && wd e 7 == 0
  entOk && fld (wd e 1) 63 24 == len && decide (128 + len ≤ w.len) && wd h 0 == version &&
    (let d := payloadDigest (shardPayload s (w.base) len)
     d == (e.drop 2).take 4 && d == hdrDigest h)

/-- Does an artefact pass the admission (R433)? Its manifest digest and VERSION. -/
def artefactOk (s : State) (n : CtxId) (manifest : Nat) (shards : List Nat) : Option (List Word × Word) :=
  match hostWin s n manifest, shards.mapM (hostWin s n) with
  | some m, some ws =>
    match manifestParts s m shards.length with
    | some (h, key, es, sig, dig) =>
      if s.boot.cfg.publishers.contains (bytesToWords (shake256 32 key)) && Config.falconVerify key dig sig &&
          (es.zip ws).all (fun (x : List Word × HostWin) => shardMatches s (wd h 1) x.1 x.2) then
        some (bytesToWords dig, wd h 1)
      else none
    | none => none
  | _, _ => none

/-- ADMIT (R433): the windows hold an artefact from now on, admitted or not. Sepia records an admitted one. -/
def admitOrder (n : CtxId) (manifest : Nat) (shards : List Nat) (s : State) : Wrote :=
  let mark (good : Bool) (s : State) : State := { s with host := { s.host with windows := s.host.windows.map fun w =>
    if w.ctx == n && (w.win == manifest || shards.contains w.win) then { w with artefact := true, admitted := good } else w } }
  match artefactOk s n manifest shards with
  | some a =>
    let s := mark true s
    (stOk, s.modCtx n fun c => match c.record with
      | some r => { c with record := some { r with artefacts := r.artefacts ++ [a] } }
      | none => { c with w := { c.w with artefacts := c.w.artefacts ++ [a] } })
  | none => (stArtefactBad, mark false s)

/-! ### Results and the journal (R545, R546) -/

/-- PUB_READ (R545): READY_SEQ and the bytes of a published window. -/
def pubReadEffect (win offset len readySeq : Nat) (s : State) : Answer :=
  match anyWin s win with
  | some w =>
    if 8136 < len then (stBadMessage, [], s)
    else if w.state != 2 || (readySeq != 0 && readySeq != w.readySeq) then (stNotReady, [], s)
    else if w.len < offset + len then (stBadMessage, [], s)
    else (stOk, BitVec.ofNat 64 w.readySeq :: bytesToWords (s.readB (w.base + offset) len), s)
  | none => if 8136 < len then (stBadMessage, [], s) else (stNotReady, [], s)

/-- PUB_RELEASE (R544, R545). -/
def pubRelease (win readySeq : Nat) (s : State) : Wrote :=
  match anyWin s win with
  | some w =>
    if !w.dir then refuse stBadMessage s
    else if w.state != 2 || readySeq != w.readySeq then refuse stStaleSeq s
    else (stOk, { s with host := { s.host with
      windows := modFirst (fun x => x.win == win) (fun x => { x with state := 0 }) s.host.windows } })
  | none => refuse stBadMessage s

/-- JOURNAL_READ (R451, R546): bytes between FLOOR and HEAD. -/
def journalEffect (offset len : Nat) (s : State) : Answer :=
  match s.sep.base with
  | none => (stNotReady, [], s)
  | some base =>
    if 8144 < len then (stBadMessage, [], s)
    else if offset < s.sep.floor.toNat || s.sep.head.toNat < offset + len then (stNotReady, [], s)
    else (stOk, bytesToWords (ringGet s base (ringSize s) offset len), s)

/-- RUST_READ (R494): the record of a sequence number. -/
def rustEffect (seq : Nat) (s : State) : Answer :=
  match s.rust.store.find? fun r => r.seq == seq with
  | some r => (stOk, bytesToWords (padMul 8 r.cbor), s)
  | none => (stNotReady, [], s)

/-- QUERY (R50, R228, R325, R340): the figures of R50 in the order of its table (a scratchpad's bytes, banks, bank bytes and width; a
staging memory's bytes, banks and bank bytes; a pool's bytes; threads, table, tile rows and columns, queue, channels, contexts and
privileged ones, slots for data of all, spare slots, payload), then the usable banks of the cores, the regions and the dies, the
populated bytes of HBM and DDR5 without the withheld granules, the number of those, and the ring's bytes. -/
def queryEffect (s : State) : Answer :=
  let n (k : Nat) : Word := BitVec.ofNat 64 k
  let usable (l : List BankOwn) : Nat := (l.filter fun o => !o.disabled).length
  let spad := allCoreIds.map fun c => n (usable (s.core c).own.toList)
  let stg := s.dies.toList.flatMap fun d => d.stg.toList.map fun (v : Vector BankOwn 48) => n (usable v.toList)
  let pool := s.dies.toList.map fun d => n (usable d.pool.toList)
  let left (base len : Nat) : Word :=
    n (len - (s.scrub.withheld.filter fun g => decide (base ≤ g * granule) && decide (g * granule < base + len)).length * granule)
  let hbm := [left 0 (if s.dies[0].hbmOk then hbmHalf else 0), left hbmHalf (if s.dies[1].hbmOk then hbmHalf else 0)]
  let ring := if s.sep.base.isSome then ringSize s else 0
  (stOk, [n 0x1C00000, n 56, n 0x80000, n 64, n 0x1800000, n 48, n 0x80000, n 0x4000000, n 48, n 16384, n 128, n 128, n 8, n 16,
      n 8, n 2, n 3968, n 4096, n 128, n 608]
    ++ spad ++ stg ++ pool ++ hbm ++ [left ddrBase (ddrBytes s), n s.scrub.withheld.length, n ring], s)

/-! ### Waking (R519 to R521) -/

/-- WAKE (R519): wake cells leave on every port in the next frame. A device in Black has no fabric. -/
def wakeOrder (target : Nat) (all : Bool) (s : State) : Wrote :=
  if 2 ^ 15 ≤ target then refuse stBadMessage s
  else if s.pwr.now = 3 then (stOk, s)
  else (stOk, { s with pwr := { s.pwr with wakeSend := some (target, all, frameNow s + 1) } })

/-- LOCAL_WAKE (R521): back to Bright with CAUSE 2. From Black it raises RAILS_EN and the boot follows; after a sequence-fault
stop this needs CLEAR_SEQ, and a retry that R583 has scheduled keeps its second. -/
def localWake (clearSeq : Bool) (s : State) : Wrote :=
  let stop := seqStopped s
  let s := if clearSeq then { s with sup := { s.sup with
    faults := 0, faultAt := if stop then none else s.sup.faultAt } } else s
  if s.pwr.now != 3 && !stop then (stOk, wakeBy 2 s)
  else if 760 < s.pwr.tjMax.toInt then (stThermal, s)
  else if !s.sup.powerFailN || !s.sup.coolantN then (stPowerState, s)
  else if s.pwr.ramp.isSome || (stop && !clearSeq) then (stOk, s)
  else
    let now := s.sup.faultAt.isNone
    (stOk, { s with
      sup := { s.sup with railsEn := s.sup.railsEn || now, sequencing := s.sup.sequencing || now }
      pwr := { s.pwr with busy := true, wakeCause := 2, wakeBright := true } })

/-! ### Identity (R568, R569) -/

/-- A context of an attestation report. -/
def attestCtx (s : State) (n : CtxId) : List Byte :=
  let c := s.ctx n
  let dig (f : Job → List Word) : Option (List Byte) :=
    if c.state = 0 then none else c.job.map fun j => cborBytes (wordsToBytes (f j))
  cborMap [(1, some (cborUint n.val)), (2, some (cborUint c.state.toNat)), (3, some (cborUint (regGet s (.ctxMode n)).toNat)),
    (4, dig (·.progDig)), (5, dig (·.placedDig))]

/-- The public key of a certificate of the chain (R568), of 1,793 bytes. -/
def certKey (i : Fin 3) : List Byte := (List.range 1793).map (Config.certKeyByte i)

/-- The bytes of "device", "ca" and "root", and of the device's type. -/
def certRole (i : Fin 3) : List Byte :=
  match i.val with
  | 0 => [0x64, 0x65, 0x76, 0x69, 0x63, 0x65]
  | 1 => [0x63, 0x61]
  | _ => [0x72, 0x6F, 0x6F, 0x74]

def certType : List Byte := [0x47, 0x57, 0x39, 0x2D, 0x31, 0x32, 0x48, 0x37, 0x32, 0x2D, 0x41, 0x31]

/-- The body of a certificate (R568): revision 1, the key it certifies, the digest of its issuer's key, its serial number, its role, and
on the device's own the type. The root is its own issuer. -/
def certBody (i : Fin 3) : List Byte :=
  let issuer : Fin 3 := ⟨min (i.val + 1) 2, by omega⟩
  cborMap [(1, some (cborUint 1)), (2, some (cborBytes (certKey i))), (3, some (cborBytes (shake256 32 (certKey issuer)))),
    (4, some (cborUint (Config.certSerial i).toNat)), (5, some (cborText (certRole i))),
    (6, if i.val = 0 then some (cborText certType) else none)]

/-- The signature of a certificate by its issuer, of 1 to 1,280 bytes. -/
def certSig (i : Fin 3) : List Byte := (List.range ((Config.certSigLen i).val + 1)).map (Config.certSigByte i)

/-- The certificate chain (R568), the device's certificate first. -/
def certChain : List Byte :=
  cborArray ((List.finRange 3).map fun i => cborArray [cborBytes (certBody i), cborBytes (certSig i)])

/-- ATTEST (R569): the signed report over a nonce. -/
def attestEffect (nonce : List Byte) (s : State) : Answer :=
  if nonce.length != 32 then (stBadMessage, [], s)
  else
    let meas (at_ : Nat) : List Byte := cborBytes (wordsToBytes ((List.range 4).map fun i => s.boot.meas.toList.getD (at_ + i) 0))
    let body := cborMap [
      (1, some (cborUint 1)), (2, some (cborBytes nonce)), (3, some (cborBytes (wordsToBytes (s.boot.fuses.ident.take 4)))),
      (4, some (cborUint s.boot.count.toNat)), (5, some (cborUint (nsNow s))),
      (6, if s.boot.phase = 7 then none else some (cborUint (devNum s))),
      (7, some (meas 0)), (8, some (meas 4)), (9, some (meas 8)), (10, some (cborUint s.boot.fail.toNat)),
      (11, some (cborArray (allCtxIds.map (attestCtx s))))]
    let report := cborArray [cborBytes body, cborBytes (signature (shake256 32 body))]
    (stOk, bytesToWords (padMul 8 report), s)

/-! ### The owner's orders (R534 to R539) -/

/-- The message type of an order (R540, R566). -/
def orderType : Order → Nat
  | .renew => 0x03
  | .handover _ => 0x04
  | .releaseOwn => 0x05
  | .regWrite _ _ => 0x11
  | .load _ _ _ _ => 0x20
  | .transitLoad _ _ => 0x21
  | .start _ _ _ _ => 0x22
  | .halt _ => 0x23
  | .resume _ => 0x24
  | .unload _ _ _ => 0x25
  | .replay _ => 0x26
  | .assign _ _ => 0x27
  | .privilege _ _ => 0x28
  | .quarantine _ => 0x29
  | .window _ _ _ _ _ _ => 0x30
  | .admitSet _ _ _ => 0x31
  | .restore _ _ _ => 0x32
  | .pubRelease _ _ => 0x41
  | .ckptRead _ _ _ => 0x43
  | .wake _ _ => 0x50
  | .eventAck _ => 0x51
  | .localWake _ => 0x52
  | .progBegin => 0x60
  | .progWrite _ _ => 0x61
  | .progEnd => 0x62
  | .reboot => 0x63

/-- Is an order served in Grey and Black (R552, R565, R566)? -/
def orderDark : Order → Bool
  | .renew => true
  | .handover _ => true
  | .releaseOwn => true
  | .regWrite a _ => darkReg a.toNat
  | .wake _ _ => true
  | .localWake _ => true
  | .progBegin => true
  | .progWrite _ _ => true
  | .progEnd => true
  | .reboot => true
  | _ => false

/-- An answer without a body. -/
def plain (w : Wrote) : Answer := (w.1, [], w.2)

/-- EVENT_ACK (R547): it covers every event with an equal or lower sequence number. Where it makes room after an overflow, the owner's
EVENTS_DROPPED event says how many were dropped (R549, R550; log entry 16). -/
def ackEvents (seq : Nat) (s : State) : State :=
  let s := { s with host := { s.host with events := s.host.events.filter fun e => decide (seq < e.seq) } }
  if s.host.lost = 0 || 4096 ≤ s.host.events.length then s
  else raiseEvent evEventsDropped none [put s.host.lost 0] { s with host := { s.host with lost := 0 } }

/-- What an owner's order does once it is accepted. -/
def orderEffect (h : Hdr) (o : Order) (s : State) : Answer :=
  match o with
  | .renew => (stOk, [], s)
  | .handover t =>
    if hb : t < 16 then
      if (sessionOf s ⟨t, hb⟩).isSome then (stOk, [], changeOwner (some ⟨t, hb⟩) 1 s) else (stBadMessage, [], s)
    else (stBadMessage, [], s)
  | .releaseOwn => (stOk, [], changeOwner none 2 s)
  | .regWrite a v => plain (writeEffect a.toNat v s)
  | .load n win seed first => plain (loadJob n win seed first s)
  | .transitLoad n win => plain (transitLoad n win s)
  | .start n epoch restore gen => plain (startJob n epoch restore gen s)
  | .halt n => plain (haltOrder n s)
  | .resume n => plain (resumeOrder n s)
  | .unload n e0 e1 => plain (unloadOrder n e0 e1 s)
  | .replay n => plain (replayOrder n s)
  | .assign n rs => plain (assignOrder n rs s)
  | .privilege n p => plain (privilegeOrder n p s)
  | .quarantine c => plain (quarantineOrder h.station c s)
  | .window win n base len dir pub => windowOrder win n base len dir pub s
  | .admitSet n m ws => plain (admitOrder n m ws s)
  | .restore n shard win => plain (restoreShard n shard win s)
  | .pubRelease win seq => plain (pubRelease win seq s)
  | .ckptRead n shard win => plain (ckptRead n shard win s)
  | .wake t all => plain (wakeOrder t all s)
  | .eventAck seq => (stOk, [], ackEvents seq s)
  | .localWake clear => plain (localWake clear s)
  | .progBegin => plain (progBegin s)
  | .progWrite off data =>
    if data.length < 64 || 8128 < data.length || data.length % 8 != 0 then (stBadMessage, [], s)
    else plain (progWrite off data s)
  | .progEnd => plain (progEnd s)
  | .reboot => plain (rebootOrder s)

/-- The reply that the target of a handover also receives (R535). -/
def replyTarget (h : Hdr) (o : Order) (status : Nat) (s : State) : State :=
  match o with
  | .handover t =>
    if hb : t < 16 then
      if status = stOk && h.station.val != t then
        let via := match sessionOf s ⟨t, hb⟩ with | some x => eventVia s x | none => h.via
        reply { station := ⟨t, hb⟩, seq := h.seq, via := via } 0x04 status [] s
      else s
    else s
  | _ => s

/-- Apply an order marked "owner" that arrived at an instant (R527, R534, R536 to R538, R552): discarded without a session; answered again when it was applied
before; refused when its sender is not the owner, its SEQ is not new, or the power state does not serve it; otherwise it has
its effect and its reply is kept. -/
def applyAt (arrival : Nat) (h : Hdr) (o : Order) (s : State) : State :=
  if !hears s h.via then s
  else match sessionOf s h.station with
  | none => discard s
  | some x =>
    match keptReply x h with
    | some ws => resendReply h.via x ws (extendLease h.station arrival s)
    | none =>
      if s.host.owner != some h.station then reply h (orderType o) stNotOwner [] s
      else if h.seq ≤ x.high then reply h (orderType o) stStaleSeq [] s
      else
        let r := stateRefusal s (orderDark o)
        if r != 0 then reply h (orderType o) r [] s
        else
          let a := withLease h.station arrival (orderEffect h o) (modSession h.station (fun x => { x with high := h.seq }) s)
          replyTarget h o a.1 (replyKept h (orderType o) a.1 a.2.1 a.2.2)

/-- Apply an order marked "owner" that has just arrived. -/
def applyOwner (h : Hdr) (o : Order) (s : State) : State := applyAt (nsNow s) h o s

/-- A register write by order or by the Renine controller. -/
def applyWrite (a : Access) (addr : Nat) (v : Word) (s : State) : State :=
  match a with
  | .order h => applyOwner h (.regWrite (BitVec.ofNat 64 addr) v) s
  | .renine => (writeReg .renine addr v s).2

/-! ### The end of a message time (R537, R539) -/

/-- The owner's order with the lowest SEQ. -/
def nextOrder (s : State) (l : List OrderMsg) : Option OrderMsg :=
  argMin (fun (a b : OrderMsg) => decide (a.h.seq < b.h.seq)) (l.filter fun x => s.host.owner == some x.h.station)

/-- Apply an order of the message time that began at `t0`. -/
def applyMsg (t0 : Nat) (x : OrderMsg) (s : State) : State := applyAt (t0 + x.at_) x.h x.o s

/-- Apply the orders of a message time: the owner's in ascending SEQ. After a change of owner, the orders that remain are
judged against the new one, and the others are refused. The first argument bounds the orders. -/
def applyOrders : Nat → Nat → List OrderMsg → State → State
  | 0, _, _, s => s
  | f + 1, t0, l, s =>
    match nextOrder s l with
    | none => l.foldl (fun s x => applyMsg t0 x s) s
    | some x =>
      let s' := applyMsg t0 x s
      let rest := dropFirst (fun y => y == x) l
      if s'.host.owner = s.host.owner then applyOrders f t0 rest s'
      else
        let stay := rest.filter fun y => s'.host.owner == some y.h.station
        let gone := rest.filter fun y => s'.host.owner != some y.h.station
        applyOrders f t0 stay (gone.foldl (fun s y => applyMsg t0 y s) s')

/-- MESSAGE_TIME_END (R534 to R539): the 100 µs interval ends, its owner orders apply, then its claims in arrival order. -/
def execMessageTimeEnd (orders : List OrderMsg) (claims : List ClaimMsg) (s : State) : Host.Outcome State Fault Refusal :=
  let t0 := nsNow s / 100000 * 100000
  let s := advanceTo (t0 + 100000) s
  ok (claims.foldl (fun s c => applyClaim (t0 + c.at_) c.h c.prio s) (applyOrders (orders.length + 1) t0 orders s))

/-! ### The rows of the owner's orders -/

/-- RENEW (R534). -/
def execRenew (h : Hdr) (s : State) : Host.Outcome State Fault Refusal := ok (applyOwner h .renew s)

/-- HANDOVER (R535). -/
def execHandover (h : Hdr) (target : Nat) (s : State) : Host.Outcome State Fault Refusal := ok (applyOwner h (.handover target) s)

/-- RELEASE_OWN (R535). -/
def execReleaseOwn (h : Hdr) (s : State) : Host.Outcome State Fault Refusal := ok (applyOwner h .releaseOwn s)

/-- LOAD (R252 step 1, R541). -/
def execLoad (h : Hdr) (n : CtxId) (win seed first : Nat) (s : State) : Host.Outcome State Fault Refusal :=
  ok (applyOwner h (.load n win seed first) s)

/-- TRANSIT_LOAD (R394). -/
def execTransitLoad (h : Hdr) (n : CtxId) (win : Nat) (s : State) : Host.Outcome State Fault Refusal :=
  ok (applyOwner h (.transitLoad n win) s)

/-- START (R252 step 2, R542). -/
def execStart (h : Hdr) (n : CtxId) (epoch : Nat) (restore : Bool) (gen : BitVec 32) (s : State) : Host.Outcome State Fault Refusal :=
  ok (applyOwner h (.start n epoch restore gen) s)

/-- HALT (R253, R254). -/
def execHalt (h : Hdr) (n : CtxId) (s : State) : Host.Outcome State Fault Refusal := ok (applyOwner h (.halt n) s)

/-- RESUME (R253, R254). -/
def execResume (h : Hdr) (n : CtxId) (s : State) : Host.Outcome State Fault Refusal := ok (applyOwner h (.resume n) s)

/-- UNLOAD (R253). -/
def execUnload (h : Hdr) (n : CtxId) (err0 err1 : BitVec 256) (s : State) : Host.Outcome State Fault Refusal :=
  ok (applyOwner h (.unload n err0 err1) s)

/-- REPLAY (R255). -/
def execReplay (h : Hdr) (n : CtxId) (s : State) : Host.Outcome State Fault Refusal := ok (applyOwner h (.replay n) s)

/-- ASSIGN (R600). -/
def execAssign (h : Hdr) (n : CtxId) (ranges : List (Nat × Nat)) (s : State) : Host.Outcome State Fault Refusal :=
  ok (applyOwner h (.assign n ranges) s)

/-- PRIVILEGE (R39). -/
def execPrivilege (h : Hdr) (n : CtxId) (priv : Bool) (s : State) : Host.Outcome State Fault Refusal :=
  ok (applyOwner h (.privilege n priv) s)

/-- QUARANTINE (R473). -/
def execQuarantine (h : Hdr) (core : Nat) (s : State) : Host.Outcome State Fault Refusal := ok (applyOwner h (.quarantine core) s)

/-- WINDOW (R543). -/
def execWindow (h : Hdr) (win : Nat) (n : CtxId) (base len : Nat) (dir : Bool) (pubCtr : Nat) (s : State) :
    Host.Outcome State Fault Refusal := ok (applyOwner h (.window win n base len dir pubCtr) s)

/-- ADMIT (R433). -/
def execAdmit (h : Hdr) (n : CtxId) (manifest : Nat) (shards : List Nat) (s : State) : Host.Outcome State Fault Refusal :=
  ok (applyOwner h (.admitSet n manifest shards) s)

/-- RESTORE (R542). -/
def execRestore (h : Hdr) (n : CtxId) (shard win : Nat) (s : State) : Host.Outcome State Fault Refusal :=
  ok (applyOwner h (.restore n shard win) s)

/-- PUB_RELEASE (R545). -/
def execPubRelease (h : Hdr) (win readySeq : Nat) (s : State) : Host.Outcome State Fault Refusal :=
  ok (applyOwner h (.pubRelease win readySeq) s)

/-- CKPT_READ (R542, R552). -/
def execCkptRead (h : Hdr) (n : CtxId) (shard win : Nat) (s : State) : Host.Outcome State Fault Refusal :=
  ok (applyOwner h (.ckptRead n shard win) s)

/-- WAKE (R519). -/
def execWake (h : Hdr) (target : Nat) (all : Bool) (s : State) : Host.Outcome State Fault Refusal :=
  ok (applyOwner h (.wake target all) s)

/-- EVENT_ACK (R547). -/
def execEventAck (h : Hdr) (seq : Nat) (s : State) : Host.Outcome State Fault Refusal := ok (applyOwner h (.eventAck seq) s)

/-- LOCAL_WAKE (R521). -/
def execLocalWake (h : Hdr) (clearSeq : Bool) (s : State) : Host.Outcome State Fault Refusal :=
  ok (applyOwner h (.localWake clearSeq) s)

/-- PROG_BEGIN (R566). -/
def execProgBegin (h : Hdr) (s : State) : Host.Outcome State Fault Refusal := ok (applyOwner h .progBegin s)

/-- PROG_WRITE (R566). -/
def execProgWrite (h : Hdr) (offset : Nat) (data : List Byte) (s : State) : Host.Outcome State Fault Refusal :=
  ok (applyOwner h (.progWrite offset data) s)

/-- PROG_END (R566). -/
def execProgEnd (h : Hdr) (s : State) : Host.Outcome State Fault Refusal := ok (applyOwner h .progEnd s)

/-- REBOOT (R566). -/
def execReboot (h : Hdr) (s : State) : Host.Outcome State Fault Refusal := ok (applyOwner h .reboot s)

/-! ### The rows marked "any" -/

/-- REG_READ (R35). -/
def execRegRead (h : Hdr) (addr : Word) (s : State) : Host.Outcome State Fault Refusal :=
  ok (serveAny h 0x10 true (readEffect addr.toNat) s)

/-- IND_NOW_NS (R349): a REG_READ of it latches IND_NOW_POS and IND_EPOCH. -/
def execIndNowNs (h : Hdr) (s : State) : Host.Outcome State Fault Refusal :=
  ok (serveAny h 0x10 true (readEffect (regAddr .indNs)) s)

/-- QUERY (R540). -/
def execQuery (h : Hdr) (s : State) : Host.Outcome State Fault Refusal := ok (serveAny h 0x12 true queryEffect s)

/-- PUB_READ (R545). -/
def execPubRead (h : Hdr) (win offset len readySeq : Nat) (s : State) : Host.Outcome State Fault Refusal :=
  ok (serveAny h 0x40 false (pubReadEffect win offset len readySeq) s)

/-- JOURNAL_READ (R546). -/
def execJournalRead (h : Hdr) (offset len : Nat) (s : State) : Host.Outcome State Fault Refusal :=
  ok (serveAny h 0x42 false (journalEffect offset len) s)

/-- RUST_READ (R494). -/
def execRustRead (h : Hdr) (seq : Nat) (s : State) : Host.Outcome State Fault Refusal :=
  ok (serveAny h 0x44 true (rustEffect seq) s)

/-- ATTEST (R569): in Black it is served only after a bad image (R565). -/
def execAttest (h : Hdr) (nonce : List Byte) (s : State) : Host.Outcome State Fault Refusal :=
  ok (serveAny h 0x64 (s.boot.phase == 7) (attestEffect nonce) s)

/-- CERT_READ (R568): in Black it is served only after a bad image (R565). -/
def execCertRead (h : Hdr) (s : State) : Host.Outcome State Fault Refusal :=
  ok (serveAny h 0x65 (s.boot.phase == 7) (fun s => (stOk, bytesToWords (padMul 8 certChain), s)) s)

/-! ### The rows of single registers -/

/-- The FORCE register of the bank whose OWN register this is (R212). -/
def forceOf : Reg → Option Reg
  | .bankOwn c b => some (.bankForce c b)
  | .stgOwn d g b => some (.stgForce d g b)
  | .poolOwn d b => some (.poolForce d b)
  | _ => none

/-- A FORCE write of the Renine controller that arrives in the cycle of an OWN write is applied first (R217). -/
def forceFirst (addr : Nat) (force : Option Word) (s : State) : State :=
  match force, (regAt addr).bind forceOf with
  | some f, some r => applyWrite .renine (regAddr r) f s
  | _, _ => s

/-- REG_WRITE (R35, R217, R590): `force` is the value of a FORCE write that arrives in the same cycle as the write of a bank's OWN
register. -/
def execRegWrite (a : Access) (addr value : Word) (force : Option Word) (s : State) : Host.Outcome State Fault Refusal :=
  ok (applyWrite a addr.toNat value (forceFirst addr.toNat force s))

/-- MGT_CTX_MODE (R38, R39). -/
def execMgtCtxMode (a : Access) (n : CtxId) (value : Word) (s : State) : Host.Outcome State Fault Refusal :=
  ok (applyWrite a (regAddr (.ctxMode n)) value s)

/-- ME_SPLIT (R94). -/
def execMeSplit (a : Access) (core : CoreId) (value : Word) (s : State) : Host.Outcome State Fault Refusal :=
  ok (applyWrite a (regAddr (.meSplit core)) value s)

/-- ME_DBG_CTRL (R126). -/
def execMeDbgCtrl (a : Access) (core : CoreId) (value : Word) (s : State) : Host.Outcome State Fault Refusal :=
  ok (applyWrite a (regAddr (.dbgCtrl core)) value s)

/-- EE_SPLIT (R135). -/
def execEeSplit (a : Access) (core : CoreId) (value : Word) (s : State) : Host.Outcome State Fault Refusal :=
  ok (applyWrite a (regAddr (.eeSplit core)) value s)

/-- CORE_BANK_OWN (R213, R215, R217). A FORCE write of the Renine controller that arrives in the same cycle is applied first. -/
def execCoreBankOwn (a : Access) (core : CoreId) (bank : Fin 56) (force : Option Word) (value : Word) (s : State) :
    Host.Outcome State Fault Refusal :=
  let s := match force with
    | some f => applyWrite .renine (regAddr (.bankForce core bank)) f s
    | none => s
  ok (applyWrite a (regAddr (.bankOwn core bank)) value s)

/-- CORE_BANK_FORCE (R212, R214). -/
def execCoreBankForce (a : Access) (core : CoreId) (bank : Fin 56) (value : Word) (s : State) : Host.Outcome State Fault Refusal :=
  ok (applyWrite a (regAddr (.bankForce core bank)) value s)

/-- CORE_BANK_REPAIR (R226). -/
def execCoreBankRepair (a : Access) (core : CoreId) (bank : Fin 56) (value : Word) (s : State) : Host.Outcome State Fault Refusal :=
  ok (applyWrite a (regAddr (.bankRepair core bank)) value s)

/-- DMA_CHAN (R230). -/
def execDmaChan (a : Access) (core : CoreId) (ch : Fin 16) (value : Word) (s : State) : Host.Outcome State Fault Refusal :=
  ok (applyWrite a (regAddr (.dmaChan core ch)) value s)

/-- DMA_ABORT (R250). -/
def execDmaAbort (a : Access) (core : CoreId) (value : Word) (s : State) : Host.Outcome State Fault Refusal :=
  ok (applyWrite a (regAddr (.dmaAbort core)) value s)

/-- CORE_IPAT (R274). -/
def execCoreIpat (a : Access) (core : CoreId) (e : Fin 4) (half : Fin 2) (value : Word) (s : State) :
    Host.Outcome State Fault Refusal := ok (applyWrite a (regAddr (.ipat core e half)) value s)

/-- DSPT_CTX_LIM (R277). -/
def execDsptCtxLim (a : Access) (die : DieId) (n : CtxId) (value : Word) (s : State) : Host.Outcome State Fault Refusal :=
  ok (applyWrite a (regAddr (.ctxLim die n)) value s)

/-- DSPT_DL (R279). -/
def execDsptDl (a : Access) (die : DieId) (n : CtxId) (value : Word) (s : State) : Host.Outcome State Fault Refusal :=
  ok (applyWrite a (regAddr (.dl die n)) value s)

/-- IND_ALARM (R379). -/
def execIndAlarm (a : Access) (value : Word) (s : State) : Host.Outcome State Fault Refusal :=
  ok (applyWrite a (regAddr .alarm) value s)

/-- PWR_VF (R502, R503). -/
def execPwrVf (a : Access) (value : Word) (s : State) : Host.Outcome State Fault Refusal :=
  ok (applyWrite a (regAddr .pwrVf) value s)

/-- PWR_LIMIT (R505). -/
def execPwrLimit (a : Access) (value : Word) (s : State) : Host.Outcome State Fault Refusal :=
  ok (applyWrite a (regAddr .pwrLimit) value s)

/-- PWR_STATE (R515). -/
def execPwrState (a : Access) (value : Word) (s : State) : Host.Outcome State Fault Refusal :=
  ok (applyWrite a (regAddr .pwrState) value s)

/-- SEP_FLOOR (R453). -/
def execSepFloor (a : Access) (value : Word) (s : State) : Host.Outcome State Fault Refusal :=
  ok (applyWrite a (regAddr .sepFloor) value s)

/-- RELEASE (R454, R456): a write of SEP_CTL. -/
def execRelease (a : Access) (n : CtxId) (value : Word) (s : State) : Host.Outcome State Fault Refusal :=
  ok (applyWrite a (regAddr (.sepCtl n)) value s)

/-- SHD_CTL (R461): a write of the fraction or of the seed. -/
def execShdCtl (a : Access) (die : DieId) (n : CtxId) (seed : Bool) (value : Word) (s : State) : Host.Outcome State Fault Refusal :=
  ok (applyWrite a (regAddr (if seed then .shdSeed die n else .shdCtl die n)) value s)

end Sys2Proof.Machine
end

