-- ==== Sys2Proof/Machine/Receive.lean ====
section
/-! DEFINITION. The fabric's receiving side: the checks of a cell (R380, R387, R403), the Indigo fields (R354, R356, R361, R368,
R373, R374), the marks (R390), fillers (R389, R401, R478, R519), and data cells in transit and at their last hop (R402 to R410). -/

namespace Sys2Proof.Machine

/-! ### Decoding and checking -/

/-- The 64-bit words of a cell, none where a word is uncorrectable (R327 to R330, R386). -/
def cellWords (ws : List (BitVec 80)) : Option (List Word) :=
  ((ws ++ List.replicate (80 - ws.length) (umberEncode [])).take 80).mapM fun w =>
    let d := umberDecode w
    if d.2.2 = .uncorrectable then none else some (BitVec.ofNat 64 (leNat d.1))

/-- A difference of timestamps in 0.5 ns, modulo 2^33, as a signed number. -/
def stampDiff (a b : Nat) : Int := sext 33 (a + 2 ^ 33 - b % 2 ^ 33)

/-- θ and D of a cell in 2^−16 ns (R354): arrival, header words, and the link's ASYM as this device sees it. -/
def thetaOf (arrival : Nat) (ws : List Word) (asym : Int) : Int × Int :=
  let t1 := fld (wd ws 1) 63 31
  let t2 := fld (wd ws 2) 63 31
  let t3 := fld (wd ws 0) 63 31
  let back := stampDiff arrival t3 * 32768
  let forth := stampDiff t2 t1 * 32768
  (Int.tdiv (back - forth + asym * 256) 2, Int.tdiv (stampDiff arrival t1 * 32768 - stampDiff t3 t2 * 32768) 2)

/-- Does a cell echo one of this device's cells: before the first echo both fields are 0. -/
def echoes (ws : List Word) : Bool := fld (wd ws 1) 63 31 != 0 || fld (wd ws 2) 63 31 != 0

/-- The link's ASYM in 2^−8 ns as this device sees it: forward leads away from DEV_A (R354, R392). -/
def asymOf (s : State) (p : PortId) : Int :=
  match linkEnt s.boot.cfg.map (devNum s) p.val with
  | some (l, a) => if a then l.asym else -l.asym
  | none => 0

/-- Does a cell bring time on its link: on a switched rail only the partner's filler of slot 4,095 does (R594). -/
def timedCell (s : State) (rx : RxCell) : Bool :=
  rx.partner && (!s.boot.cfg.map.switched || rx.txSlot == 4095)

/-- Are the header fields good (R380, R387)? -/
def headOk (s : State) (p : PortId) (rx : RxCell) (ws : List Word) : Bool :=
  let w0 := wd ws 0
  let w1 := wd ws 1
  let w2 := wd ws 2
  let kind := fld w0 1 0
  let str (lo : Nat) : Bool :=
    let n := fld w1 (lo + 9) (lo + 5)
    decide (n ≤ 16) && (n == 0 || fld w1 (lo + 4) lo != 0)
  let theta := (thetaOf rx.arrival.toNat ws (asymOf s p)).1
  kind ≤ 1 && fld w1 5 0 == 0 && (rx.txSlot == 0 || fld (wd ws 3) 0 0 == 0) && (bit w1 6 || fld w0 4 2 == 0) &&
  str 19 && str 7 && decide (fld w0 7 5 ≤ 4) && decide (fld w0 4 2 ≤ 4) &&
  (kind == 1 || fld w2 6 0 == 0) && decide (fld w2 4 1 ≤ 8) &&
  (s.boot.cfg.map.devs.any fun d => d.dev == fld w0 30 16) &&
  !(s.ind.state == 1 && timedCell s rx && echoes ws && decide (65536000 < theta.natAbs))

/-- The delay of a cell's path in 0.5 ns: the link's, as last measured in the frame or as nominal, or the rail delay for a cell that
does not come from the timing partner (R403, R594). -/
def pathDelay (s : State) (p : PortId) (rx : RxCell) : Nat :=
  let m := s.boot.cfg.map
  if !rx.partner then railDelay m p.val
  else match (s.port p).delays.getLast? with
    | some d => (d / 32768).toNat
    | none => ((linkAt m (devNum s) p.val).map fun (l : Nat × Nat × Nat) => l.2.2).getD 0

/-- The transmit frame and slot of a cell from its arrival less the delay of its path (R403): the slot whose start lies nearest.
A cell of a gap counts as one of slot 0; the frame before ends where this one's gap starts. -/
def sentPos (s : State) (p : PortId) (rx : RxCell) : Nat × Nat :=
  let sent : Int := (nsNow s * 2 : Nat) + stampDiff rx.arrival.toNat (nsNow s * 2 % 2 ^ 33) - (pathDelay s p rx : Nat)
  let off8 : Int := (sent - (s.ind.frameStart * 2 : Nat)) * 4
  let near (off slot : Int) : Int := Int.fdiv (2 * off + slot) (2 * slot)
  let k := near (off8 - (s.ind.gap * 8 : Nat)) (slot8 s)
  let b := near off8 s.ind.lastSlot8
  if b < 0 then (frameNow s - 1, (4096 + b).toNat) else (frameNow s, min k.toNat 4095)

/-- Owe a NAK for a cell (R403). -/
def oweNak (p : PortId) (rx : RxCell) (s : State) : State :=
  s.modPort p fun q => { q with naks := q.naks ++ [sentPos s p rx] }

/-! ### Indigo fields -/

/-- The frame of the next two whose number agrees with a TGT field (R368). -/
def targetFrame (s : State) (tgt : Nat) : Option FrameNo :=
  [frameNow s + 1, frameNow s + 2, frameNow s].find? fun g => g % 4 == tgt

/-- Merge one received stretch field (R368, R369): after its frame's freeze instant it changes nothing. -/
def takeStretch (field : Nat) (s : State) : State :=
  let n := field / 32 % 32
  match targetFrame s (field / 1024 % 4) with
  | some g =>
    if n = 0 || g ≤ frameNow s || (g = frameNow s + 1 && nextFreeze s < nsNow s) || s.ind.fixed.any fun x => x.frame == g then s
    else { s with ind := { s.ind with stretch := mergeStretch g n (field % 32) false s.ind.stretch } }
  | none => s

/-- Merge the cadence fields (R373, R374). -/
def takeCadence (w0 w1 : Word) (s : State) : State :=
  let i := s.ind
  let i : IndSt := { i with cadSeen := max i.cadSeen (fld w0 7 5) }
  let open_ := decide (65024 ≤ i.frame.toNat) && decide (i.frame.toNat < 65280)
  let v := fld w0 4 2
  { s with ind :=
      if bit w1 6 && open_ then { i with cadNext := if i.cadNext = 0xF then BitVec.ofNat 4 v else BitVec.ofNat 4 (max i.cadNext.toNat v) }
      else i }

/-- Follow the ROOT and ROOT_SEQ fields (R361, R362): the acting root with the lowest index that can be observed, on any port once
the present root is lost; a takeover announced from frame 65,024 is held until the boundary (log entry 49). A cell that still names a
root declared lost, with no advance of its ROOT_SEQ, shows no acting root. -/
def takeRoot (p : PortId) (w0 : Word) (s : State) : State :=
  let r := fld w0 30 16
  let mine := s.ind.root.toNat
  let lower := decide (rootRank s r < rootRank s mine)
  let ahead := lower && decide (65024 ≤ s.ind.frame.toNat) && s.ind.state != 0
  let fromParent := parentPort s == some p
  let lost := decide (4 ≤ s.ind.seqLost) && (rootIndex s r).isSome
  let seq := BitVec.ofNat 8 (fld w0 15 8)
  let stale := match s.ind.lostRoot with
    | some (d, q) => d == r && (seq == q || 128 ≤ (seq - q).toNat)
    | none => false
  let s := { s with ind := { s.ind with
    heardRoot := true
    lostRoot := if !stale && s.ind.lostRoot.any (fun (x : Nat × BitVec 8) => x.1 == r) then none else s.ind.lostRoot } }
  if stale then s
  else
  let s := if ahead then
      (let a := argMin (fun a b => decide (rootRank s a < rootRank s b)) (s.ind.announced.toList ++ [r])
       { s with ind := { s.ind with announced := a } })
    else if r != mine && (lower || (!s.ind.isRoot && (fromParent || lost || s.ind.state = 0))) then followRoot r s
    else s
  if (r = s.ind.root.toNat || s.ind.announced == some r) && !s.ind.isRoot && (fromParent || s.ind.state = 0) && seq != s.ind.rootSeq then
    { s with ind := { s.ind with rootSeq := seq, seqSeen := true } }
  else s

/-- The instant nearest to now that a 33-bit timestamp names, in ns. -/
def stampNs (s : State) (t : Nat) : Nat := ((nsNow s * 2 : Nat) + stampDiff t (nsNow s * 2 % 2 ^ 33)).toNat / 2

/-- In ACQUIRE a device steps its time by a timed cell's θ, of slot 0 or, on a switched rail, of slot 4,095, and copies EPOCH and
FRAME from a cell of slot 0 (R356, R388, R594). -/
def acquire (rx : RxCell) (ws : List Word) (theta : Int) (s : State) : State :=
  if s.ind.state != 0 || s.ind.isRoot || !rx.partner then s
  else
    let s := if timedCell s rx && echoes ws && (rx.txSlot = 0 || s.boot.cfg.map.switched) then
        let old := nsNow s
        let s := setTime ((s.ind.ns.toNat * 65536 + s.ind.frac.toNat : Nat) - theta).toNat s
        { s with ind := { s.ind with frameStart := s.ind.frameStart + nsNow s - old } }
      else s
    if rx.txSlot != 0 then s
    else
      let s := { s with ind := { s.ind with
        epoch := BitVec.ofNat 48 (fld (wd ws 3) 63 16), frame := BitVec.ofNat 16 (fld (wd ws 3) 15 0), gap := 0 } }
      { s with ind := { s.ind with frameStart := stampNs s (fld (wd ws 0) 63 31) } }

/-- Everything that a good header's Indigo fields do. -/
def takeIndigo (p : PortId) (rx : RxCell) (ws : List Word) (s : State) : State :=
  let td := thetaOf rx.arrival.toNat ws (asymOf s p)
  let timed := timedCell s rx && !(s.port p).miscabled
  let s := s.modPort p fun q => { q with
    lastTx := BitVec.ofNat 33 (fld (wd ws 0) 63 31), lastRx := rx.arrival
    thetas := if timed && echoes ws then q.thetas ++ [td.1] else q.thetas
    delays := if timed && echoes ws then q.delays ++ [td.2] else q.delays }
  let s := if (s.port p).miscabled then s else acquire rx ws td.1 s
  let s := takeStretch (fld (wd ws 1) 30 19) (takeStretch (fld (wd ws 1) 18 7) s)
  let s := takeCadence (wd ws 0) (wd ws 1) s
  if (s.port p).miscabled then s else takeRoot p (wd ws 0) s

/-! ### Marks (R390, R483) -/

/-- Does a resume mark first sent in frame f belong to an owner's replay: was the pending attempt condemned in the frame before,
with its instant at freeze(f) or freeze(f + 1) (R255, R483; log entry 48)? -/
def replayMark (v : AttemptSt) (f : FrameNo) : Bool :=
  match v.condemnAt with
  | some g => g == f || g == f + 1
  | none => v.started && !v.live && (v.first == some (f + 64) || v.first == some (f + 65))

/-- One context's marks of a cell that was sent in frame f. A HALT that a transit device sees stops its commit alike (R480). A CONDEMN
bit sent before the instant of the last condemnation belongs to that one (R483). A replay's cells bring CONDEMN with RESUME (R255). -/
def takeMarks (f : FrameNo) (ws : List Word) (s : State) (n : CtxId) : State :=
  let w2 := wd ws 2
  let c := s.ctx n
  let at_ := stampNs s (fld (wd ws 0) 63 31)
  let s := if bit w2 (23 + n.val) && c.state = 2 && c.v.resumeNs ≤ at_ then haltCtx n 3 true s
    else if bit w2 (23 + n.val) && c.job.isNone && c.v.commitAt.isSome then
      modV n (fun v => { v with haltAt := some (min (frozenFrame s) (v.haltAt.getD (frozenFrame s))) }) s
    else s
  let s := if bit w2 (7 + n.val) && inHall c && c.v.condemnAt.isNone && (attemptPending c || c.job.isNone) && decide (c.v.condNs < at_) then
      modV n (fun v => { v with condemnAt := some (frozenFrame s) }) s
    else s
  let v := (s.ctx n).v
  let replay := v.toReplay || ((c.state == 3 || c.state == 4) && replayMark v f)
  if bit w2 (15 + n.val) && inHall c && (v.resumeSend != some f || replay != v.toReplay) then
    modV n (fun v => { v with
      resumeSend := some f, resumeAt := if c.state == 3 || replay then some (f + 2) else v.resumeAt, toReplay := replay }) s
  else s

/-! ### Fillers -/

/-- A context's plan record of a filler (R54, R401). A device that only forwards compares alike, and sets HALT for the context in
its cells. -/
def takePlanDigest (rx : RxCell) (ws : List Word) (s : State) (n : CtxId) : State :=
  let c := s.ctx n
  let at_ (i : Nat) : Word := wd ws (4 + 5 * n.val + i)
  match planJob c with
  | none => s
  | some j =>
    if !bit (at_ 0) 63 || fld (at_ 0) 62 0 != fld (wd j.progDig 0) 62 0 || (c.job.isSome && !c.v.started) then s
    else
      let d := [at_ 1, at_ 2, at_ 3, at_ 4]
      let epoch := rx.txFrame / 65536
      let s := s.modCtx n fun c => { c with x := { c.x with rx := assocSet epoch d c.x.rx } }
      let starts := if c.job.isSome then epoch == c.v.startEpoch else c.v.first.isNone
      if d == c.x.planDig || epoch < c.v.startEpoch || assocGet epoch c.x.rx == some d then s
      else
        let s := if c.job.isSome then haltMark n s else modV n (fun v => { v with digestHalt := true }) s
        if starts then
          let s := if c.job.isSome then modV n (fun v => { v with started := false, first := none }) s else s
          raiseEvent evCtxFault (some n) [put flPlanDigest 56] s
        else raiseRust (ctxRust ruPlanDigestLate n s) s

/-- A device that only forwards learns the pending attempt with the first vote that names one: its load brings no step number (R477, log
entry 31). -/
def learnAttempt (key : Nat) (c : Ctx) : Ctx :=
  if c.job.isNone && c.transit.isSome && !c.v.started && key != noKey && key != 0 then
    { c with v := { c.v with t := key / 512, a := key / 2 % 256, started := true } }
  else c

/-- A context's vote words (R478, R479): UP of the port, and from the parent DOWN, which this device sends on. -/
def takeVote (p : PortId) (ws : List Word) (s : State) (n : CtxId) : State :=
  let at_ (i : Nat) : Word := wd ws (44 + 3 * n.val + i)
  let s := s.modPort p fun q => { q with up_ := upd q.up_ n fun _ => at_ 0 }
  let s := s.modCtx n (learnAttempt (at_ 0).toNat)
  if parentPort s != some p then s
  else
    let key := (at_ 1).toNat
    let cf := fld (at_ 2) 63 16 * 65536 + fld (at_ 2) 15 0
    let s := (modV n (fun v => { v with down := (key, cf) }) s).modCtx n (learnAttempt key)
    let c := s.ctx n
    if inHall c && c.v.started && key == attemptKey c.v.t c.v.a true && c.v.commitAt.isNone && c.v.condemnAt.isNone then
      modV n (fun v => { v with commitAt := some (key, cf) }) s
    else s

/-- A wake cell (R519, R520). -/
def takeWake (ws : List Word) (s : State) : State :=
  let w := wd ws 69
  if fld w 63 32 = 0x57414B45 && (bit w 16 || fld w 31 17 = devNum s) then wakeBy 3 s else s

/-- Everything that a filler carries. -/
def takeFiller (p : PortId) (rx : RxCell) (ws : List Word) (s : State) : State :=
  let s := s.modPort p fun q => { q with child := bit (wd ws 68) 63, peerState := BitVec.ofNat 2 (fld (wd ws 69) 15 14) }
  let s := if rx.txFrame % 65536 = 0 then allCtxIds.foldl (takePlanDigest rx ws) s else s
  takeWake ws (allCtxIds.foldl (takeVote p ws) s)

/-! ### Acknowledgements and NAKs (R403, R404) -/

/-- The first hop's acknowledgement has come: the write has arrived (R245); a transit device passes it upstream. -/
def ackCell (x : SentCell) (s : State) : State :=
  match x.origin with
  | some (q, f, k) => s.modPort (portOf q) fun r => { r with acks := r.acks ++ [(f, k)] }
  | none => s.modCtx (ctxOf x.ref.ctx) fun c =>
      if x.ref.step = c.v.t % 4 then { c with x := { c.x with acked := c.x.acked ++ [(x.ref.win, x.ref.cell)] } } else c

/-- Word 3 of a cell with a normal word 3. -/
def takeAcks (p : PortId) (w3 : Word) (s : State) : State :=
  let s := if !bit w3 31 then s
    else match (s.port p).sent.find? fun x => x.frame % 8 == fld w3 30 28 && x.slot == fld w3 27 16 with
      | some x => ackCell x (s.modPort p fun q => { q with sent := q.sent.filter fun y => !(y.frame == x.frame && y.slot == x.slot) })
      | none => s
  if !bit w3 15 then s
  else match (s.port p).sent.find? fun x => x.frame % 4 == fld w3 14 13 && x.slot == fld w3 12 1 &&
      decide (frameNow s * 4096 + (cellNow s - gapCells s) ≤ x.frame * 4096 + x.slot + 512) with
    | some x => s.modPort p fun q => { q with
        resend := q.resend ++ [(x.frame, x.slot)]
        sent := q.sent.map fun y => if y.frame == x.frame && y.slot == x.slot then { y with fails := y.fails + 1 } else y }
    | none => s

/-! ### Data cells -/

/-- The frame from which the plan of the pending step counts, also while the start of the step is stalled here (R394, R402, R452). -/
def AttemptSt.origin (v : AttemptSt) : FrameNo := if v.live then v.stepFrame else v.first.getD v.stepFrame

/-- The plan record of a received cell, with its context: the hop that ends at this port (R387, R388, R392, R398). Before a device in
transit knows the step's first frame, it takes that of step 0, frame 1 of the epoch (R394). -/
def recordOf (s : State) (p : PortId) (rx : RxCell) (ws : List Word) : Option (CtxId × PlanRec) :=
  let m := s.boot.cfg.map
  allCtxIds.findSome? fun n =>
    let c := s.ctx n
    let first := if c.job.isNone && c.v.first.isNone then rx.txFrame / 65536 * 65536 + 1 else c.v.origin
    let (pf, ps) : Nat × Nat := if rx.txSlot = 0 then (rx.txFrame - first, 0) else (fld (wd ws 3) 63 44, fld (wd ws 3) 43 32)
    (c.x.plan.find? fun r =>
      r.phi % 2 ^ 20 == pf % 2 ^ 20 && r.k == ps && !r.egress &&
      (if m.switched then r.port == p.val && c.x.plan.any fun e => e.egress && e.win == r.win && e.cell == r.cell && e.dev == devNum s
       else match linkAt m (devNum s) p.val with
         | some (d, q, _) => r.dev == d && r.port == q
         | none => false)).map fun r => (n, r)

/-- The next hop of a cell from this device. -/
def nextHop (s : State) (c : Ctx) (r : PlanRec) : Option PlanRec :=
  c.x.plan.find? fun x => x.win == r.win && x.cell == r.cell && x.hop == r.hop + 1 && !x.egress && x.dev == devNum s

/-- A window of a job or of a transit load. -/
def planWin (c : Ctx) (win : Nat) : Option WinDecl := ((planJob c).map (·.wins)).getD [] |>.find? fun w => w.win == win

/-- Is a cell reference that of a window's cell and pass in a context? -/
def CellRef.names (r : CellRef) (n : CtxId) (key : Nat × Nat × Nat) : Bool := r.ctx == n.val && (r.win, r.cell, r.pass) == key

/-- A cell comes in again on its way through: the acknowledgement that it still waits for goes to its latest position, or at once
where the next hop has acknowledged it (R403, R404). -/
def againTransit (n : CtxId) (p : PortId) (rx : RxCell) (key : Nat × Nat × Nat) (s : State) : State :=
  let mine (r : CellRef) (o : Bool) : Bool := r.names n key && o
  if s.transit.any (fun t => t.ref.names n key) || allPortIds.any (fun q => (s.port q).sent.any fun t => mine t.ref t.origin.isSome) then
    let held (t : TransitCell) : TransitCell :=
      if t.ref.names n key then { t with inPort := p.val, inFrame := rx.txFrame, inSlot := rx.txSlot } else t
    let sent (t : SentCell) : SentCell :=
      if mine t.ref t.origin.isSome then { t with origin := some (p.val, rx.txFrame, rx.txSlot) } else t
    { s with transit := s.transit.map held, fab := s.fab.map fun q => { q with sent := q.sent.map sent } }
  else s.modPort p fun q => { q with acks := q.acks ++ [(rx.txFrame, rx.txSlot)] }

/-- A planned cell shows a device in transit the first frame of the step (R402, log entry 53). -/
def learnStep (n : CtxId) (rx : RxCell) (r : PlanRec) (s : State) : State :=
  if (s.ctx n).job.isSome then s
  else modV n (fun v => { v with stepFrame := rx.txFrame - r.phi, first := some (v.first.getD (rx.txFrame - r.phi)) }) s

/-- Hold a transit cell for its next hop, whose position follows from the first frame of the step (R402). A cell that comes in after
that position is carried, and so is one of a repeat pass, under the position of pass 0 (R366, R402). -/
def holdTransit (n : CtxId) (p : PortId) (rx : RxCell) (r x : PlanRec) (ws : List Word) (s : State) : State :=
  let w2 := wd ws 2
  let key := (r.win, r.cell, fld w2 4 1)
  let ref : CellRef := { ctx := n.val, win := r.win, cell := r.cell, hop := x.hop, pass := fld w2 4 1, planFrame := x.phi
                         planSlot := x.k, step := fld w2 6 5, last := bit w2 0 }
  if (s.ctx n).x.passed.contains key then againTransit n p rx key s
  else
    let s := if rx.txSlot == r.k && fld w2 4 1 == 0 then learnStep n rx r s else s
    let due := ((s.ctx n).v.origin + x.phi) * 4096 + x.k
    let s := s.modCtx n fun c => { c with x := { c.x with passed := c.x.passed ++ [key] } }
    { s with transit := s.transit ++ [{ ref, words := ws.drop 4, inPort := p.val, inFrame := rx.txFrame, inSlot := rx.txSlot, due }] }

/-- Apply the signals of a window for each command of which every cell has been written (R404). -/
def landSignals (n : CtxId) (w : WinDecl) (s : State) : State :=
  let c := s.ctx n
  let lasts := sortBy (fun a b => decide (a ≤ b)) ((c.x.lastAt.filter fun (x : Nat × Nat) => x.1 == w.win).map fun (x : Nat × Nat) => x.2)
  let kinds := windowCells (chainsOf c) w
  let have_ (i : Nat) : Bool := c.x.landed.any (fun l => l.1 == w.win && l.2.1 == i) || (kinds.getD i .data).reverse
  let due := (lasts.zipIdx.filter fun (l, k) =>
    let from_ := if k = 0 then 0 else lasts.getD (k - 1) 0 + 1
    !c.x.doneLast.contains (w.win, l) && (List.range (l + 1 - from_)).all fun i => have_ (from_ + i)).map fun (x : Nat × Nat) => x.1
  due.foldl (fun s l =>
    let s := s.modCtx n fun c => { c with x := { c.x with
      doneLast := c.x.doneLast ++ [(w.win, l)], applied := c.x.applied ++ [w.win] } }
    applySigs n (windowSigs w) s) s

/-- Put the payload of a chain's cell where its window says (R199): partial entries land at DST_REF, a control word is kept, and a
header word is written too. -/
def landChain (n : CtxId) (w : WinDecl) (i pass : Nat) (body : List Word) (s : State) : Chk State :=
  let cs := chainsOf (s.ctx n)
  let kind := (windowCells cs w).getD i .data
  let e := cs.find? fun e => e.chain == w.chain
  let per := (cellEntries (hopKind cs w)).1 * (cellEntries (hopKind cs w)).2
  let total := match e with | some e => (e.rowsM1 + 1) * partialRowBytes e.kind e.width | none => w.volume
  let j := i - (if w.flag then 2 else 0)
  let at_ := (if w.flag then 8 else 0) + j * per
  if kind = .partials then
    writeRef n w.win ((Ref.ofWord w.dstRef).add at_) ((wordsToBytes body).take (min per (total - j * per))) s
  else
    let s := s.modCtx n fun c => { c with x := { c.x with chainIn := assocSet (w.win, i, pass) (body.take 1) c.x.chainIn } }
    if kind = .header then writeRef n w.win (Ref.ofWord w.dstRef) ((wordsToBytes body).take 8) s else .ok s

/-- Has a byte range of an XE flow been received, when cell i is? -/
def flowHas (c : Ctx) (win i : Nat) (o len : Nat) : Bool :=
  len == 0 || (List.range ((o + len - 1) / 608 + 1 - o / 608)).all fun q =>
    o / 608 + q == i || c.x.landed.contains (win, o / 608 + q, 0)

/-- Has every cell of an XE flow been received, when cell i is? -/
def flowWhole (c : Ctx) (win i : Nat) : Bool :=
  (c.x.lastAt.filter fun (x : Nat × Nat) => x.1 == win).any fun (x : Nat × Nat) =>
    (List.range (x.2 + 1)).all fun q => q == i || c.x.landed.contains (win, q, 0)

/-- Put the payload of an XE flow's cell where its window says, row by row as rows are complete (R408 to R410). -/
def landXe (n : CtxId) (w : WinDecl) (i : Nat) (flow : Option FlowInfo) (body : List Word) (s : State) : Chk State :=
  let c := s.ctx n
  let bs := (wordsToBytes body).take 608
  let s := s.modCtx n fun c => { c with x := { c.x with
    inFlow := assocSet w.win (memWrite 0 ((assocGet w.win c.x.inFlow).getD []) (608 * i) bs) c.x.inFlow } }
  match flow with
  | some info =>
    if w.kind = 4 && info.entries.isEmpty then writeRef n w.win ((Ref.ofWord w.dstRef).add (608 * i)) bs s
    else landFlow n w info (flowHas c w.win i) (flowWhole c w.win i) s
  | none => .ok s

/-- Put the payload of a cell where its window says (R199, R404 to R410). -/
def landBytes (n : CtxId) (w : WinDecl) (i pass : Nat) (flow : Option FlowInfo) (body : List Word) (s : State) : Chk State :=
  if w.kind ≤ 1 then
    writeRef n w.win ((Ref.ofWord w.dstRef).add (608 * i)) ((wordsToBytes body).take (min 608 (w.volume - 608 * i))) s
  else if w.kind = 2 then landChain n w i pass body s
  else landXe n w i flow body s

/-- The pass of a cell, from its header. -/
def HeldCell.pass (h : HeldCell) : Nat := fld (wd h.words 2) 4 1

/-- Is it the same cell of the step? -/
def HeldCell.same (h k : HeldCell) : Bool := h.plan == k.plan && h.pass == k.pass

/-- Write a cell at its last hop, all of it or nothing, and apply the signals that it makes due (R404). -/
def landCell (n : CtxId) (w : WinDecl) (h : HeldCell) (s : State) : Chk State :=
  let key := (w.win, h.plan.cell, h.pass)
  let s := s.modCtx n fun c => { c with x := { c.x with
    lastAt := if bit (wd h.words 2) 0 && !c.x.lastAt.contains (w.win, h.plan.cell) then c.x.lastAt ++ [(w.win, h.plan.cell)] else c.x.lastAt } }
  (landBytes n w h.plan.cell h.pass h.flow (h.words.drop 4) s).map fun s =>
    noteEnd n (landSignals n w (s.modCtx n fun c => { c with x := { c.x with landed := c.x.landed ++ [key] } }))

/-- The command that a fault of a landing names: the chain stage here that the window feeds, else thread 0 (log entry 50). -/
def landCmd (c : Ctx) (w : WinDecl) : Nat × Nat :=
  match if w.kind = 2 then (stagesHere c w.chain).head? else none with
  | some e => (e.thread, e.cmd)
  | none => (0, 0)

/-- A cell at its last hop is written and then acknowledged (R404). While it waits for an alternate buffer or for a bank's clear it
is held (R421, R216), and likewise while its step has not started here or the device takes no part in jobs (R402, R356); one that may
not land at all faults. A cell that was written before is only acknowledged. -/
def takeLast (n : CtxId) (w : WinDecl) (h : HeldCell) (s : State) : State :=
  let c := s.ctx n
  let ack (s : State) : State := s.modPort (portOf h.port) fun q => { q with acks := q.acks ++ [(h.txFrame, h.txSlot)] }
  let hold (s : State) : State :=
    s.modCtx n fun c => { c with x := { c.x with waiting := (c.x.waiting.filter fun k => !k.same h) ++ [h] } }
  if !c.v.live || !takesPart s then hold s
  else if c.x.landed.contains (w.win, h.plan.cell, h.pass) then ack s
  else match landCell n w h s with
    | .ok t => ack t
    | .error e =>
      if e.1 = flWait then hold s
      else threadFault n (landCmd c w).1 (landCmd c w).2 e.1 e.2 [] s

/-- Try every held cell of a context once more, in order of arrival. -/
def landOnce (n : CtxId) (s : State) : State :=
  let held := (s.ctx n).x.waiting
  held.foldl (fun s h => match winDecl (s.ctx n) h.plan.win with
    | some w => takeLast n w h s
    | none => s) (s.modCtx n fun c => { c with x := { c.x with waiting := [] } })

/-- Land the held cells whose waits have ended; a landing may end the wait of another. -/
def landHeld (s : State) (n : CtxId) : State :=
  (List.range (s.ctx n).x.waiting.length).foldl (fun s _ => landOnce n s) s

/-- Is a received cell one of the pending step of its context, and no older than the attempt (R402)? Also while the step's own start is
stalled here (R452). A device in transit learns the step with its first planned cell (log entry 53). -/
def cellCurrent (c : Ctx) (rx : RxCell) (ws : List Word) : Bool :=
  let step := fld (wd ws 2) 6 5
  if c.job.isSome then
    step == c.v.t % 4 && c.v.started && decide (c.v.origin ≤ rx.txFrame) && (c.v.live || c.v.first.isSome)
  else (!c.v.started || step == c.v.t % 4) && (match c.v.first with | some f => decide (f ≤ rx.txFrame) | none => true)

/-- A data cell with good header fields: discarded where its step is over (R402), held for its next hop, or landed and
acknowledged. -/
def takeData (p : PortId) (rx : RxCell) (ws : List Word) (s : State) : State :=
  match recordOf s p rx ws with
  | none => s
  | some (n, r) =>
    let c := s.ctx n
    match planWin c r.win with
    | none => s
    | some w =>
      let kind := (windowCells (((planJob c).map (·.chains)).getD []) w).getD r.cell .data
      if !cellCurrent c rx ws then s
      else if (cellEnds w kind).2 = devNum s then
        takeLast n w { port := p.val, txFrame := rx.txFrame, txSlot := rx.txSlot, plan := r, flow := rx.flow, words := ws } s
      else match nextHop s c r with
        | some x => holdTransit n p rx r x ws s
        | none => s

/-! ### CELL_RECEIVE -/

/-- A cell whose words and header are good. Cells that were held land first, where their waits have ended (log entry 50). -/
def takeCell (p : PortId) (rx : RxCell) (ws : List Word) (s : State) : State :=
  let s := allCtxIds.foldl landHeld s
  let s := if rx.partner then allCtxIds.foldl (takeMarks rx.txFrame ws) (takeIndigo p rx ws s) else s
  let s := s.modPort p fun q => { q with heardAt := nsNow s }
  let s := if rx.txSlot = 0 then s else takeAcks p (wd ws 3) s
  if fld (wd ws 0) 1 0 = 0 then (if rx.partner then takeFiller p rx ws s else s)
  else if s.pwr.now = 2 || !carriesPlan s p then s
  else takeData p rx ws s

/-- CELL_RECEIVE (R386, R387, R403): a cell arrives at a port. A cell with an uncorrectable codeword, an FCS error or an
uncorrectable word is counted and named in a NAK; one whose header fields fail a check is counted and discarded. -/
def execCellReceive (p : PortId) (rx : RxCell) (s : State) : Host.Outcome State Fault Refusal :=
  if !(s.port p).up || !carriesCells s p || s.pwr.now = 3 || (s.pwr.now = 2 && rx.txSlot != 4095) then ok s
  else
    let s := s.modPort p fun q => { q with fecCorr := satAdd q.fecCorr rx.fecCorr }
    if !rx.fecOk then ok (oweNak p rx (s.modPort p fun q => { q with fecUncorr := satAdd q.fecUncorr 1 }))
    else match (if rx.fcsOk then cellWords rx.words else none) with
    | none => ok (oweNak p rx (s.modPort p fun q => { q with cellBad := satAdd q.cellBad 1 }))
    | some ws =>
      ok (if !headOk s p rx ws then s.modPort p fun q => { q with hdrDiscard := satAdd q.hdrDiscard 1 } else takeCell p rx ws s)

end Sys2Proof.Machine
end

