-- ==== Sys2Proof/Machine/Dispatch.lean ====
section
/-! DEFINITION. The meaning of every command: one arm per row of the command table. -/

namespace Sys2Proof.Machine

def exec (i : Instr) (s : State) : Host.Outcome State Fault Refusal :=
  match i with
  | .stepStart ctx err0 err1 => Sys2Proof.Machine.execStepStart ctx err0 err1 s
  | .anchorThird ctx err => Sys2Proof.Machine.execAnchorThird ctx err s
  | .commandIssue ctx core eng slot => Sys2Proof.Machine.execCommandIssue ctx core eng slot s
  | .commandComplete ctx done => Sys2Proof.Machine.execCommandComplete ctx done s
  | .waitTimeout ctx thread => Sys2Proof.Machine.execWaitTimeout ctx thread s
  | .deadlineMiss ctx => Sys2Proof.Machine.execDeadlineMiss ctx s
  | .waveRelease ctx w => Sys2Proof.Machine.execWaveRelease ctx w s
  | .fullRate ctx w => Sys2Proof.Machine.execFullRate ctx w s
  | .join ctx thread cmd => Sys2Proof.Machine.execJoin ctx thread cmd s
  | .mm ctx thread cmd arb => Sys2Proof.Machine.execMm ctx thread cmd arb s
  | .mmd ctx thread cmd arb => Sys2Proof.Machine.execMmd ctx thread cmd arb s
  | .drain ctx thread cmd arb => Sys2Proof.Machine.execDrain ctx thread cmd arb s
  | .repeatPass ctx thread cmd => Sys2Proof.Machine.execRepeatPass ctx thread cmd s
  | .convertPass ctx thread cmd => Sys2Proof.Machine.execConvertPass ctx thread cmd s
  | .ep ctx thread cmd chunks arb => Sys2Proof.Machine.execEp ctx thread cmd chunks arb s
  | .lxpose ctx thread cmd rows arb => Sys2Proof.Machine.execLxpose ctx thread cmd rows arb s
  | .lgather ctx thread cmd rows arb => Sys2Proof.Machine.execLgather ctx thread cmd rows arb s
  | .lconv ctx thread cmd rows arb => Sys2Proof.Machine.execLconv ctx thread cmd rows arb s
  | .lseal ctx thread cmd arb => Sys2Proof.Machine.execLseal ctx thread cmd arb s
  | .lctr ctx thread cmd arb => Sys2Proof.Machine.execLctr ctx thread cmd arb s
  | .counterSettled ctx thread cmd => Sys2Proof.Machine.execCounterSettled ctx thread cmd s
  | .rsum ctx thread cmd arb => Sys2Proof.Machine.execRsum ctx thread cmd arb s
  | .rssq ctx thread cmd arb => Sys2Proof.Machine.execRssq ctx thread cmd arb s
  | .topk ctx thread cmd arb => Sys2Proof.Machine.execTopk ctx thread cmd arb s
  | .topkm ctx thread cmd arb => Sys2Proof.Machine.execTopkm ctx thread cmd arb s
  | .xidx ctx thread cmd arb => Sys2Proof.Machine.execXidx ctx thread cmd arb s
  | .cnt ctx thread cmd arb => Sys2Proof.Machine.execCnt ctx thread cmd arb s
  | .band ctx thread cmd arb => Sys2Proof.Machine.execBand ctx thread cmd arb s
  | .bor ctx thread cmd arb => Sys2Proof.Machine.execBor ctx thread cmd arb s
  | .bxor ctx thread cmd arb => Sys2Proof.Machine.execBxor ctx thread cmd arb s
  | .tapx ctx thread cmd arb => Sys2Proof.Machine.execTapx ctx thread cmd arb s
  | .partialRow ctx tags ue => Sys2Proof.Machine.execPartialRow ctx tags ue s
  | .headerWord ctx chain stage => Sys2Proof.Machine.execHeaderWord ctx chain stage s
  | .returnWord ctx chain stage => Sys2Proof.Machine.execReturnWord ctx chain stage s
  | .finalStageCheck ctx thread cmd err errS => Sys2Proof.Machine.execFinalStageCheck ctx thread cmd err errS s
  | .dcopy ctx thread cmd upTo arb => Sys2Proof.Machine.execDcopy ctx thread cmd upTo arb s
  | .dsettle ctx thread cmd => Sys2Proof.Machine.execDsettle ctx thread cmd s
  | .dscat ctx thread cmd upTo arb => Sys2Proof.Machine.execDscat ctx thread cmd upTo arb s
  | .xsend ctx thread cmd arb => Sys2Proof.Machine.execXsend ctx thread cmd arb s
  | .xret ctx thread cmd arb => Sys2Proof.Machine.execXret ctx thread cmd arb s
  | .xblk ctx thread cmd arb => Sys2Proof.Machine.execXblk ctx thread cmd arb s
  | .shadeCompare ctx thread cmd err errS => Sys2Proof.Machine.execShadeCompare ctx thread cmd err errS s
  | .mirrorCompare ctx thread cmd err => Sys2Proof.Machine.execMirrorCompare ctx thread cmd err s
  | .verdict ctx subject third => Sys2Proof.Machine.execVerdict ctx subject third s
  | .condemnationInstant ctx err0 err1 => Sys2Proof.Machine.execCondemnationInstant ctx err0 err1 s
  | .verdictHorizon ctx => Sys2Proof.Machine.execVerdictHorizon ctx s
  | .commit ctx err0 err1 => Sys2Proof.Machine.execCommit ctx err0 err1 s
  | .condemnLate ctx cause => Sys2Proof.Machine.execCondemnLate ctx cause s
  | .seal ctx shard => Sys2Proof.Machine.execSeal ctx shard s
  | .digestScrubPass upsets => Sys2Proof.Machine.execDigestScrubPass upsets s
  | .frameStart hbm ddr refA refB => Sys2Proof.Machine.execFrameStart hbm ddr refA refB s
  | .epochStart => Sys2Proof.Machine.execEpochStart s
  | .stretchRequest frame lateness cause => Sys2Proof.Machine.execStretchRequest frame lateness cause s
  | .stretchFreeze frame => Sys2Proof.Machine.execStretchFreeze frame s
  | .cadenceDecision => Sys2Proof.Machine.execCadenceDecision s
  | .cadNextFix => Sys2Proof.Machine.execCadNextFix s
  | .cadNextDefault => Sys2Proof.Machine.execCadNextDefault s
  | .enterLocked => Sys2Proof.Machine.execEnterLocked s
  | .reparent => Sys2Proof.Machine.execReparent s
  | .enterLost => Sys2Proof.Machine.execEnterLost s
  | .rootLost => Sys2Proof.Machine.execRootLost s
  | .rootTakeover => Sys2Proof.Machine.execRootTakeover s
  | .refFault f => Sys2Proof.Machine.execRefFault f s
  | .ptpMessage offset valid => Sys2Proof.Machine.execPtpMessage offset valid s
  | .alarm => Sys2Proof.Machine.execAlarm s
  | .resumeEffect ctx => Sys2Proof.Machine.execResumeEffect ctx s
  | .cellSend port => Sys2Proof.Machine.execCellSend port s
  | .cellReceive port rx => Sys2Proof.Machine.execCellReceive port rx s
  | .resend port frame slot => Sys2Proof.Machine.execResend port frame slot s
  | .linkFail port frame slot => Sys2Proof.Machine.execLinkFail port frame slot s
  | .linkUp port mode delay => Sys2Proof.Machine.execLinkUp port mode delay s
  | .serveLocal ctx win => Sys2Proof.Machine.execServeLocal ctx win s
  | .planCompute ctx err0 err1 third => Sys2Proof.Machine.execPlanCompute ctx err0 err1 third s
  | .scrubPass sram hits arb => Sys2Proof.Machine.execScrubPass sram hits arb s
  | .memUe ctx reader addr err medium die => Sys2Proof.Machine.execMemUe ctx reader addr err medium die s
  | .ddrCeRate channel corrected => Sys2Proof.Machine.execDdrCeRate channel corrected s
  | .estimateInterval r => Sys2Proof.Machine.execEstimateInterval r s
  | .droop island => Sys2Proof.Machine.execDroop island s
  | .droopEnd island lost => Sys2Proof.Machine.execDroopEnd island lost s
  | .droopLong island lost => Sys2Proof.Machine.execDroopLong island lost s
  | .vfApply railsReady => Sys2Proof.Machine.execVfApply railsReady s
  | .vfExpired => Sys2Proof.Machine.execVfExpired s
  | .rampDownWave w low => Sys2Proof.Machine.execRampDownWave w low s
  | .railExcursion rail uv => Sys2Proof.Machine.execRailExcursion rail uv s
  | .railOutOfWindow rail uv => Sys2Proof.Machine.execRailOutOfWindow rail uv s
  | .sequenceRetry => Sys2Proof.Machine.execSequenceRetry s
  | .aonSwitch => Sys2Proof.Machine.execAonSwitch s
  | .aonReturn => Sys2Proof.Machine.execAonReturn s
  | .aonHoldupExpiry => Sys2Proof.Machine.execAonHoldupExpiry s
  | .resetN low held => Sys2Proof.Machine.execResetN low held s
  | .powerFailN low held => Sys2Proof.Machine.execPowerFailN low held s
  | .coolantFaultN low held => Sys2Proof.Machine.execCoolantFaultN low held s
  | .greyEntry clamps => Sys2Proof.Machine.execGreyEntry clamps s
  | .greyExit => Sys2Proof.Machine.execGreyExit s
  | .blackEntry => Sys2Proof.Machine.execBlackEntry s
  | .watchdog => Sys2Proof.Machine.execWatchdog s
  | .clearDone bank => Sys2Proof.Machine.execClearDone bank s
  | .ownershipChange bank => Sys2Proof.Machine.execOwnershipChange bank s
  | .resetRelease refA refB => Sys2Proof.Machine.execResetRelease refA refB s
  | .imageCheck flashOk => Sys2Proof.Machine.execImageCheck flashOk s
  | .memoryTrainingDone hbms channels absent => Sys2Proof.Machine.execMemoryTrainingDone hbms channels absent s
  | .ready ms => Sys2Proof.Machine.execReady ms s
  | .bootAnnounce => Sys2Proof.Machine.execBootAnnounce s
  | .messageTimeEnd orders claims => Sys2Proof.Machine.execMessageTimeEnd orders claims s
  | .electionWindowEnd => Sys2Proof.Machine.execElectionWindowEnd s
  | .claimExpiry station => Sys2Proof.Machine.execClaimExpiry station s
  | .leaseLapse => Sys2Proof.Machine.execLeaseLapse s
  | .event => Sys2Proof.Machine.execEvent s
  | .eventResend => Sys2Proof.Machine.execEventResend s
  | .rustRecord => Sys2Proof.Machine.execRustRecord s
  | .rustResend => Sys2Proof.Machine.execRustResend s
  | .rdmaWrite h1 qp win offset data => Sys2Proof.Machine.execRdmaWrite h1 qp win offset data s
  | .rdmaRead h1 qp win offset len => Sys2Proof.Machine.execRdmaRead h1 qp win offset len s
  | .session via station pk ek sig => Sys2Proof.Machine.execSession via station pk ek sig s
  | .claim h prio => Sys2Proof.Machine.execClaim h prio s
  | .renew h => Sys2Proof.Machine.execRenew h s
  | .handover h target => Sys2Proof.Machine.execHandover h target s
  | .releaseOwn h => Sys2Proof.Machine.execReleaseOwn h s
  | .regRead h addr => Sys2Proof.Machine.execRegRead h addr s
  | .regWrite a addr value force => Sys2Proof.Machine.execRegWrite a addr value force s
  | .indNowNs h => Sys2Proof.Machine.execIndNowNs h s
  | .mgtCtxMode a ctx value => Sys2Proof.Machine.execMgtCtxMode a ctx value s
  | .meSplit a core value => Sys2Proof.Machine.execMeSplit a core value s
  | .meDbgCtrl a core value => Sys2Proof.Machine.execMeDbgCtrl a core value s
  | .eeSplit a core value => Sys2Proof.Machine.execEeSplit a core value s
  | .coreBankOwn a core bank force value => Sys2Proof.Machine.execCoreBankOwn a core bank force value s
  | .coreBankForce a core bank value => Sys2Proof.Machine.execCoreBankForce a core bank value s
  | .coreBankRepair a core bank value => Sys2Proof.Machine.execCoreBankRepair a core bank value s
  | .dmaChan a core ch value => Sys2Proof.Machine.execDmaChan a core ch value s
  | .dmaAbort a core value => Sys2Proof.Machine.execDmaAbort a core value s
  | .coreIpat a core e h value => Sys2Proof.Machine.execCoreIpat a core e h value s
  | .dsptCtxLim a die ctx value => Sys2Proof.Machine.execDsptCtxLim a die ctx value s
  | .dsptDl a die ctx value => Sys2Proof.Machine.execDsptDl a die ctx value s
  | .indAlarm a value => Sys2Proof.Machine.execIndAlarm a value s
  | .pwrVf a value => Sys2Proof.Machine.execPwrVf a value s
  | .pwrLimit a value => Sys2Proof.Machine.execPwrLimit a value s
  | .pwrState a value => Sys2Proof.Machine.execPwrState a value s
  | .sepFloor a value => Sys2Proof.Machine.execSepFloor a value s
  | .release a ctx value => Sys2Proof.Machine.execRelease a ctx value s
  | .shdCtl a die ctx seed value => Sys2Proof.Machine.execShdCtl a die ctx seed value s
  | .query h => Sys2Proof.Machine.execQuery h s
  | .load h ctx win seed first => Sys2Proof.Machine.execLoad h ctx win seed first s
  | .transitLoad h ctx win => Sys2Proof.Machine.execTransitLoad h ctx win s
  | .start h ctx epoch restore gen => Sys2Proof.Machine.execStart h ctx epoch restore gen s
  | .halt h ctx => Sys2Proof.Machine.execHalt h ctx s
  | .resume h ctx => Sys2Proof.Machine.execResume h ctx s
  | .unload h ctx err0 err1 => Sys2Proof.Machine.execUnload h ctx err0 err1 s
  | .replay h ctx => Sys2Proof.Machine.execReplay h ctx s
  | .assign h ctx ranges => Sys2Proof.Machine.execAssign h ctx ranges s
  | .privilege h ctx priv => Sys2Proof.Machine.execPrivilege h ctx priv s
  | .quarantine h core => Sys2Proof.Machine.execQuarantine h core s
  | .window h win ctx base len dir pubCtr => Sys2Proof.Machine.execWindow h win ctx base len dir pubCtr s
  | .admitSet h ctx manifest shards => Sys2Proof.Machine.execAdmit h ctx manifest shards s
  | .restore h ctx shard win => Sys2Proof.Machine.execRestore h ctx shard win s
  | .pubRead h win offset len readySeq => Sys2Proof.Machine.execPubRead h win offset len readySeq s
  | .pubRelease h win readySeq => Sys2Proof.Machine.execPubRelease h win readySeq s
  | .journalRead h offset len => Sys2Proof.Machine.execJournalRead h offset len s
  | .ckptRead h ctx shard win => Sys2Proof.Machine.execCkptRead h ctx shard win s
  | .rustRead h seq => Sys2Proof.Machine.execRustRead h seq s
  | .wake h target all => Sys2Proof.Machine.execWake h target all s
  | .eventAck h seq => Sys2Proof.Machine.execEventAck h seq s
  | .localWake h clearSeq => Sys2Proof.Machine.execLocalWake h clearSeq s
  | .rustAck receiver seq digest => Sys2Proof.Machine.execRustAck receiver seq digest s
  | .progBegin h => Sys2Proof.Machine.execProgBegin h s
  | .progWrite h offset data => Sys2Proof.Machine.execProgWrite h offset data s
  | .progEnd h => Sys2Proof.Machine.execProgEnd h s
  | .reboot h => Sys2Proof.Machine.execReboot h s
  | .attest h nonce => Sys2Proof.Machine.execAttest h nonce s
  | .certRead h => Sys2Proof.Machine.execCertRead h s
  | .refreshCommand medium channel bank hits => Sys2Proof.Machine.execRefreshCommand medium channel bank hits s
  | .linkDown port => Sys2Proof.Machine.execLinkDown port s
  | .signalDetected h1 => Sys2Proof.Machine.execSignalDetected h1 s
  | .dimTransition => Sys2Proof.Machine.execDimTransition s
  | .aonFeedInWindow backup => Sys2Proof.Machine.execAonFeedInWindow backup s
  | .aonBackupOutOfWindow => Sys2Proof.Machine.execAonBackupOutOfWindow s
  | .railInWindow rail uv => Sys2Proof.Machine.execRailInWindow rail uv s
  | .discardedDatagram via bytes => Sys2Proof.Machine.execDiscardedDatagram via bytes s
  | .watchdogRestart => Sys2Proof.Machine.execWatchdogRestart s

end Sys2Proof.Machine
end

