-- ==== Sys2Proof/Machine/Tick.lean ====
section
/-! DEFINITION. The passing of time on an empty queue (log entry 2). -/

namespace Sys2Proof.Machine

/-- One nanosecond of the device's clock: Indigo time moves on by it and by the part of the slew that falls to it (R347, R355).
SLOT, PHASE and the other positions are read from NS and the start of the frame. Nothing else changes: every timed act of the
device is a command of its own. -/
def tick (s : State) : State :=
  let off := nsNow s - s.ind.frameStart
  let t := ((nsNow s * 65536 + s.ind.frac.toNat + 65536 : Nat) + (slewDue s (off + 1) - slewDue s off)).toNat
  { s with ind := { s.ind with ns := BitVec.ofNat 64 (t / 65536), frac := BitVec.ofNat 16 (t % 65536) } }

end Sys2Proof.Machine
end

