-- ==== Sys2Proof/Safety.lean ====
section
/-! DEFINITION. The terms of the claims: the invariant of a safe device, the frames, and when a message is served. A run is
safe when every state of it satisfies the invariant; no command stops (Fault has no use), and an unsafe program shows as a
context in STATE 0x04 with its event (R53), not as a stop of the model. -/

namespace Sys2Proof.Machine

/-! ### The invariant -/

/-- The memory and the flash are in their canonical form: addresses strictly rising, no entry equal to what an unlisted
address reads as. -/
def State.Inv (s : State) : Prop := memWf memDefault s.mem = true ∧ memWf flashDefault s.flash = true

/-! ### Reading one byte -/

/-- The byte at a memory address. -/
def State.byte (s : State) (a : Nat) : Byte := memGet memDefault s.mem a

/-- The byte at a flash address. -/
def State.flashByte (s : State) (a : Nat) : Byte := memGet flashDefault s.flash a

/-- Does an address lie outside the bytes of a list of writes? -/
def outside (ws : List (Nat × List Byte)) (a : Nat) : Prop := ∀ w ∈ ws, a < w.1 ∨ w.1 + w.2.length ≤ a

/-! ### Frames: what a command leaves unchanged -/

/-- The host side: the message processor, Rust, what left the device, the free values, the queue and the flash. -/
def sameHost (s t : State) : Prop :=
  t.pending = s.pending ∧ t.out = s.out ∧ t.free = s.free ∧ t.flash = s.flash ∧ t.host = s.host ∧ t.rust = s.rust

/-- The units around the cores: Indigo, boot, power, supplies, scrubbing, the ports, transit cells and the dies. -/
def sameUnits (s t : State) : Prop :=
  t.ind = s.ind ∧ t.boot = s.boot ∧ t.pwr = s.pwr ∧ t.sup = s.sup ∧ t.scrub = s.scrub ∧ t.wscrub = s.wscrub ∧
  t.fab = s.fab ∧ t.transit = s.transit ∧ t.dies = s.dies

/-- Only the message processor and what left the device differ. -/
def hostOnly (s t : State) : Prop := t = { s with host := t.host, out := t.out }

/-- Everything on the device's work side: memory, cores, contexts, dies, ports, transit cells, Sepia and the scrubbers. -/
def sameWork (s t : State) : Prop :=
  t.mem = s.mem ∧ t.cores = s.cores ∧ t.ctxs = s.ctxs ∧ t.dies = s.dies ∧ t.fab = s.fab ∧ t.transit = s.transit ∧
  t.sep = s.sep ∧ t.scrub = s.scrub ∧ t.wscrub = s.wscrub

/-- Every other context is as it was. -/
def otherCtxs (n : CtxId) (s t : State) : Prop := ∀ m, m ≠ n → t.ctx m = s.ctx m

/-- Every other core is as it was. -/
def otherCores (c : CoreId) (s t : State) : Prop := ∀ k, k ≠ c → t.core k = s.core k

/-! ### Messages -/

/-- A request that the device hears, in an open session, not answered before, that the power state and the boot let through (R525, R527,
R538, R552). -/
def Served (h : Hdr) (dark : Bool) (s : State) (x : Session) : Prop :=
  hears s h.via = true ∧ sessionOf s h.station = some x ∧ keptReply x h = none ∧ stateRefusal s dark = 0

/-- An order of the owner with a new SEQ, served in the present state (R536, R537). -/
def Accepted (h : Hdr) (o : Order) (s : State) (x : Session) : Prop :=
  Served h (orderDark o) s x ∧ s.host.owner = some h.station ∧ x.high < h.seq

/-- The state that a refused order of the owner leaves: its SEQ is noted, and the lease is as it was (R534; log entry 11). -/
def turned (h : Hdr) (s : State) : State := modSession h.station (fun x => { x with high := h.seq }) s

/-- The state in which an accepted order takes effect: its SEQ is noted and the owner's lease extended (R534). -/
def noted (h : Hdr) (s : State) : State := extendLease h.station (nsNow s) (turned h s)

/-- The state in which an accepted message marked any takes effect: its SEQ is noted, and a lease that the sender holds is extended
(R534; log entry 11). -/
def notedOk (h : Hdr) (s : State) : State := extendLease h.station (nsNow s) (notedAny h s)

/-- A write of a register by the owner that is accepted as an order (R536, R537, R540). -/
def ownerWrites (h : Hdr) (r : Reg) (v : Word) (s : State) (x : Session) : Prop :=
  Accepted h (.regWrite (BitVec.ofNat 64 (regAddr r)) v) s x

/-- The reply OK to a register write (R540). -/
def wrote (h : Hdr) (s : State) : State := replyKept h 0x11 stOk [] s

/-- The reply to a request in its session, on the port and family of its arrival (R525, R526, R530). -/
def replyMsg (s : State) (x : Session) (h : Hdr) (type status : Nat) (body : List Word) : OutMsg :=
  .zyndy h.via (srcAddr s h.via) x.station (zyndyHeader type h.station.val (8 * body.length) h.seq status) body
    (zyndyTag x.key (zyndyHeader type h.station.val (8 * body.length) h.seq status) body)

/-- The reply that an applied request keeps (R538). -/
def keptWords (h : Hdr) (type status : Nat) (body : List Word) : List Word :=
  zyndyHeader type h.station.val (8 * body.length) h.seq status ++ body

/-- The messages marked any (R540, R566), applied on arrival: the sender's header and the TYPE of the request. -/
def anyMessage : Instr → Option (Hdr × Nat)
  | .claim h _ => some (h, 0x02)
  | .regRead h _ => some (h, 0x10)
  | .indNowNs h => some (h, 0x10)
  | .query h => some (h, 0x12)
  | .pubRead h _ _ _ _ => some (h, 0x40)
  | .journalRead h _ _ => some (h, 0x42)
  | .rustRead h _ => some (h, 0x44)
  | .attest h _ => some (h, 0x64)
  | .certRead h => some (h, 0x65)
  | _ => none

/-- The row of the command table that an owner's order is. -/
def orderCommand (h : Hdr) : Order → Instr
  | .renew => .renew h
  | .handover t => .handover h t
  | .releaseOwn => .releaseOwn h
  | .regWrite a v => .regWrite (.order h) a v none
  | .load n w seed first => .load h n w seed first
  | .transitLoad n w => .transitLoad h n w
  | .start n e r g => .start h n e r g
  | .halt n => .halt h n
  | .resume n => .resume h n
  | .unload n e0 e1 => .unload h n e0 e1
  | .replay n => .replay h n
  | .assign n rs => .assign h n rs
  | .privilege n p => .privilege h n p
  | .quarantine c => .quarantine h c
  | .window w n b l d k => .window h w n b l d k
  | .admitSet n m ws => .admitSet h n m ws
  | .restore n k w => .restore h n k w
  | .pubRelease w q => .pubRelease h w q
  | .ckptRead n k w => .ckptRead h n k w
  | .wake t all => .wake h t all
  | .eventAck q => .eventAck h q
  | .localWake c => .localWake h c
  | .progBegin => .progBegin h
  | .progWrite o d => .progWrite h o d
  | .progEnd => .progEnd h
  | .reboot => .reboot h

/-! ### Engines -/

/-- What an engine's command may touch: its context's issued commands, record and exchange, its core's counters, taps and
queue, the memory and the count of lost fine entries. -/
def engineFrame (n : CtxId) (c : CoreId) (s t : State) : Prop :=
  otherCtxs n s t ∧ otherCores c s t ∧ sameHost s t ∧ sameUnits s t ∧ t.sep = { s.sep with fineLost := t.sep.fineLost } ∧
  t.ctx n = { s.ctx n with runs := (t.ctx n).runs, record := (t.ctx n).record, x := (t.ctx n).x } ∧
  t.core c = { s.core c with grid := (t.core c).grid, exc := (t.core c).exc, reCnt := (t.core c).reCnt, taps := (t.core c).taps,
                             queue := (t.core c).queue }

/-- The command of a run has executed with its effects: exactly its bytes are written, its queue entry is appended, its
digests are kept, and nothing else changes. -/
def Released (n : CtxId) (r : Run) (eff : Effects) (s t : State) : Prop :=
  let c := coreOf r.core
  t.mem = (s.writeAll eff.writes).mem ∧ (∀ a, outside eff.writes a → t.byte a = s.byte a) ∧
  (∃ q, findRun t n r.thread r.cmd = some q ∧ q.executed = true ∧ q.digP = eff.tints) ∧
  (t.core c).queue = (s.core c).queue ++ eff.queue.toList ∧ engineFrame n c s t

/-- An issued command of a working context that an engine has still to carry out (R233, R271). -/
def Issued (s : State) (n : CtxId) (thread cmd : Nat) (e : Eng) (r : Run) : Prop :=
  findRun s n thread cmd = some r ∧ working s n r.core = true ∧ r.eng = e ∧ r.executed = false

/-- The row of the command table that a reduction opcode is. -/
def reCommand (op : Nat) (n : CtxId) (thread cmd : Nat) (arb : List BankCycle) : Instr :=
  match op with
  | 0x50 => .rsum n thread cmd arb
  | 0x51 => .rssq n thread cmd arb
  | 0x52 => .topk n thread cmd arb
  | 0x53 => .topkm n thread cmd arb
  | 0x54 => .xidx n thread cmd arb
  | 0x55 => .cnt n thread cmd arb
  | 0x56 => .band n thread cmd arb
  | 0x57 => .bor n thread cmd arb
  | 0x58 => .bxor n thread cmd arb
  | _ => .tapx n thread cmd arb

/-- The addresses that the descriptors of a DCOPY store to: its local destinations, the landing areas of local push windows with a
mirror's copy of them, and the tag records of gathers (R235, R237, R241, R312, R400). -/
def copyStores (e : EC) (xs : List DescS) (a : Nat) : Prop := ∃ x ∈ xs,
  (∃ b k r, (Seg.mem b k, r) ∈ x.dst ∧ b ≤ a ∧ a < b + k) ∨
  (∃ w off k pos b r, (Seg.push w off k pos (some b), r) ∈ x.dst ∧ (b ≤ a ∧ a < b + k ∨
    ∃ d m, winDecl e.ctx w = some d ∧ mirrorAddr e.ctx ((Ref.ofWord d.dstRef).add off) = some m ∧ m ≤ a ∧ a < m + k)) ∨
  (x.d.gather = 1 ∧ ∃ b, refAddr e.s e.n false (some e.thread) (Ref.ofWord x.d.tag) 24 = .ok b ∧ b ≤ a ∧ a < b + 24)

/-- Does an address lie outside the Sepia ring (R451)? -/
def offRing (s : State) (a : Nat) : Prop :=
  ∀ base, s.sep.base = some base → ∀ x, x < ringSize s → a ≠ ringAddr base s.sep.holes x

/-- Do the checks of an engine pass for a head command (R233, R265, R411)? JOIN has none, and a command that waits for an
alternate passes unchecked. -/
def headPasses (s : State) (n : CtxId) (h : Head) : Prop :=
  let e := ecOf s n false h.t.thread h.t.next
  match (engOf h.body).getD .join with
  | .me => ∃ o, meRead e h.env h.body = .ok o
  | .ee => ∃ o, eeRead e h.env h.body (if eeQueue h.body then oldestEntry s n h.t.core else none) = .ok o
  | .re => ∃ o, reRead e h.body = .ok o
  | .le => ∃ o, leRead e h.body = .ok o
  | .dma => ∃ r, enterDma s n { thread := h.t.thread, cmd := h.t.next, core := h.t.core, eng := .dma, env := h.env, body := h.body } = .ok r
  | .xe => xeHeld (s.ctx n) h.body = true ∨ ∃ o, xeRead e h.body = .ok o
  | .join => True

end Sys2Proof.Machine
end

