-- ==== Sys2Proof/Certificates/Slice0/Obligations.lean ====
section
/-! DEFINITION. The statements for the provers. Each docstring names the rule of the spec that the statement formalises, or
the log entry of the model's own choice. -/

open Sys2Proof Sys2Proof.Machine

/-! ### The machine as a whole -/

/-- The command at the front of the queue runs with the queue's rest. -/
def Obligations.FrontCommandRunsWithTheRest : Prop :=
  ∀ (c : Instr) (rest : List Instr) (s : State), step { s with pending := c :: rest } = exec c { s with pending := rest }

/-- On an empty queue one nanosecond of the device's clock passes and nothing else changes (log entry 2, the model's choice): NS and
FRAC move on by it and by the part of the frame's slew that falls to it, which no reading of the time shows as a step back (R347,
R355). -/
def Obligations.IdleStepCountsOneNanosecond : Prop :=
  ∀ s : State, s.pending = [] → ∃ t, step s = .next t ∧ t.pending = [] ∧
    (let off := nsNow s - s.ind.frameStart
     let now := ((nsNow s * 65536 + s.ind.frac.toNat + 65536 : Nat) + (slewDue s (off + 1) - slewDue s off)).toNat
     t.ind = { s.ind with ns := BitVec.ofNat 64 (now / 65536), frac := BitVec.ofNat 16 (now % 65536) }) ∧
    (s.ind.slew = 0 → t.ind = { s.ind with ns := s.ind.ns + 1 }) ∧
    (s.ind.slew.natAbs ≤ 8192 → nsNow s + 2 < 2 ^ 64 →
      nsNow s * 65536 + s.ind.frac.toNat < nsNow t * 65536 + t.ind.frac.toNat) ∧
    t.bankLost = s.bankLost ∧ t.out = s.out ∧ t.free = s.free ∧ t.mem = s.mem ∧ t.flash = s.flash ∧ t.host = s.host ∧ t.rust = s.rust ∧ t.boot = s.boot ∧
    t.pwr = s.pwr ∧ t.sup = s.sup ∧ t.sep = s.sep ∧ t.scrub = s.scrub ∧ t.wscrub = s.wscrub ∧ t.fab = s.fab ∧
    t.transit = s.transit ∧ t.dies = s.dies ∧ t.cores = s.cores ∧ t.ctxs = s.ctxs

/-- Every command of the table completes in every state, for the spec gives each an effect and none stops the device; it acts on
everything but the queue. -/
def Obligations.EveryCommandCompletesAndLeavesTheQueue : Prop :=
  (∀ (c : Instr) (s : State), ∃ t, exec c s = .next t) ∧
  (∀ (c : Instr) (s t : State), exec c s = .next t → t.pending = s.pending)

/-- The memory and the flash keep their canonical form in every step from every state that has it. -/
def Obligations.StepKeepsCanonicalMemory : Prop := ∀ s t : State, s.Inv → step s = .next t → t.Inv

/-- The state after reset has the memory and the flash in canonical form. -/
def Obligations.ResetMemoryIsCanonical : Prop := State.reset.Inv

/-- After reset the registers hold the values of the spec's register tables (chapters 1 to 19); the registers whose value comes
from fuses, image, training, flash or boot are not named here (log entry 6). -/
def Obligations.ResetRegistersHoldTheirStatedValues : Prop :=
  ∀ (n : CtxId) (d : DieId) (c : CoreId) (p : PortId) (e : Fin 4) (half : Fin 2) (ch : Fin 16),
    let z := State.reset
    regGet z .contractRev = 0x00090001 ∧ regGet z (.meSplit c) = 0x0000000800000008 ∧ regGet z (.eeSplit c) = 4 ∧
    regGet z (.dmaChan c ch) = 0x400 ∧ regGet z (.ipat c e half) = 0x8888888888888888 ∧
    regGet z (.ctxLim d n) = 0x0000080000000006 ∧ regGet z (.dl d n) = 0x03FF000000000000 ∧
    regGet z (.memScrub d) = 0x0000003C00180001 ∧ regGet z .wscrub = 0x00000040000A0001 ∧
    regGet z .indStatus = 0x000000F000000000 ∧ regGet z .cadence = 0xF0 ∧ regGet z .pwrVf = 0xA0A0000000000000 ∧
    regGet z .pwrWake = 0xC ∧
    ∀ r ∈ [Reg.owner, .ctxMode n, .tdcA n, .tdcB n, .wver n, .wscrubStat, .rust, .pwrEst, .pwrTemp, .pwrDroop, .pwrStat, .pwrState,
        .pwrRail, .pwrAon, .pwrSeq, .energy n, .energyDev, .indNs, .indPos, .indEpoch, .indOffset, .indRef, .stretchA, .stretchB,
        .facility, .alarm, .alarmCtl, .sepHead, .sepFloor, .sepStat, .sepFine n, .sepCtl n, .sepCkpt n, .fabErr p, .fabFec p,
        .xeCnt d n, .dlStat d n, .ecc d, .ue d, .refresh d, .shdCtl d n, .shdSeed d n, .shdCnt d n, .shdQuar d, .coreStall c n,
        .meGrid c n, .dbgCtrl c, .dbgSel c, .dbgAcc0 c, .dbgAcc1 c, .dbgSet c, .eeExc c n, .reCnt c n, .dmaAbort c, .dmaStat c ch,
        .resRef c ch, .resCnt c ch, .bootProg], regGet z r = 0

/-- Every control register is found at its own address, whatever its unit, context, bank or index (R34, R35 and the
register tables): no two registers share an address, and every address is 8-byte aligned. -/
def Obligations.RegisterAddressesDecode : Prop :=
  ∀ r : Reg, regAt (regAddr r) = some r ∧ regAddr r % 8 = 0

/-! ### Messages -/

/-! ### Register writes -/

/-- A register write is judged as a whole (R590): an OW field changes only for the owner, a TW field only for the Renine
controller; a write that gives such a field its current value is not refused on its account; read-only fields ignore the value
written, the one W1C field of the device acts on its 1 bit only, and a write refused on any ground changes nothing. -/
def Obligations.RegisterWritesAreJudgedWhole : Prop :=
  ∀ (who : Who) (r : Reg) (v : Word) (s : State),
    ((regGet s r ^^^ v) &&& owMask r ≠ 0 → who ≠ .owner → regWriteAt who (regAddr r) v s = (stNotOwner, s)) ∧
    (((regGet s r ^^^ v) &&& owMask r = 0 ∨ who = .owner) → (regGet s r ^^^ v) &&& twMask r ≠ 0 → who ≠ .renine →
      regWriteAt who (regAddr r) v s = (stAddressFault, s)) ∧
    (((regGet s r ^^^ v) &&& owMask r = 0 ∨ who = .owner) → ((regGet s r ^^^ v) &&& twMask r = 0 ∨ who = .renine) →
      regWriteAt who (regAddr r) v s = regApply r (mergeWrite r (regGet s r) v) s) ∧
    ((regWriteAt who (regAddr r) v s).1 ≠ stOk → (regWriteAt who (regAddr r) v s).2 = s) ∧
    (∀ u, u &&& writeMask r = v &&& writeMask r → regWriteAt who (regAddr r) u s = regWriteAt who (regAddr r) v s) ∧
    (regGet s .alarmCtl &&& owMask .alarmCtl = v &&& owMask .alarmCtl →
      regWriteAt who (regAddr .alarmCtl) v s = (stOk, { s with ind := { s.ind with alarmFired := s.ind.alarmFired && !bit v 1 } }))

/-- The rows of single registers are writes of that register, by the same master, an OWN write of any kind of bank after a FORCE write
of the same cycle (R217); a control address without a register is refused with ADDRESS_FAULT, and the refused read returns 0 (R35); the remote form of
an address in control space is refused with DESC_BOUNDS (R32). -/
def Obligations.RegisterRowsWriteTheirRegisters : Prop :=
  (∀ (a : Access) (v : Word) (s : State),
     let w (r : Reg) : Instr := .regWrite a (BitVec.ofNat 64 (regAddr r)) v none
     let both (r : Reg) (f : Word) : Instr := .regWrite a (BitVec.ofNat 64 (regAddr r)) v (some f)
     (∀ r f, (∀ r', forceOf r = some r' → exec (both r f) s = exec (w r) (writeReg .renine (regAddr r') f s).2) ∧
       (forceOf r = none → exec (both r f) s = exec (w r) s)) ∧
     (∀ n, exec (.mgtCtxMode a n v) s = exec (w (.ctxMode n)) s) ∧ (∀ c, exec (.meSplit a c v) s = exec (w (.meSplit c)) s) ∧
     (∀ c, exec (.meDbgCtrl a c v) s = exec (w (.dbgCtrl c)) s) ∧ (∀ c, exec (.eeSplit a c v) s = exec (w (.eeSplit c)) s) ∧
     (∀ c b, exec (.coreBankOwn a c b none v) s = exec (w (.bankOwn c b)) s ∧
       ∀ f, exec (.coreBankOwn a c b (some f) v) s =
         exec (w (.bankOwn c b)) (writeReg .renine (regAddr (.bankForce c b)) f s).2) ∧
     (∀ c b, exec (.coreBankForce a c b v) s = exec (w (.bankForce c b)) s) ∧
     (∀ c b, exec (.coreBankRepair a c b v) s = exec (w (.bankRepair c b)) s) ∧
     (∀ c h, exec (.dmaChan a c h v) s = exec (w (.dmaChan c h)) s) ∧ (∀ c, exec (.dmaAbort a c v) s = exec (w (.dmaAbort c)) s) ∧
     (∀ c e h, exec (.coreIpat a c e h v) s = exec (w (.ipat c e h)) s) ∧
     (∀ d n, exec (.dsptCtxLim a d n v) s = exec (w (.ctxLim d n)) s) ∧ (∀ d n, exec (.dsptDl a d n v) s = exec (w (.dl d n)) s) ∧
     exec (.indAlarm a v) s = exec (w .alarm) s ∧ exec (.pwrVf a v) s = exec (w .pwrVf) s ∧
     exec (.pwrLimit a v) s = exec (w .pwrLimit) s ∧ exec (.pwrState a v) s = exec (w .pwrState) s ∧
     exec (.sepFloor a v) s = exec (w .sepFloor) s ∧ (∀ n, exec (.release a n v) s = exec (w (.sepCtl n)) s) ∧
     (∀ d n, exec (.shdCtl a d n false v) s = exec (w (.shdCtl d n)) s ∧ exec (.shdCtl a d n true v) s = exec (w (.shdSeed d n)) s)) ∧
  (∀ (h : Hdr) (a v : Word) (s : State) (x : Session), regAt a.toNat = none →
     let status := if resolveAddr (devNum s) a.toNat = .refused then stDescBounds else stAddressFault
     (Served h true s x → exec (.regRead h a) s = .next (replyKept h 0x10 status [0] (notedAny h s))) ∧
     (Accepted h (.regWrite a v) s x → exec (.regWrite (.order h) a v none) s = .next (replyKept h 0x11 status [] (turned h s))) ∧
     exec (.regWrite .renine a v none) s = .next s)

/-- The owner divides a core's engines (R93, R94, R134, R135, R230, R273, R274): ME_SPLIT and EE_SPLIT take the written fields when
no context at work changes and the sums fit; CORE_IPAT takes the written slots when no context at work gains or loses one; DMA_CHAN
takes its fields when neither the old nor the new context is at work and the slices fit. Nothing else changes. -/
def Obligations.OwnerDividesTheEngines : Prop :=
  (∀ (h : Hdr) (c : CoreId) (v : Word) (s : State) (x : Session),
     let acc := BitVec.ofNat 32 (fld v 63 32)
     let que := BitVec.ofNat 32 (fld v 31 0)
     (ownerWrites h (.meSplit c) v s x →
       (∀ n : CtxId, nibble (s.core c).acc n.val ≠ nibble acc n.val ∨ nibble (s.core c).que n.val ≠ nibble que n.val → (s.ctx n).state = 0) →
       nibbleSum acc.toNat 0 ≤ 8 → nibbleSum que.toNat 0 ≤ 8 →
       exec (.meSplit (.order h) c v) s = .next (wrote h ((noted h s).modCore c fun k => { k with acc := acc, que := que }))) ∧
     (ownerWrites h (.eeSplit c) v s x →
       (∀ n : CtxId, nibble (s.core c).sets n.val ≠ nibble que n.val → (s.ctx n).state = 0) → nibbleSum que.toNat 0 ≤ 4 →
       exec (.eeSplit (.order h) c v) s = .next (wrote h ((noted h s).modCore c fun k => { k with sets := que })))) ∧
  (∀ (h : Hdr) (c : CoreId) (v : Word) (s : State) (x : Session),
     (∀ (e : Fin 4) (half : Fin 2), ownerWrites h (.ipat c e half) v s x →
       (∀ k < 16, let a := fld (regGet s (.ipat c e half)) (4 * k + 3) (4 * k); let b := fld v (4 * k + 3) (4 * k)
         a ≠ b → (a.testBit 3 = true → (s.ctx (ctxOf a)).state = 0) ∧ (b.testBit 3 = true → (s.ctx (ctxOf b)).state = 0)) →
       exec (.coreIpat (.order h) c e half v) s = .next (wrote h ((noted h s).modCore c fun k =>
         { k with ipat := upd k.ipat ⟨e.val * 2 + half.val, by omega⟩ fun _ => v }))) ∧
     (∀ ch : Fin 16, ownerWrites h (.dmaChan c ch) v s x →
       let cur := (s.core c).chan[ch.val]
       let new : DmaChan := { slices := BitVec.ofNat 8 (fld v 15 8), valid := bit v 3, ctx := ctxOf (fld v 2 0) }
       (cur ≠ new → (cur.valid = true → (s.ctx cur.ctx).state = 0) ∧ (new.valid = true → (s.ctx new.ctx).state = 0)) →
       ((List.finRange 16).map fun i : Fin 16 => if i = ch then fld v 15 8 else (s.core c).chan[i.val].slices.toNat).sum ≤ 64 →
       exec (.dmaChan (.order h) c ch v) s = .next (wrote h ((noted h s).modCore c fun k => { k with chan := upd k.chan ch fun _ => new }))))

/-- A bank's owner (R206, R213 to R217, R226): an accepted OWN or FORCE write names the new owner; a bank that leaves an owner is
being cleared (BUSY) and loses RETAIN, and the accesses of a running old owner go on until the change takes effect; a REPAIR write
names the spare columns. A cleared bank holds zeros and is no longer busy, and every other byte is unchanged; from the change on,
accesses are checked against the new owner. An access of an issued command (R52, R208, R216): while a bank of its ranges is being
cleared the command waits and nothing of it happens; where the context no longer owns a bank, the command faults with BANK_OWNER and
writes nothing, and a DMA channel stops with CAUSE 2 (R248). -/
def Obligations.BanksChangeOwnersAndAreCleared : Prop :=
  ((∀ (h : Hdr) (c : CoreId) (b : Fin 56) (v : Word) (s : State) (x : Session),
     let o := (s.core c).own[b.val]
     let valid := bit v 8
     let ctx := ctxOf (fld v 2 0)
     let leaves := o.valid && (!valid || o.ctx != ctx)
     let changes := o.valid != valid || (o.valid && valid && o.ctx != ctx)
     let new : BankOwn := { o with
       valid := valid, ctx := ctx, busy := leaves, retain := bit v 9 && !leaves
       arb := if changes && o.valid && (s.ctx o.ctx).state == 2 then some (some o.ctx) else o.arb }
     let fits := o.busy = false ∧ (valid = true → o.disabled = false) ∧ (bit v 9 = true → valid = true) ∧
       ((List.finRange 56).filter fun i => if i.val = b.val then bit v 9 else (s.core c).own[i.val].retain).length ≤ 8
     (ownerWrites h (.bankOwn c b) v s x → fits →
       (changes = true → (o.valid = true → (s.ctx o.ctx).state ≠ 2 ∧ bankBound s o.ctx (.spad c b.val) = false) ∧
         (valid = true → (s.ctx ctx).state ≠ 2)) →
       exec (.coreBankOwn (.order h) c b none v) s = .next (wrote h ((noted h s).modCore c fun k => { k with own := upd k.own b fun _ => new }))) ∧
     (fits → exec (.coreBankForce .renine c b v) s = .next (s.modCore c fun k => { k with own := upd k.own b fun _ => new })) ∧
     (repairBad (s.core c).repair[b.val] (BitVec.ofNat 48 (fld v 47 0)) = false →
       exec (.coreBankRepair .renine c b v) s = .next (s.modCore c fun k =>
         { k with repair := upd k.repair b fun _ => BitVec.ofNat 48 (fld v 47 0) }))) ∧
  (∀ (c : CoreId) (b : Fin 56) (s : State),
     let base := spadBase c.val + b.val * bankBytes
     ((s.core c).own[b.val].busy = true → ∃ t, exec (.clearDone base) s = .next t ∧ otherCores c s t ∧ t.ctxs = s.ctxs ∧
       t.core c = { s.core c with own := upd (s.core c).own b fun o => { o with busy := false, arb := none } } ∧
       ∀ a, t.byte a = if base ≤ a ∧ a < base + 0x80000 then 0 else s.byte a) ∧
     exec (.ownershipChange base) s = .next (s.modCore c fun k => { k with own := upd k.own b fun o => { o with arb := none } }))) ∧
  (∀ (n : CtxId) (thread cmd : Nat) (arb : List BankCycle) (s : State) (r : Run), findRun s n thread cmd = some r →
    working s n r.core = true → r.executed = false →
    let s1 := arbitrate arb s
    let stops (c : Instr) : Prop := ∃ t, exec c s = .next t ∧ (⟨flBankOwner, thread, cmd⟩ : FaultRec) ∈ (t.ctx n).v.faults ∧
      t.mem = s.mem ∧ otherCtxs n s t
    let asks (rs : List (Nat × Nat)) (c : Instr) : Prop :=
      (bankAnswer s1 n rs = .waits → exec c s = .next s1) ∧ (∀ a, bankAnswer s1 n rs = .foreign a → stops c)
    (∀ o, r.eng = .me → r.ops = .me o →
      (r.phase = 2 → pausedByRepeat s1 n r = false → (r.opcode = 0x10 → asks o.readRanges (.mm n thread cmd arb)) ∧
        (r.opcode = 0x11 → asks o.readRanges (.mmd n thread cmd arb))) ∧
      (mayJudge r = true → sInRange r.s = true → asks o.drainRanges (.drain n thread cmd arb))) ∧
    (∀ o k, r.eng = .ee → r.ops = .ee o → r.opcode = 0x20 → r.phase = 0 ∨ r.phase = 7 → asks o.ranges (.ep n thread cmd k arb)) ∧
    (∀ o k, r.eng = .le → r.ops = .le o → (r.opcode = 0x30 → asks o.ranges (.lxpose n thread cmd k arb)) ∧
      (r.opcode = 0x31 → asks o.ranges (.lgather n thread cmd k arb)) ∧ (r.opcode = 0x32 → asks o.ranges (.lconv n thread cmd k arb)) ∧
      (r.opcode = 0x33 → asks o.ranges (.lseal n thread cmd arb)) ∧
      (r.opcode = 0x3C → r.lent = true ∨ settled s1 n r.lctr = true → asks o.ranges (.lctr n thread cmd arb))) ∧
    (∀ o, r.eng = .re → r.ops = .re o → 0x50 ≤ r.opcode → r.opcode ≤ 0x59 → asks o.ranges (reCommand r.opcode n thread cmd arb)) ∧
    (∀ xs, r.eng = .dma → r.ops = .copy xs → r.opcode = 0x60 → chanHead s r = true →
      let p : DmaPart := r.part.getD { idx := 0, bytes := 0, ref := wd r.body 1 }
      let held := (heldBytes ((s1.core (coreOf r.core)).dma[r.chan.val]).hold).length
      let rest := xs.drop p.idx
      let src := restParts (·.src) (p.seen.length + held) rest
      let dst := restParts (·.dst) p.seen.length rest
      readyDescs s1 n p.seen.length held rest = rest.length → partsWait s1 n src dst = false → copyOver (s1.ctx n) dst = none →
      let rs := (src ++ dst).filterMap fun y => y.1.range
      (bankAnswer s1 n rs = .waits → exec (.dcopy n thread cmd none arb) s = .next s1) ∧
      (∀ a, bankAnswer s1 n rs = .foreign a → stops (.dcopy n thread cmd none arb) ∧ ∀ t, exec (.dcopy n thread cmd none arb) s = .next t →
        let d := (t.core (coreOf r.core)).dma[r.chan.val]
        d.state = 4 ∧ d.cause = 2 ∧ d.queue = [] ∧ d.hold = [])) ∧
    (∀ o, r.eng = .xe → r.ops = .xe o →
      let s2 := takePins n thread (((r.body.drop 2).take 5).map Ref.ofWord) s1
      let asks (c : Instr) : Prop :=
        (bankAnswer s2 n o.ranges = .waits → exec c s = .next s2) ∧ (∀ a, bankAnswer s2 n o.ranges = .foreign a → stops c)
      (r.opcode = 0x70 → asks (.xsend n thread cmd arb)) ∧ (r.opcode = 0x71 → asks (.xret n thread cmd arb)) ∧
      (r.opcode = 0x72 → asks (.xblk n thread cmd arb))))

/-- The registers of a context (R38, R39, R277, R279, R461): LOOSE and BORROW while it is empty, PRIV by the Renine
controller, the table and residence limits within the die's sums, the deadlines, and the Shade fraction and seed; nothing else
of the device changes. -/
def Obligations.OwnerSetsContextRegisters : Prop :=
  ∀ (h : Hdr) (n : CtxId) (d : DieId) (v : Word) (s : State) (x : Session),
    (ownerWrites h (.ctxMode n) v s x → (s.ctx n).state = 0 → bit v 2 = (s.ctx n).priv →
      exec (.mgtCtxMode (.order h) n v) s = .next (wrote h ((noted h s).modCtx n fun c => { c with loose := bit v 0, borrow := bit v 1 }))) ∧
    ((s.ctx n).state = 0 → bit v 0 = (s.ctx n).loose → bit v 1 = (s.ctx n).borrow →
      (allCtxIds.filter fun m => (s.ctx m).priv).length < 2 →
      exec (.mgtCtxMode .renine n v) s = .next (s.modCtx n fun c => { c with priv := bit v 2 })) ∧
    (ownerWrites h (.ctxLim d n) v s x → (s.ctx n).state = 0 →
      (allCtxIds.map fun m => if m = n then fld v 46 32 else (s.die d).lim[m.val].table.toNat).sum ≤ 16384 →
      (allCtxIds.map fun m => if m = n then fld v 5 0 else (s.die d).lim[m.val].resident.toNat).sum ≤ 48 →
      exec (.dsptCtxLim (.order h) d n v) s = .next (wrote h ((noted h s).modDie d fun k => { k with
        lim := upd k.lim n fun _ => { table := BitVec.ofNat 15 (fld v 46 32), resident := BitVec.ofNat 6 (fld v 5 0) } }))) ∧
    (ownerWrites h (.dl d n) v s x →
      exec (.dsptDl (.order h) d n v) s = .next (wrote h ((noted h s).modCtx n fun c => { c with dl := { c.dl with
          waitLimit := BitVec.ofNat 16 (fld v 63 48), deadline := BitVec.ofNat 24 (fld v 47 24)
          fbHold := BitVec.ofNat 8 (fld v 23 16), fbEn := bit v 1 } }))) ∧
    (ownerWrites h (.shdCtl d n) v s x → fld v 2 0 < 5 →
      exec (.shdCtl (.order h) d n false v) s = .next (wrote h ((noted h s).modCtx n fun c =>
        { c with sel := { c.sel with fraction := BitVec.ofNat 3 (fld v 2 0) } }))) ∧
    (ownerWrites h (.shdSeed d n) v s x →
      exec (.shdCtl (.order h) d n true v) s = .next (wrote h ((noted h s).modCtx n fun c => { c with sel := { c.sel with seed := v } })))

/-- The Sepia registers (R452 to R454, R456): FLOOR rises to a record boundary between FLOOR and HEAD and STALL takes its bit, and the
closed records that waited for room follow; SEP_CTL takes its fields and its RELEASE bit ends a checkpoint hold, which gives the
held buffers back to the shards that lack an alternate. -/
def Obligations.OwnerMovesFloorAndReleasesHold : Prop :=
  ∀ (h : Hdr) (n : CtxId) (v : Word) (s : State) (x : Session),
    (ownerWrites h .sepFloor v s x → s.sep.floor.toNat ≤ v.toNat → v.toNat ≤ s.sep.head.toNat → v.toNat % 64 = 0 →
      exec (.sepFloor (.order h) v) s = .next (wrote h (publishWaiting { noted h s with
        sep := { s.sep with floor := v, index := s.sep.index.filter fun e => decide (v.toNat ≤ e.1) } }))) ∧
    (ownerWrites h .sepRing v s x →
      exec (.regWrite (.order h) (BitVec.ofNat 64 (regAddr .sepRing)) v none) s =
        .next (wrote h (publishWaiting { noted h s with sep := { s.sep with stall := bit v 0 } }))) ∧
    ((∀ m, (s.ctx m).shut = []) → publishWaiting s = s) ∧
    (∀ r, (∀ m, (s.ctx m).shut = if m = n then [r] else []) → r.whole = true → s.sep.stall = true →
      ringFits s r.bytes.length = true →
      publishWaiting s = ringWrite r.bytes (s.modCtx n fun c => { c with shut := [] })) ∧
    (ownerWrites h (.sepCtl n) v s x →
      let u : State := { noted h s with sep := { s.sep with
          every := upd s.sep.every n fun _ => BitVec.ofNat 32 (fld v 63 32), fineEn := upd s.sep.fineEn n fun _ => bit v 1
          held := upd s.sep.held n fun b => b && !bit v 0 } }
      exec (.release (.order h) n v) s = .next (wrote h (fillAlts n u)) ∧
      ((fillAlts n u).ctx n).w.shards = (s.ctx n).w.shards.map fun y =>
        if y.alt = none then { y with alt := chooseAlt u n y } else y)

/-- Set points, limit, state request and alarm (R379, R502, R503, R505, R515): a set point that the other value cannot carry yet
is held; a limit lies between 1,800 and BOARD_MAX; a request for each of the four states is accepted exactly where R515 does not
refuse it, for Grey with no context in STATE 2 to 4 and no plan that touches the device, and leaves the device in transition unless it
is there; an alarm that is not later than NS fires at once when EN is 1. -/
def Obligations.PowerAndAlarmWrites : Prop :=
  ∀ (h : Hdr) (v : Word) (s : State) (x : Session),
    ((∀ lo, lo = 48 ∨ lo = 56 → 120 ≤ fld v (lo + 7) lo ∧ fld v (lo + 7) lo ≤ 170) → fld v 47 44 ≤ 4 →
      let need := setPoint s.pwr.fLevel.toNat
      let needF := setPoint (fld v 47 44)
      let d1 := BitVec.ofNat 8 (fld v 63 56)
      let d0 := BitVec.ofNat 8 (fld v 55 48)
      let carries := need ≤ fld v 63 56 ∧ need ≤ fld v 55 48
      let carried := needF ≤ s.pwr.vD1.toNat ∧ needF ≤ s.pwr.vD0.toNat
      exec (.pwrVf .renine v) s = .next { s with pwr := { s.pwr with
        vD1 := if carries then d1 else s.pwr.vD1, vD0 := if carries then d0 else s.pwr.vD0
        heldV := if carries then none else some { d1, d0, at_ := nsNow s }
        fLevel := if carried then BitVec.ofNat 4 (fld v 47 44) else s.pwr.fLevel
        heldF := if carried then none else some (BitVec.ofNat 4 (fld v 47 44), nsNow s), heldCad := false, heldReady := false } }) ∧
    (ownerWrites h .pwrLimit v s x → 1800 ≤ fld v 31 16 → fld v 31 16 ≤ s.pwr.boardMax.toNat →
      exec (.pwrLimit (.order h) v) s = .next (wrote h { noted h s with pwr := { s.pwr with limit := BitVec.ofNat 16 (fld v 31 16) } })) ∧
    (let req := fld v 1 0
     let now := s.pwr.now.toNat
     ownerWrites h .pwrState v s x → s.pwr.busy = false → (1 ≤ req → ∀ n, (s.ctx n).state ≠ 2) →
      (req = 2 → ∀ n, (s.ctx n).state ≠ 3 ∧ (s.ctx n).state ≠ 4 ∧ (s.ctx n).x.plan.any (planTouches s) = false) →
      (req ≤ 1 → now ≤ 1) → (req = 2 → now ≠ 3) →
      exec (.pwrState (.order h) v) s = .next (wrote h { noted h s with pwr := { s.pwr with
        busy := decide (req ≠ now), req := BitVec.ofNat 2 req
        trans := if req = now then .none else match req with | 0 => .dimOut | 1 => .dimIn | 2 => .greyIn false | _ => .blackIn
        greyAsked := if req = 2 then frameNow s else s.pwr.greyAsked
        retainMark := if req = 2 then allCoreIds.flatMap fun c =>
            ((List.finRange 56).filter fun b => (s.core c).own[b.val].retain).map fun b => (c, b.val)
          else s.pwr.retainMark } })) ∧
    (ownerWrites h .alarm v s x → (s.ind.alarmEn = true → nsNow s < v.toNat) →
      exec (.indAlarm (.order h) v) s = .next (wrote h { noted h s with ind := { s.ind with alarmAt := v } })) ∧
    (ownerWrites h .alarm v s x → s.ind.alarmEn = true → v.toNat ≤ nsNow s →
      exec (.indAlarm (.order h) v) s = .next (wrote h (fireAlarm { noted h s with ind := { s.ind with alarmAt := v } })))

/-- Inspection and abort (R126, R247, R250): EN inspects a halted context; an abort, accepted for channels whose context is faulted, or
halted with no resume under way, stops each named channel that is not idle with CAUSE 1 and an empty queue, records how far the head
command of each came, drops its commands and leaves the other channels as they were; a channel that had stopped before keeps that residue. -/
def Obligations.OwnerInspectsAndAborts : Prop :=
  ∀ (h : Hdr) (c : CoreId) (v : Word) (s : State) (x : Session),
    (ownerWrites h (.dbgCtrl c) v s x → (bit v 0 = true → (s.ctx (ctxOf (fld v 6 4))).state = 3) →
      exec (.meDbgCtrl (.order h) c v) s = .next (wrote h ((noted h s).modCore c fun k =>
        { k with dbgCtx := ctxOf (fld v 6 4), dbgEn := bit v 0 }))) ∧
    (ownerWrites h (.dmaAbort c) v s x →
      (∀ i : Fin 16, bit v i.val = true → let k := s.ctx (s.core c).chan[i.val].ctx
        (s.core c).chan[i.val].valid = true ∧ (k.state = 4 ∨ (k.state = 3 ∧ (k.v.resumeAt = none ∨ k.v.toReplay = true)))) →
      ∃ t, exec (.dmaAbort (.order h) c v) s = .next t ∧ otherCores c s t ∧ t.mem = s.mem ∧ t.sep = s.sep ∧ sameUnits s t ∧
        (∀ i : Fin 16, bit v i.val = true → (s.core c).dma[i.val].state = 4 →
          (t.core c).dma[i.val] = { (s.core c).dma[i.val] with cause := 1 }) ∧
        (∀ i : Fin 16, bit v i.val = true → (s.core c).dma[i.val].state ≠ 0 → (s.core c).dma[i.val].state ≠ 4 →
          let d := (s.core c).dma[i.val]
          let n := (s.core c).chan[i.val].ctx
          (∀ y ∈ d.queue, findRun t n y.1 y.2 = none) ∧
          ∃ p : DmaPart, (t.core c).dma[i.val] = { d with state := 4, cause := 1, cmd := 0, queue := [], hold := [], pendingWins := [],
                                                          ref := p.ref, bytes := BitVec.ofNat 40 p.bytes, index := BitVec.ofNat 16 p.idx } ∧
            ∀ y q, d.queue.head? = some y → findRun s n y.1 y.2 = some q →
              (∀ j : Fin 16, bit v j.val = true → j ≠ i → y ∉ (s.core c).dma[j.val].queue) →
              p = q.part.getD { idx := 0, bytes := 0, ref := if q.opcode = 0x60 then wd q.body 1 else 0 }) ∧
        (∀ i : Fin 16, ¬ (bit v i.val = true ∧ (s.core c).dma[i.val].state ≠ 0) → (t.core c).dma[i.val] = (s.core c).dma[i.val]))

/-- Any station with an open session reads (R35, R50, R349, R451, R494, R536, R540, R545, R546, R568, R569): a register's value, a
read of IND_NOW_NS also latching the position and the epoch; the figures of R50; published results; the journal between FLOOR and HEAD;
stored Rust records; the attestation report and the certificates. -/
def Obligations.AnyStationReadsStateAndResults : Prop :=
  (∀ (h : Hdr) (s : State) (x : Session), Served h true s x →
     let e := notedOk h s
     (∀ (a : Word) (r : Reg), regAt a.toNat = some r → r ≠ .indNs →
       exec (.regRead h a) s = .next (replyKept h 0x10 stOk [regGet e r] e)) ∧
     exec (.indNowNs h) s = .next (replyKept h 0x10 stOk [s.ind.ns] { e with ind := { s.ind with
       pos := put s.ind.frac.toNat 48 ||| put (posAt s (nsNow s)).2 46 ||| put (posAt s (nsNow s)).1 32 ||| put s.ind.frame.toNat 0
       epochL := put s.ind.epoch.toNat 0 } }) ∧
     ∃ rest, exec (.query h) s = .next (replyKept h 0x12 stOk
       ([0x1C00000, 56, 0x80000, 64, 0x1800000, 48, 0x80000, 0x4000000, 48, 16384, 128, 128, 8, 16, 8, 2, 3968, 4096, 128, 608] ++ rest) e)) ∧
  (∀ (h : Hdr) (s : State) (x : Session),
     let e := notedOk h s
     (∀ (win off len seq : Nat) (w : HostWin), Served h false s x → anyWin s win = some w → w.dir = true → w.state = 2 →
       len ≤ 8136 → off + len ≤ w.len → seq = 0 ∨ seq = w.readySeq →
       exec (.pubRead h win off len seq) s = .next (replyKept h 0x40 stOk
         (BitVec.ofNat 64 w.readySeq :: bytesToWords (s.readB (w.base + off) len)) e)) ∧
     (∀ (off len base : Nat), Served h false s x → s.sep.base = some base → len ≤ 8144 → s.sep.floor.toNat ≤ off →
       off + len ≤ s.sep.head.toNat →
       exec (.journalRead h off len) s = .next (replyKept h 0x42 stOk (bytesToWords (ringGet s base (ringSize s) off len)) e)) ∧
     (∀ (seq : Nat) (r : RustRec), Served h true s x → s.rust.store.find? (fun r => r.seq == seq) = some r →
       exec (.rustRead h seq) s = .next (replyKept h 0x44 stOk (bytesToWords (padMul 8 r.cbor)) e)) ∧
     (∀ nonce : List Byte, Served h (s.boot.phase == 7) s x → nonce.length = 32 →
       exec (.attest h nonce) s = .next (replyKept h 0x64 stOk (attestEffect nonce s).2.1 e)) ∧
     (Served h (s.boot.phase == 7) s x →
       exec (.certRead h) s = .next (replyKept h 0x65 stOk (bytesToWords (padMul 8 certChain)) e)))

/-- Only the owner's orders take effect (R536, R537, R552, R563): an order of another station with an open session is refused with
NOT_OWNER and changes nothing but the message sent, unless it repeats one that was applied (R538); a message marked any is answered
for every station with an open session; the owner's order with a SEQ not above the highest applied is refused with STALE_SEQ, and one
that the power state or an unfinished boot does not serve is refused, and neither changes anything but the message sent. That
NOT_OWNER is judged before STALE_SEQ, that a refused order leaves the lease, and that a message marked any raises the highest SEQ are
the model's readings (log entry 11). -/
def Obligations.OnlyTheOwnerGivesOrders : Prop :=
  (∀ (h : Hdr) (s : State) (x : Session), hears s h.via = true → sessionOf s h.station = some x → keptReply x h = none →
     (s.host.owner ≠ some h.station → ∀ o : Order,
       exec (orderCommand h o) s = .next (s.emit (replyMsg s x h (orderType o) stNotOwner []))) ∧
     (∀ (c : Instr) (type : Nat), anyMessage c = some (h, type) → stateRefusal s false = 0 →
       ∃ status words u, exec c s = .next (replyKept h type status words u) ∧
         sessionOf u h.station = some { x with high := max x.high h.seq })) ∧
  (∀ (h : Hdr) (o : Order) (s : State) (x : Session), hears s h.via = true → sessionOf s h.station = some x → keptReply x h = none →
     s.host.owner = some h.station →
     (h.seq ≤ x.high → exec (orderCommand h o) s = .next (s.emit (replyMsg s x h (orderType o) stStaleSeq []))) ∧
     (x.high < h.seq → stateRefusal s (orderDark o) ≠ 0 →
       exec (orderCommand h o) s = .next (s.emit (replyMsg s x h (orderType o) (stateRefusal s (orderDark o)) []))))

/-- A request that repeats the SEQ of one of the station's last 64 applied messages receives a copy of the original reply and
is not applied again (R538): an applied request keeps its reply, the station's latest 64 are kept, and a repeat of an owner's
order or of a message marked any sends the kept words and changes nothing but the sender's own lease; that a repeat extends that
lease is the model's reading (log entry 11). -/
def Obligations.RepeatedRequestsGetACopyOfTheReply : Prop :=
  ∀ (h : Hdr) (s : State) (x : Session), hears s h.via = true → sessionOf s h.station = some x →
    (∀ type status words, ∃ y, sessionOf (replyKept h type status words s) h.station = some y ∧
      y.recent = ((h.seq, keptWords h type status words) :: x.recent).take 64 ∧
      keptReply y h = some (keptWords h type status words)) ∧
    (∀ ws, keptReply x h = some ws →
      let t := resendReply h.via x ws (extendLease h.station (nsNow s) s)
      (∀ o : Order, exec (orderCommand h o) s = .next t) ∧ (∀ (c : Instr) (type : Nat), anyMessage c = some (h, type) → exec c s = .next t))

/-- A datagram of a station without an open session, one whose marks or length are wrong, or one whose tag fails is discarded without
reply and counted in BAD_MSG, which saturates, and nothing else changes; one that passes these checks and breaks another rule of its
fields or body is answered with BAD_MESSAGE (R527); what a port of an off domain receives changes nothing (R525, log entry 59). -/
def Obligations.BadDatagramsAreDiscardedAndCounted : Prop :=
  (∀ (h : Hdr) (s : State),
     let t := { s with host := { s.host with badMsg := if s.host.badMsg = 0xFFFF then 0xFFFF else s.host.badMsg + 1 } }
     (hears s h.via = true → sessionOf s h.station = none → (∀ o : Order, exec (orderCommand h o) s = .next t) ∧
       (∀ (c : Instr) (type : Nat), anyMessage c = some (h, type) → exec c s = .next t)) ∧
     (hears s h.via = false → (∀ o : Order, exec (orderCommand h o) s = .next s) ∧
       (∀ (c : Instr) (type : Nat), anyMessage c = some (h, type) → exec c s = .next s))) ∧
  (∀ (v : Via) (bs : List Byte) (s : State),
     let t := { s with host := { s.host with badMsg := if s.host.badMsg = 0xFFFF then 0xFFFF else s.host.badMsg + 1 } }
     let ws := bytesToWords (bs.take 32)
     let w0 := wd ws 0
     let len := fld w0 15 0
     let type := fld w0 39 32
     let h : Hdr := { station := ⟨fld w0 31 28 % 16, Nat.mod_lt _ (by decide)⟩, seq := (wd ws 1).toNat, via := v }
     let framed := fld w0 63 48 = 0x5A59 ∧ fld w0 47 40 = 1 ∧ bs.length = 48 + len
     let sound := fld w0 27 16 = 0 ∧ wd ws 2 = 0 ∧ wd ws 3 = 0 ∧ h.seq ≠ 0 ∧ len % 8 = 0 ∧ len ≤ 8144
     let body := (bs.drop 32).take len
     (hears s v = false → exec (.discardedDatagram v bs) s = .next s) ∧
     (hears s v = true → (¬ framed → exec (.discardedDatagram v bs) s = .next t) ∧
       (framed → type ≠ 0x01 → type ≠ 0x82 →
         (sessionOf s h.station = none → exec (.discardedDatagram v bs) s = .next t) ∧
         ∀ x, sessionOf s h.station = some x →
           (bs.drop (32 + len) ≠ tagOf x.key (bs.take (32 + len)) → exec (.discardedDatagram v bs) s = .next t) ∧
           (bs.drop (32 + len) = tagOf x.key (bs.take (32 + len)) →
             ¬ (sound ∧ bodyFits type (bytesToWords body) = true) →
             exec (.discardedDatagram v bs) s = .next (s.emit (replyMsg s x h type stBadMessage [])))) ∧
       (framed → type = 0x01 →
         ((∃ b ∈ bs.drop (32 + len), b ≠ 0) → exec (.discardedDatagram v bs) s = .next t) ∧
         ((∀ b ∈ bs.drop (32 + len), b = 0) → ¬ (sound ∧ sessionFits body = true) →
           exec (.discardedDatagram v bs) s = .next (sessionBad v h.station h.seq s)))))

/-- A session opens for a station whose key and signature pass (R529, R531): the new session replaces the station's earlier one with
SEQ restarted, ownership stays, and the reply with the cipher text and the device's signature goes out under the new session's key. A
SESSION whose key or signature does not pass is discarded and counted, and one whose fields have other lengths is answered with
BAD_MESSAGE and no session opens: that, and the key of an encapsulation as a free value, are the model's choices (log entry 11). -/
def Obligations.SessionsOpenForListedKeys : Prop :=
  ∀ (v : Via) (st : StationId) (pk ek sig : List Byte) (s : State),
    let form := pk.length = 1793 ∧ ek.length = 1568 ∧ 1 ≤ sig.length ∧ sig.length ≤ 1280
    let head := padTo 1800 pk ++ ek
    let good := mayOpen s st (bytesToWords (shake256 32 pk)) = true ∧ Config.falconVerify pk (shake256 32 head) sig = true
    (hears s v = false → exec (.session v st pk ek sig) s = .next s) ∧
    (hears s v = true → ¬ form → exec (.session v st pk ek sig) s = .next (sessionBad v st 1 s)) ∧
    (hears s v = true → form → ¬ good → exec (.session v st pk ek sig) s = .next (discard s)) ∧
    (hears s v = true → form → good →
      let key := bytesToWords ((List.range 32).map (Config.kemSecret ek s.free))
      let cipher := (List.range 1568).map (Config.kemCipher ek s.free)
      let mine := signature (shake256 32 (head ++ cipher))
      let body := bytesToWords (cipher ++ leBytes 8 mine.length ++ padMul 8 mine)
      let hdr := zyndyHeader 0x01 st.val (8 * body.length) 1 stOk
      ∃ t, exec (.session v st pk ek sig) s = .next t ∧ t.pwr = s.pwr ∧ t.ind = s.ind ∧ sameWork s t ∧ t.host.owner = s.host.owner ∧
        t.free = s.free + 1 ∧ t.host.badMsg = s.host.badMsg ∧ (∀ z, z ≠ st → sessionOf t z = sessionOf s z) ∧
        sessionOf t st = some { station := st, key, via := v } ∧
        t.out = .zyndy v (srcAddr s v) st hdr body (zyndyTag key hdr body) :: s.out)

/-- Claims and elections (R533, R534): a claim stays pending in place of the station's earlier one; with no owner the first opens an
election window of 100 ms, under a lease it is refused with OWNED and stays, above the station's ceiling it is refused. At the end
of the window, and at the lapse of a lease, the pending claim with the highest priority wins, between equals the lowest station,
with a fresh lease of 2,000 ms; a claim ends after 5,000 ms. -/
def Obligations.ClaimsAndElectionsGiveOwnership : Prop :=
  (∀ (h : Hdr) (prio : Nat) (s : State) (x : Session), Served h true s x →
     let e := notedAny h s
     let claims := (s.host.claims.filter fun c => c.station != h.station) ++ [{ station := h.station, prio, at_ := nsNow s }]
     let low := prio ≤ 255 ∧ prio ≤ ceilingOf s h.station
     (¬ low → exec (.claim h prio) s = .next (replyKept h 0x02 stBadMessage [] e)) ∧
     (low → s.host.owner = none → exec (.claim h prio) s = .next (replyKept h 0x02 stOk [] { e with host := { e.host with
       claims, electionAt := some (s.host.electionAt.getD (nsNow s + 100000000)) } })) ∧
     (low → s.host.owner ≠ none → exec (.claim h prio) s = .next (replyKept h 0x02 stOwned [] { e with host := { e.host with claims } }))) ∧
  (∀ (s : State) (c : Claim),
     let wins := c ∈ s.host.claims ∧ nsNow s < c.at_ + 5000000000 ∧ (∀ d ∈ s.host.claims, nsNow s < d.at_ + 5000000000 → d ≠ c →
       d.prio < c.prio ∨ (d.prio = c.prio ∧ c.station.val < d.station.val))
     let granted (t : State) : Prop := t.host.owner = some c.station ∧ t.host.leaseEnd = nsNow s + 2000000000 ∧
       t.host.changes = satAdd s.host.changes 1 ∧ t.host.claims = s.host.claims.filter (fun d => some d.station != some c.station) ∧
       t.pwr = s.pwr ∧ t.ind = s.ind ∧ sameWork s t
     (∀ t0, s.host.electionAt = some t0 → t0 ≤ nsNow s → s.host.owner = none → wins →
       ∃ t, exec .electionWindowEnd s = .next t ∧ t.host.electionAt = none ∧ granted t) ∧
     (s.host.owner ≠ none → s.host.leaseEnd ≤ nsNow s → wins → ∃ t, exec .leaseLapse s = .next t ∧ granted t) ∧
     (s.host.owner ≠ none → s.host.leaseEnd ≤ nsNow s → s.host.claims = [] →
       ∃ t, exec .leaseLapse s = .next t ∧ t.host.owner = none ∧ sameWork s t) ∧
     (∀ st, exec (.claimExpiry st) s = .next { s with host := { s.host with
       claims := s.host.claims.filter fun d => d.station != st || decide (nsNow s < d.at_ + 5000000000) } }))

/-- The owner's orders on ownership, events, wakes and publications (R519, R520, R534, R535, R545, R547): RENEW keeps a lease of at
least 2,000 ms, HANDOVER makes a station with an open session owner, RELEASE_OWN leaves ownership vacant, a change counts and raises
OWNER_CHANGE; EVENT_ACK frees the events up to its number, and events that were lost to a full list are then reported by
EVENTS_DROPPED once there is room, WAKE sends wake cells in the next frame, LOCAL_WAKE starts the way back to
Bright, PUB_RELEASE opens a published window again. -/
def Obligations.OwnerMovesOwnershipEventsAndWakes : Prop :=
  (∀ (h : Hdr) (s : State) (x : Session),
     let change (new : Option StationId) (cause : Nat) (t : State) : Prop := t.host.owner = new ∧ t.host.changes = satAdd s.host.changes 1 ∧
       (∃ e, e ∈ t.host.events ∧ e.code = evOwnerChange ∧ fld (wd e.detail 0) 23 16 = cause) ∧ t.pwr = s.pwr ∧ sameWork s t
     (Accepted h .renew s x → ∃ t, exec (.renew h) s = .next t ∧ t.host.owner = some h.station ∧
       nsNow s + 2000000000 ≤ t.host.leaseEnd ∧ s.host.leaseEnd ≤ t.host.leaseEnd ∧ sameWork s t) ∧
     (∀ (st : StationId) (y : Session), Accepted h (.handover st.val) s x → sessionOf s st = some y → st ≠ h.station →
       ∃ t a b, exec (.handover h st.val) s = .next t ∧ change (some st) 1 t ∧ t.host.leaseEnd = nsNow s + 2000000000 ∧
         t.out = .zyndy (eventVia s y) (srcAddr s (eventVia s y)) st a [] b :: replyMsg s x h 0x04 stOk [] :: s.out) ∧
     (Accepted h .releaseOwn s x → ∃ t, exec (.releaseOwn h) s = .next t ∧ change none 2 t)) ∧
  (∀ (h : Hdr) (s : State) (x : Session),
     (∀ seq, Accepted h (.eventAck seq) s x →
       let left := s.host.events.filter fun e => decide (seq < e.seq)
       let u := noted h s
       (s.host.lost = 0 ∨ 4096 ≤ left.length → exec (.eventAck h seq) s =
         .next (replyKept h 0x51 stOk [] { u with host := { u.host with events := left } })) ∧
       (s.host.lost ≠ 0 → left.length < 4096 → exec (.eventAck h seq) s = .next (replyKept h 0x51 stOk []
         (raiseEvent evEventsDropped none [put s.host.lost 0] { u with host := { u.host with events := left, lost := 0 } })))) ∧
     (∀ target all, Accepted h (.wake target all) s x → target < 2 ^ 15 → s.pwr.now ≠ 3 → exec (.wake h target all) s =
       .next (replyKept h 0x50 stOk [] { noted h s with pwr := { s.pwr with wakeSend := some (target, all, frameNow s + 1) } })) ∧
     (∀ clear, Accepted h (.localWake clear) s x → seqStopped s = false → s.pwr.now = 1 ∨ s.pwr.now = 2 → s.pwr.trans = .none →
       ∃ t, exec (.localWake h clear) s = .next t ∧ t.pwr = { s.pwr with
         trans := (if s.pwr.now = 1 then .dimOut else .greyOut false), busy := true, req := 0, wakeCause := 2 } ∧ sameWork s t ∧
         t.sup = (if clear then { s.sup with faults := 0 } else s.sup)) ∧
     (∀ win seq w, Accepted h (.pubRelease win seq) s x → anyWin s win = some w → w.dir = true → w.state = 2 → seq = w.readySeq →
       exec (.pubRelease h win seq) s = .next (replyKept h 0x41 stOk []
         (let u := noted h s; { u with host := { u.host with
           windows := modFirst (fun y => y.win == win) (fun y => { y with state := 0 }) s.host.windows } }))))

/-- The orders that prepare a context (R32, R39, R473, R543, R600): ASSIGN gives it aligned ranges of populated memory, PRIVILEGE
sets PRIV, QUARANTINE quarantines a core and records it, and WINDOW registers bytes that lie in the context's ranges as a host window
and answers its key; a base in
the device's own remote form is the local address. -/
def Obligations.OwnerPreparesContexts : Prop :=
  ∀ (h : Hdr) (n : CtxId) (s : State) (x : Session),
    (∀ rs0 : List (Nat × Nat), Accepted h (.assign n rs0) s x → rs0.length ≤ 8 → (s.ctx n).state = 0 →
      let rs := rs0.map fun r => (localBase s r.1, r.2)
      (∀ r ∈ rs, r.1 % 0x200000 = 0 ∧ r.2 % 0x200000 = 0 ∧ dramRange s r.1 r.2 = true ∧ ringOverlap s r.1 r.2 = false ∧
        ∀ m, m ≠ n → ∀ q ∈ (s.ctx m).ranges, overlap r.1 (r.1 + r.2) q.1 (q.1 + q.2) = false) →
      rs.Pairwise (fun a b => overlap a.1 (a.1 + a.2) b.1 (b.1 + b.2) = false) →
      exec (.assign h n rs0) s = .next (replyKept h 0x27 stOk [] ((noted h s).modCtx n fun c => { c with ranges := rs }))) ∧
    (∀ p : Bool, Accepted h (.privilege n p) s x → (s.ctx n).state = 0 →
      (p = true → (allCtxIds.filter fun m => m != n && (s.ctx m).priv).length < 2) →
      exec (.privilege h n p) s = .next (replyKept h 0x28 stOk [] ((noted h s).modCtx n fun c => { c with priv := p }))) ∧
    (∀ c : CoreId, Accepted h (.quarantine c.val) s x → (s.core c).quarantined = false →
      ∃ t, exec (.quarantine h c.val) s = .next t ∧ (t.core c).quarantined = true ∧ ((∀ m, boundOn (s.ctx m) c.val = true → attemptPending (s.ctx m) = true) → t.mem = s.mem) ∧
        ∃ q, q ∈ t.rust.pending ∧ q.kind = ruOwnerQuarantine ∧ q.core = some c.val) ∧
    (∀ (win base0 len pub : Nat) (dir : Bool), Accepted h (.window win n base0 len dir pub) s x → win < (if dir then 2 ^ 20 else 2 ^ 22) →
      pub < 2 ^ 20 → let base := localBase s base0
      base % 0x200000 = 0 → len % 0x200000 = 0 → 0 < len → (∀ a, base ≤ a → a < base + len → ∃ r ∈ (s.ctx n).ranges, r.1 ≤ a ∧ a < r.1 + r.2) →
      anyWin s win = none →
      exec (.window h win n base0 len dir pub) s = .next (replyKept h 0x30 stOk [Config.remoteKey s.free]
        (let u := noted h s; { u with free := s.free + 1, host := { u.host with windows := (s.host.windows.filter fun y => y.win != win) ++
          [{ win, ctx := n, base, len, dir, pubCtr := if dir then pub else 0, rkey := Config.remoteKey s.free }] } })))

/-! ### The job's orders -/

/-- A refused order has no effect but its reply: every owner's order whose status is not OK leaves the state it met with its SEQ
noted, and the lease as it was (R527, R534, R536, R590), but for ADMIT (whose windows are marked not admitted, R433), LOCAL_WAKE (which
clears the count first, R521) and PROG_END (which reports the failed check, R566); an order whose effect answers OK has that effect in
the state with its lease extended. That a refused order's SEQ is noted and its reply kept is the model's reading (log entry 11). -/
def Obligations.RefusedOrdersChangeNothing : Prop :=
  ∀ (h : Hdr) (o : Order) (s : State) (x : Session), Accepted h o s x →
    ((orderEffect h o (noted h s)).1 = stOk → exec (orderCommand h o) s = .next (replyTarget h o stOk
      (replyKept h (orderType o) stOk (orderEffect h o (noted h s)).2.1 (orderEffect h o (noted h s)).2.2))) ∧
    ((∀ n m ws, o ≠ .admitSet n m ws) → (∀ c, o ≠ .localWake c) → o ≠ .progEnd →
      ∃ status words u, exec (orderCommand h o) s = .next (replyTarget h o status (replyKept h (orderType o) status words u)) ∧
        (status ≠ stOk → u = turned h s))

/-- LOAD, TRANSIT_LOAD and START bring a context's work (R252, R394, R542): a LOAD whose image, binding and checks pass leaves the
context in STATE 1 with its job bound and its first step; a TRANSIT_LOAD whose image passes keeps the STATE; a START whose checks pass
brings STATE 2 with the first frame E × 65,536 + 1. A refused one changes nothing but the reply. -/
def Obligations.LoadAndStartBringAContextToWork : Prop :=
  ∀ (h : Hdr) (n : CtxId) (s : State) (x : Session),
    (∀ win seed first, Accepted h (.load n win seed first) s x →
      (∃ status u, exec (.load h n win seed first) s = .next (replyKept h 0x20 status [] u) ∧ (status ≠ stOk → u = turned h s)) ∧
      ∀ (w : HostWin) (j0 : Job) (b : Binds), (s.ctx n).state = 0 → s.sep.base.isSome = true → hostWin s n win = some w →
        ((readImage (fun o k => s.readB (w.base + o) k) w.len false).bind fun r => jobOf r (devNum s) (s.ctx n).loose) = .ok j0 →
        let j := { j0 with seed := seed % 2 ^ 32, firstStep := first }
        let s1 := s.modCtx n fun c => { c with job := some j, b := b }
        let s2 := b.bufs.foldl (fun s y => fillBuf j y s) (fillSlabs j (b.slabs ++ b.mirrors) s1)
        (j.ctrDevs.filter fun y => y.2 == devNum s).length ≤ 65536 → bindJob s n j = some b → tablesFit s n j b = true →
        shardsFit s2 (s2.ctx n) j = true → tagStatus (s2.ctx n) j = 0 → remoteSigsOk s2 n = true →
        ∃ u, exec (.load h n win seed first) s = .next (replyKept h 0x20 stOk [] u) ∧ (u.ctx n).state = 1 ∧
          (u.ctx n).job = some { j with ctrs := j.ctrs.map (markRamp s2 (s2.ctx n)) } ∧ (u.ctx n).b = b ∧ (u.ctx n).v = { t := first } ∧
          (u.ctx n).runs = [] ∧ (u.ctx n).threads = [] ∧ (u.ctx n).x = {} ∧ (u.ctx n).prevAnchor = j.progDig ∧ u.mem = s2.mem ∧ otherCtxs n s u ∧
          u.pwr = s.pwr ∧ u.ind = s.ind ∧ u.sep = s.sep) ∧
    (∀ win, Accepted h (.transitLoad n win) s x →
      (∃ status u, exec (.transitLoad h n win) s = .next (replyKept h 0x21 status [] u) ∧ (status ≠ stOk → u = turned h s)) ∧
      ∀ (w : HostWin) (j : Job), hostWin s n win = some w →
        ((readImage (fun o k => s.readB (w.base + o) k) w.len true).bind fun r => transitJob r (s.ctx n).loose) = .ok j →
        ∃ u, exec (.transitLoad h n win) s = .next (replyKept h 0x21 stOk [] u) ∧ (u.ctx n).state = (s.ctx n).state ∧
          (u.ctx n).transit = some j ∧ (u.ctx n).job = (s.ctx n).job ∧ sameUnits s u ∧ u.mem = s.mem ∧ u.cores = s.cores ∧ otherCtxs n s u) ∧
    (∀ epoch restore gen, Accepted h (.start n epoch restore gen) s x →
      (∃ status u, exec (.start h n epoch restore gen) s = .next (replyKept h 0x22 status [] u) ∧ (status ≠ stOk → u = turned h s)) ∧
      ∀ j : Job, (s.ctx n).job = some j → (s.ctx n).state = 1 →
        let p := if (s.ctx n).x.planDig = [] then setPlan n s else s
        (∀ d : DieId, (s.die d).digestSuspect = false ∧ (s.die d).seqSuspect = false) → j.badTables = false → chainsOk p (p.ctx n) j = true →
        countersOk p n j = true → resourcesOk p n j = true → (p.ctx n).x.planBad = false → hallFits p n j = true →
        leavesBright s.pwr = false → max (frameNow s) (p.ctx n).x.planAt + 1024 ≤ epoch * 65536 →
        (s.pwr.trans = .dimIn → s.pwr.now = 0 ∧ ∀ m, (s.ctx m).v.haltPend = false) → (restore = true → restoreOk p n j = true) →
        ∃ u, exec (.start h n epoch restore gen) s = .next (replyKept h 0x22 stOk [] u) ∧ (u.ctx n).state = 2 ∧ (u.ctx n).v.started = true ∧
          (u.ctx n).v.first = some (epoch * 65536 + 1) ∧ (u.ctx n).v.t = j.firstStep ∧ (u.ctx n).v.restored = restore ∧ u.mem = s.mem ∧
          (u.ctx n).x = (p.ctx n).x ∧ (u.ctx n).w.gen = (if restore then gen else (s.ctx n).w.gen) ∧ otherCtxs n s u)

/-- HALT, RESUME, REPLAY and UNLOAD (R248, R253 to R255): HALT brings STATE 3 and pauses the context's channels at work; RESUME
fixes the mark's frame and the instant two frames later; REPLAY condemns the attempt and resumes, a faulted one once; UNLOAD empties the context. -/
def Obligations.JobsHaltResumeReplayAndUnload : Prop :=
  ∀ (h : Hdr) (n : CtxId) (s : State) (x : Session),
    (Accepted h (.halt n) s x → (s.ctx n).state = 2 → s.pwr.busy = false →
      ∃ t, exec (.halt h n) s = .next t ∧ (t.ctx n).state = 3 ∧ otherCtxs n s t ∧ t.mem = s.mem ∧
        ∀ (c : CoreId) (i : Fin 16), (t.core c).dma[i.val] =
          (if (s.core c).chan[i.val].valid = true ∧ (s.core c).chan[i.val].ctx = n ∧
              ((s.core c).dma[i.val].state = 1 ∨ (s.core c).dma[i.val].state = 2)
            then { (s.core c).dma[i.val] with state := 3 } else (s.core c).dma[i.val])) ∧
    (Accepted h (.resume n) s x → (s.ctx n).state = 3 → s.pwr.now = 0 → s.pwr.trans = .none →
      (∀ (c : CoreId) (i : Fin 16), (s.core c).chan[i.val].valid = true → (s.core c).chan[i.val].ctx = n → (s.core c).dma[i.val].state ≠ 4) →
      exec (.resume h n) s = .next (replyKept h 0x24 stOk [] (modV n (fun v =>
        { v with resumeSend := some (frameNow s + 1), resumeAt := some (frameNow s + 3) }) (noted h s)))) ∧
    (Accepted h (.replay n) s x → (s.ctx n).state = 3 ∨ (s.ctx n).state = 4 → (s.ctx n).v.started = true →
      (s.ctx n).v.faults = [] ∨ (s.ctx n).v.replayed = false → afterClose s n = false → s.pwr.now = 0 → s.pwr.trans = .none →
      ∃ t, exec (.replay h n) s = .next t ∧ otherCtxs n s t ∧ t.mem = s.mem ∧ caReplay ∈ (t.ctx n).v.causes ∧
        (t.ctx n).v.condemnAt.isSome = true ∧ (t.ctx n).v.toReplay = true ∧ (t.ctx n).v.resumeAt = some (frameNow s + 3) ∧
        (t.ctx n).v.replayed = ((s.ctx n).v.replayed || !(s.ctx n).v.faults.isEmpty) ∧
        (t.ctx n).state = (s.ctx n).state) ∧
    (∀ err0 err1, Accepted h (.unload n err0 err1) s x → (s.ctx n).state = 1 ∨ (s.ctx n).state = 3 ∨ (s.ctx n).state = 4 →
      ∃ t, exec (.unload h n err0 err1) s = .next t ∧ (t.ctx n).state = 0 ∧ (t.ctx n).job = none ∧ (t.ctx n).b = {} ∧
        (t.ctx n).runs = [] ∧ (t.ctx n).record = none ∧ (t.ctx n).w.pins = [] ∧ otherCtxs n s t)

/-- ADMIT, RESTORE and CKPT_READ move weights between host windows and shards (R433, R542): the windows of an ADMIT are admitted
exactly when the artefact passes; RESTORE writes the image into the shard's first buffer and lists its VERSION; CKPT_READ
writes the held buffer into the window. Every other byte of memory is unchanged. -/
def Obligations.WeightsMoveThroughHostWindows : Prop :=
  ∀ (h : Hdr) (n : CtxId) (s : State) (x : Session),
    (∀ m ws, Accepted h (.admitSet n m ws) s x → ∃ t, exec (.admitSet h n m ws) s = .next t ∧ t.mem = s.mem ∧
      ∀ w ∈ t.host.windows, w.ctx = n → w.win = m ∨ w.win ∈ ws → w.artefact = true ∧ w.admitted = (artefactOk s n m ws).isSome) ∧
    (∀ (shard win : Nat) (d : ShardDesc) (w : HostWin) (b : Nat × Nat), Accepted h (.restore n shard win) s x → (s.ctx n).state = 1 →
      shardDesc (s.ctx n) shard = some d → hostWin s n win = some w → shardBuf (s.ctx n) d 0 = some b →
      let len := 128 + hdrLength (shardHdr s w.base)
      len ≤ w.len → len ≤ b.2 → pubHeld s b.1 len = false →
      ∃ t, exec (.restore h n shard win) s = .next t ∧ t.mem = (s.writeB b.1 (s.readB w.base len)).mem ∧
        assocGet shard (t.ctx n).w.restoreList = some (wd (shardHdr s w.base) 0) ∧ otherCtxs n s t ∧
        (∀ a, a < b.1 ∨ b.1 + len ≤ a → t.byte a = s.byte a)) ∧
    (∀ (shard win : Nat) (d : ShardDesc) (y : ShardState) (w : HostWin) (b : Nat × Nat), Accepted h (.ckptRead n shard win) s x →
      s.sep.held[n.val] = true → shardDesc (s.ctx n) shard = some d → shardOf (s.ctx n) shard = some y → hostWin s n win = some w →
      d.frozen = false → shardBuf (s.ctx n) d (curAt y s.sep.heldGen[n.val].toNat) = some b →
      let len := 128 + hdrLength (shardHdr s b.1)
      len ≤ w.len → pubHeld s w.base len = false →
      ∃ t, exec (.ckptRead h n shard win) s = .next t ∧ t.mem = (s.writeB w.base (s.readB b.1 len)).mem ∧ t.ctxs = s.ctxs ∧
        (∀ a, a < w.base ∨ w.base + len ≤ a → t.byte a = s.byte a))

/-- Programming (R566): PROG_BEGIN erases the image's range, PROG_WRITE places bytes that no line has yet, PROG_END checks the
image, and REBOOT leads into Black; every other byte of the flash is unchanged. -/
def Obligations.OwnerProgramsTheFlash : Prop :=
  ∀ (h : Hdr) (s : State) (x : Session),
    (Accepted h .progBegin s x → ∃ t, exec (.progBegin h) s = .next t ∧
      t.boot = { s.boot with progState := 1, progBytes := 0, progLines := [], unverified := true } ∧ sameWork s t ∧ t.pwr = s.pwr ∧
      (∀ a, t.flashByte a = if a < imageEnd then 0xFF else s.flashByte a)) ∧
    (∀ off data, Accepted h (.progWrite off data) s x → 64 ≤ data.length → data.length ≤ 8128 → data.length % 8 = 0 →
      s.boot.progState = 1 → off % 64 = 0 → off + data.length ≤ imageEnd →
      (∀ i, i < (data.length + 63) / 64 → off / 64 + i ∉ s.boot.progLines) →
      ∃ t, exec (.progWrite h off data) s = .next t ∧ t.boot.progBytes = s.boot.progBytes + BitVec.ofNat 40 data.length ∧
        sameWork s t ∧ t.pwr = s.pwr ∧
        (∀ a, t.flashByte a = if off ≤ a ∧ a < off + data.length then data.getD (a - off) 0 else s.flashByte a)) ∧
    (Accepted h .progEnd s x → ∃ t, exec (.progEnd h) s = .next t ∧ t.flash = s.flash ∧ sameWork s t ∧
      t.boot = (if (imgCheck s).1 = 0 then { s.boot with progState := 2, unverified := false }
        else { s.boot with progState := 3, progFail := BitVec.ofNat 6 (imgCheck s).1 })) ∧
    (Accepted h .reboot s x → s.pwr.busy = false → (∀ n, (s.ctx n).state ≠ 2) → exec (.reboot h) s = .next (replyKept h 0x63 stOk []
      { noted h s with boot := { s.boot with rebooting := true }, pwr := { s.pwr with trans := .blackIn, busy := true, req := 3 } }))

/-! ### Message times, events, Rust and RDMA -/

/-- A message time (R534, R537): its end ends the 100 µs interval, then applies the owner's orders and the claims, each at its own
instant of arrival; a batch of the owner's orders with different SEQ, none of which moves ownership, has the same effect in
every order of arrival. -/
def Obligations.MessageTimesApplyOrdersThenClaims : Prop :=
  (∀ (l k : List OrderMsg) (claims : List ClaimMsg) (s : State), l.Perm k →
     (∀ m ∈ l, s.host.owner = some m.h.station ∧ m.o ≠ .releaseOwn ∧ ∀ t, m.o ≠ .handover t) →
     l.Pairwise (fun a b => a.h.seq ≠ b.h.seq) →
     exec (.messageTimeEnd l claims) s = exec (.messageTimeEnd k claims) s) ∧
  (∀ (m : OrderMsg) (c : ClaimMsg) (s : State),
     let t0 := nsNow s / 100000 * 100000
     let s1 := { s with ind := { s.ind with ns := BitVec.ofNat 64 (t0 + 100000), frac := 0 } }
     exec (.messageTimeEnd [] []) s = .next s1 ∧
     (s.host.owner = some m.h.station → exec (.messageTimeEnd [m] []) s = .next (applyAt (t0 + m.at_) m.h m.o s1)) ∧
     exec (.messageTimeEnd [] [c]) s = .next (applyClaim (t0 + c.at_) c.h c.prio s1) ∧
     (s.host.owner = some m.h.station →
       exec (.messageTimeEnd [m] [c]) s = .next (applyClaim (t0 + c.at_) c.h c.prio (applyAt (t0 + m.at_) m.h m.o s1))))

/-- Events reach the owner (R547, R548): EVENT sends the oldest event that this owner has not been sent, EVENT_RESEND the oldest
that 100 ms have not seen acknowledged; the message goes out in the owner's session, which counts it, by the port and family of the
SESSION, or M0 where that port is off (log entry 59), and the event is marked sent now. -/
def Obligations.EventsGoToTheOwner : Prop :=
  ∀ (s : State) (e : Ev) (x : Session) (st : StationId), s.host.owner = some st → sessionOf s st = some x →
    let body := eventBody e
    let hdr := zyndyHeader 0x80 x.station.val (8 * body.length) (x.sent + 1) 0
    let t := (modSession x.station (fun x => { x with sent := x.sent + 1 }) s).emit (.zyndy (eventVia s x) (srcAddr s (eventVia s x)) x.station hdr body
      (zyndyTag x.key hdr body))
    let u := { t with host := { t.host with
      events := modFirst (fun y => y.seq == e.seq) (fun y => { y with sentAt := some (nsNow s : Int) }) s.host.events } }
    (s.host.events.find? (fun e => e.sentAt.isNone) = some e → exec .event s = .next u) ∧
    ((∃ a b, s.host.events = a ++ e :: b ∧ (∃ at_, e.sentAt = some at_ ∧ at_ + 100000000 ≤ nsNow s) ∧
        ∀ d ∈ a, ∀ at_, d.sentAt = some at_ → nsNow s < at_ + 100000000) → exec .eventResend s = .next u)

/-- Rust records are made, sent and acknowledged (R490, R494, R495, R576): the next record takes the next sequence number, is stored
among the latest 1,024 and goes to every receiver of the image; after 2,000 ms without every acknowledgement it goes out again; an
acknowledgement counts only with the digest of the record's signature; ALERT_N is low while an unacknowledged record is held. -/
def Obligations.RustRecordsAreKeptAndDelivered : Prop :=
  ∀ (s : State) (r : RustRec),
    (alertN s = false ↔ ∃ d, d ∈ s.rust.store ∧ d.acks.length < s.boot.cfg.rust.length) ∧
    (∀ q rest, s.rust.pending = q :: rest →
      let seq := s.rust.seq + 1
      let body := rustBody s seq.toNat q
      let new : RustRec := { seq := seq.toNat, body, sig := signature (shake256 32 body), sentAt := some (nsNow s) }
      ∃ t, exec .rustRecord s = .next t ∧ t.rust.seq = seq ∧ t.rust.pending = rest ∧
        t.rust.store = (if s.rust.store.length < 1024 then s.rust.store ++ [new] else (s.rust.store ++ [new]).drop (s.rust.store.length - 1023)) ∧
        t.out = ((List.range s.boot.cfg.rust.length).reverse.map fun i => .rust i new.seq new.cbor) ++ s.out ∧
        t.host = s.host ∧ t.pwr = s.pwr ∧ sameWork s t) ∧
    (∀ a b at_, s.rust.store = a ++ r :: b → (∀ d ∈ a, s.boot.cfg.rust.length ≤ d.acks.length) →
      r.acks.length < s.boot.cfg.rust.length → r.sentAt = some at_ → at_ + 2000000000 ≤ nsNow s → (∀ d ∈ a, d.seq ≠ r.seq) →
      ∃ t, exec .rustResend s = .next t ∧ t.rust.store = a ++ { r with sentAt := some (nsNow s) } :: b ∧
        t.out = (((List.range s.boot.cfg.rust.length).filter fun i => !r.acks.contains i).reverse.map fun i => .rust i r.seq r.cbor) ++ s.out ∧
        t.host = s.host ∧ sameWork s t) ∧
    (∀ receiver digest, s.rust.store.find? (fun d => d.seq == r.seq) = some r →
      let good := receiver < s.boot.cfg.rust.length ∧ digest = bytesToWords (shake256 32 r.sig) ∧ receiver ∉ r.acks
      (good → exec (.rustAck receiver r.seq digest) s = .next (modRust r.seq (fun r => { r with acks := r.acks ++ [receiver] }) s)) ∧
      (¬ good → exec (.rustAck receiver r.seq digest) s = .next s))

/-- RDMA (R528, R545, R552): a write goes into an open window of direction 0 and changes exactly the named bytes, a read answers
the bytes of a published window of direction 1 in messages of at most 4,096 bytes, the MTU; any other access is answered with a NAK and
changes nothing of the windows or the memory. At most 64 queue pairs are connected on a port, each message carries the port's PFC
priority, and what comes by a queue pair that does not exist or a port that is off changes nothing; that a queue pair connects when its
first message arrives is the model's choice (log entry 59). -/
def Obligations.RdmaActsWithinHostWindows : Prop :=
  (∀ (h1 : Bool) (qp win off len : Nat) (data : List Byte) (s s' : State), hearsRdma s = true → takeQp h1 qp s = some s' →
    let pfc := s.boot.cfg.pfc
    (∀ w, anyWin s win = some w → w.dir = false → off + data.length ≤ w.len → isDark s = false →
      ∃ t, exec (.rdmaWrite h1 qp win off data) s = .next t ∧ t.out = .rdmaAck h1 qp pfc win [] :: s.out ∧ t.host = s'.host ∧
        t.ctxs = s.ctxs ∧ t.cores = s.cores ∧ (∀ a, t.byte a = if w.base + off ≤ a ∧ a < w.base + off + data.length
          then data.getD (a - (w.base + off)) 0 else s.byte a)) ∧
    (∀ w, anyWin s win = some w → w.dir = true → w.state = 2 → off + len ≤ w.len → isDark s = false →
      exec (.rdmaRead h1 qp win off len) s = .next { s' with out :=
        ((if len = 0 then [[]] else chunks 4096 (s.readB (w.base + off) len)).map (OutMsg.rdmaAck h1 qp pfc win)).reverse ++ s.out }) ∧
    ((∀ w, anyWin s win = some w → w.dir = true ∨ w.len < off + data.length ∨ isDark s = true) →
      exec (.rdmaWrite h1 qp win off data) s = .next (s'.emit (.rdmaNak h1 qp pfc win))) ∧
    ((∀ w, anyWin s win = some w → w.dir = false ∨ w.state ≠ 2 ∨ w.len < off + len ∨ isDark s = true) →
      exec (.rdmaRead h1 qp win off len) s = .next (s'.emit (.rdmaNak h1 qp pfc win)))) ∧
  (∀ (h1 : Bool) (qp : Nat) (s : State),
    ((h1, qp) ∈ s.host.qps → takeQp h1 qp s = some s) ∧
    ((h1, qp) ∉ s.host.qps → (s.host.qps.filter fun x => x.1 == h1).length < 64 →
      takeQp h1 qp s = some { s with host := { s.host with qps := s.host.qps ++ [(h1, qp)] } }) ∧
    ((h1, qp) ∉ s.host.qps → 64 ≤ (s.host.qps.filter fun x => x.1 == h1).length → takeQp h1 qp s = none) ∧
    (hearsRdma s = false ∨ takeQp h1 qp s = none → ∀ win off len data,
      exec (.rdmaWrite h1 qp win off data) s = .next s ∧ exec (.rdmaRead h1 qp win off len) s = .next s))

/-! ### Boot, supplies, pins and power -/

/-- The boot (R559 to R565, R580, R581): the reset release, 1 ms after the rails, RESET_N and a reference are valid, counts the boot in
both copies of the flash's log and measures the fuses; the image goes into die 0's fabric pool; a flash that does not answer or an image
that fails a check leaves the device in Black with the check's number; a good image is applied; memory training clears every
on-chip bank and no other byte, uses the DDR5 channels only when all 16 are trained, and makes the device the root of a hall that has
not formed where it is the first candidate present; READY ends the boot; after a bad image the device announces itself every 2,000 ms.
That PHASE is 3 after a good image, 5 after MEMORY_TRAINING_DONE and 6 at READY, that the first root forms at MEMORY_TRAINING_DONE with
STATE LOCKED and that the command names the absent candidates are the model's readings (log entry 40), STATION 0 and SEQ 0 of the
announcement too (log entry 16); the log's layout and the image's place in the pool are its choices (log entry 36). -/
def Obligations.BootGoesFromReleaseToReady : Prop :=
  ∀ s : State,
    (∀ refA refB at_, refsValid refA refB s = some at_ → mayRelease s = true →
      let go := (max (max s.sup.railsAt s.sup.resetAt) at_ + 1000000).toNat
      ∃ t, exec (.resetRelease refA refB) s = .next t ∧ t.boot.count = BitVec.ofNat 32 (logCount s + 1) ∧ t.boot.phase = 0 ∧
        t.boot.fail = 0 ∧ t.boot.fuses = s.boot.fuses ∧ t.sup.sequencing = false ∧ t.sup.faults = 0 ∧ t.host.owner = s.host.owner ∧
        (go < 2 ^ 64 → nsNow t = max (nsNow s) go) ∧ t.boot.started = nsNow t ∧ t.mem = s.mem ∧
        (∀ i : Fin 4, t.boot.meas[8 + i.val] = wd (bytesToWords (shake256 32 (fuseBytes s))) i.val) ∧
        (∀ second, logOf t second = t.boot.count.toNat) ∧
        ∀ a, (∀ second, a < logBase s second ∨ logBase s second + 8 ≤ a) → t.flashByte a = s.flashByte a) ∧
    (∀ refA refB, refsValid refA refB s = none ∨ mayRelease s = false → exec (.resetRelease refA refB) s = .next s) ∧
    (s.sup.sequencing = false → s.boot.phase = 0 →
      (∃ t, exec (.imageCheck false) s = .next t ∧ t.boot.fail = 1 ∧ t.boot.phase = 7 ∧ t.pwr.now = 3 ∧ sameWork s t) ∧
      let loaded (t : State) (p : Nat → Prop) : Prop := ∀ a, (∀ i, a = poolBase 0 + i → p i → t.byte a = s.flashByte i) ∧
        ((∀ i, a = poolBase 0 + i → ¬ p i) → t.byte a = s.byte a)
      ∃ t, exec (.imageCheck true) s = .next t ∧ t.flash = s.flash ∧
        (match imgCheck s with
        | (code0, some m) => let code := if s.boot.unverified then 2 else code0
            loaded t (fun i => i < 64 + 16 * m.sects.length ∨ ∃ x ∈ m.sects, x.off ≤ i ∧ i < x.off + x.len) ∧
            (∀ i : Fin 4, t.boot.meas[i.val] = wd (bytesToWords (shake256 32 (flashRead s 0 m.length))) i.val) ∧
            (if code = 0 then t.boot.phase = 3 ∧ t.boot.good = true ∧ t.boot.cfg = cfgOf s m ∧ t.pwr.now = 0
              else t.boot.phase = 7 ∧ t.boot.fail = BitVec.ofNat 8 code ∧ t.pwr.now = 3)
        | (code, none) => loaded t (fun i => i < 64) ∧ t.boot.phase = 7 ∧ t.boot.fail = BitVec.ofNat 8 code ∧ t.pwr.now = 3)) ∧
    (∀ hbms channels absent, s.boot.good = true → s.boot.memTrained = false → s.boot.phase.toNat < 5 →
      ∃ t, exec (.memoryTrainingDone hbms channels absent) s = .next t ∧ t.boot.phase = 5 ∧ t.boot.memTrained = true ∧
        (∀ d : DieId, (t.die d).hbmOk = (List.range 6).all fun i => hbms.getD (6 * d.val + i) false) ∧
        (∀ (d : DieId) (k : Fin 8), (t.die d).ddr[k.val].used =
          (List.range 16).all fun i => channels[i]?.any fun f => f.trained && dimmsOk f && f.cap != 0) ∧
        (∀ k, firstRoot absent s = some (k, devNum s) → s.ind.state = 0 → s.ind.heardRoot = false →
          t.ind.isRoot = true ∧ t.ind.state = 1 ∧ t.ind.frame = 0 ∧ t.ind.epoch = 0) ∧
        (s.ind.heardRoot = true → t.ind = s.ind) ∧
        (∀ a, t.byte a = if 0x100000000000 ≤ a ∧ a < ctlBase then 0 else s.byte a)) ∧
    (∀ ms, s.boot.good = true → s.boot.phase.toNat < 6 → ∃ t, exec (.ready ms) s = .next t ∧ t.boot.phase = 6 ∧ t.boot.readyMs = ms ∧
      t.boot.lateTime = (s.boot.lateTime || s.ind.state != 1) ∧ t.pwr.now = 0 ∧ t.pwr.busy = false ∧ sameWork s t) ∧
    (s.boot.phase = 7 → (∀ at_, s.boot.announced = some at_ → at_ + 2000000000 ≤ nsNow s) →
      exec .bootAnnounce s = .next (({ s with boot := { s.boot with announced := some (nsNow s) } } : State).emit
        (.announce (zyndyHeader 0x81 0 (8 * (s.boot.fuses.ident.take 4).length + 16) 0 0)
          (s.boot.fuses.ident.take 4 ++ [put s.boot.count.toNat 0, put s.boot.fail.toNat 0]))))

/-- Rails and feeds (R571, R572, R574, R575, R581, R583, R584): the voltage measured against the rail's window says whether it is in; an
excursion that ends within 1 µs is a glitch, a rail out for 1 µs while the rails are enabled starts the ramp-down and is a sequence
fault, as is one that enters before an earlier group; during a ramp-down a rail that leaves is one more cause; the retry comes 1 s
later, unless three faults came in a row. The always-on domain switches feeds, holds up when both are out, returns to MAIN after 100 ms
of it, starts the cold power-up on a feed after none, and loses every always-on state when the hold-up of 5 µs ends; fuses, flash and
boot count remain. -/
def Obligations.RailsAndFeedsFollowTheirWindows : Prop :=
  (∀ (rail : Fin 12) (uv : Nat) (s : State), rail.val < 10 →
     let bit := BitVec.ofNat 12 (2 ^ rail.val)
     let faulted (s t : State) : Prop := t.sup.faults = satAdd s.sup.faults 1 ∧ t.sup.faultRail = bit ∧ t.sup.sequencing = false ∧
       ∃ q, q ∈ t.rust.pending ∧ q.kind = ruSupplyFault
     (inWindow s rail.val uv = true → ∃ t, exec (.railInWindow rail uv) s = .next t ∧ t.sup.rails = s.sup.rails ||| bit ∧ sameWork s t ∧
       (if s.sup.sequencing = true ∧ s.sup.railsEn = true ∧
           (List.range 10).any (fun r => decide (railGroup r < railGroup rail.val) && !s.sup.rails.getLsbD r) = true
         then faulted s t ∧ (s.pwr.ramp = none → t.sup.railsEn = false ∧ t.pwr.now = 3)
         else t.sup.faults = s.sup.faults ∧ t.rust = s.rust ∧ t.pwr = s.pwr)) ∧
     (inWindow s rail.val uv = false → assocGet rail.val s.sup.out = none → exec (.railExcursion rail uv) s = .next { s with
       sup := { s.sup with out := s.sup.out ++ [(rail.val, (nsNow s : Int))] } }) ∧
     (∀ at_, inWindow s rail.val uv = true → assocGet rail.val s.sup.out = some at_ → nsNow s < at_ + 1000 →
       exec (.railExcursion rail uv) s = .next { s with sup := { s.sup with
         out := s.sup.out.filter fun (x : Nat × Int) => x.1 != rail.val, glitches := satAdd s.sup.glitches 1 } }) ∧
     (inWindow s rail.val uv = false → ∃ t, exec (.railOutOfWindow rail uv) s = .next t ∧
       t.sup.rails = s.sup.rails &&& ~~~bit ∧ t.mem = s.mem ∧
       (s.sup.railsEn = true → s.sup.rails.getLsbD rail.val = true → s.sup.aonUp = true →
         (s.pwr.ramp = none → faulted s t ∧ t.pwr.ramp.isSome = true ∧ t.sup.causes = 16 ∧ t.sup.ramps = satAdd s.sup.ramps 1) ∧
         (s.pwr.ramp.isSome = true → t.pwr = s.pwr ∧ t.sup.causes = s.sup.causes ||| 16 ∧ t.sup.faults = s.sup.faults))) ∧
     (inWindow s rail.val uv = false → exec (.railInWindow rail uv) s = .next s) ∧
     (inWindow s rail.val uv = true → exec (.railOutOfWindow rail uv) s = .next s) ∧
     (∀ at_, s.sup.faultAt = some at_ → at_ + 1000000000 ≤ nsNow s → s.sup.faults ≠ 3 → s.pwr.ramp = none →
       exec .sequenceRetry s = .next { s with sup := { s.sup with railsEn := true, sequencing := true, faultAt := none } })) ∧
  (∀ s : State,
     let switched (feed : Bool) (t : State) : Prop := t.sup.feed = feed ∧ t.sup.switches = satAdd s.sup.switches 1 ∧ t.sup.holdup = none ∧
       (∃ q, q ∈ t.rust.pending ∧ q.kind = ruAonSwitch) ∧ t.host = s.host ∧ t.pwr = s.pwr ∧ sameWork s t
     (s.sup.aonUp = true → s.sup.feed = false → ∃ t, exec .aonSwitch s = .next t ∧
       (if s.sup.rails.getLsbD 11 = true then switched true t
         else t.sup.holdup = some (s.sup.holdup.getD (nsNow s)) ∧ t.sup.feed = false ∧ t.rust = s.rust)) ∧
     (s.sup.aonUp = true → s.sup.feed = true → ∃ t, exec .aonBackupOutOfWindow s = .next t ∧
       (if s.sup.rails.getLsbD 10 = true then switched false t
         else t.sup.holdup = some (s.sup.holdup.getD (nsNow s)) ∧ t.sup.feed = true ∧ t.rust = s.rust)) ∧
     (∀ backup, ∃ t, exec (.aonFeedInWindow backup) s = .next t ∧ t.sup.rails = s.sup.rails ||| (if backup then 0x800 else 0x400) ∧
       (s.sup.aonUp = false → t.sup.aonUp = true ∧ t.sup.feed = backup ∧ t.sup.railsEn = true ∧ t.sup.sequencing = true) ∧
       (∀ at_, s.sup.aonUp = true → s.sup.holdup = some at_ → nsNow s ≤ at_ + 5000 → switched backup t) ∧
       (s.sup.aonUp = true → s.sup.holdup = none → s.sup.feed = true → s.sup.aonAt ≠ nsNow s → backup = false →
         t.sup.mainSince = some (nsNow s) ∧ t.sup.feed = true)) ∧
     (∀ at_, s.sup.mainSince = some at_ → s.sup.feed = true → at_ + 100000000 ≤ nsNow s →
       ∃ t, exec .aonReturn s = .next t ∧ switched false t) ∧
     (∀ at_, s.sup.holdup = some at_ → at_ + 5000 ≤ nsNow s → ∃ t, exec .aonHoldupExpiry s = .next t ∧ t.sup.aonUp = false ∧
       t.sup.railsEn = false ∧ t.boot = { count := s.boot.count, fuses := s.boot.fuses, flashSize := s.boot.flashSize, unverified := s.boot.unverified } ∧
       t.flash = s.flash ∧ t.rust = {} ∧ t.host = {} ∧ t.mem = [] ∧ t.cores = State.reset.cores ∧ t.ctxs = State.reset.ctxs))

/-- Pins, the emergency ramp-down and the watchdog (R496, R513, R576 to R578, R584, R585): a level that holds for less than 50 ns,
or 1 µs at COOLANT_FAULT_N, is ignored; a low pin halts a powered device and starts the ramp with its cause; during a ramp it is one
more cause; RESET_N ramps a running device down and resets one that does not run; the waves follow one another
by 2,560 ns, each a quarter rate and 10,240 ns later a stop; a die whose core rail falls below 0.55 V stops at once. A watchdog not restarted for 100 ms halts every running context and
restarts the controller; the restart after it produces the record. -/
def Obligations.PinsAndWatchdogHaltTheWork : Prop :=
  (∀ s : State,
     let ramped (cause : Nat) (t : State) : Prop := t.pwr.ramp = some ((nsNow s / 64 + 1) * 64) ∧ t.pwr.trans = .blackIn ∧
       t.pwr.busy = true ∧ t.boot.rebooting = false ∧ t.sup.causes = BitVec.ofNat 8 (2 ^ cause) ∧ t.sup.ramps = satAdd s.sup.ramps 1 ∧
       (∀ n, (t.ctx n).state = if (s.ctx n).state = 2 then 3 else (s.ctx n).state) ∧ t.mem = s.mem
     (powered s = true → s.pwr.ramp = none →
       (∀ held, 50 ≤ held → ∃ t, exec (.powerFailN true held) s = .next t ∧ ramped 1 t ∧ t.sup.powerFailN = false) ∧
       (∀ held, 1000 ≤ held → ∃ t, exec (.coolantFaultN true held) s = .next t ∧ ramped 2 t ∧ t.sup.coolantN = false) ∧
       (∀ held, 50 ≤ held → running s = true → ∃ t, exec (.resetN true held) s = .next t ∧ ramped 3 t ∧ t.sup.resetN = false)) ∧
     (powered s = true → s.pwr.ramp.isSome = true →
       (∀ held, 50 ≤ held → exec (.powerFailN true held) s = .next { s with
         sup := { s.sup with powerFailN := false, causes := s.sup.causes ||| 2 } }) ∧
       (∀ held, 1000 ≤ held → exec (.coolantFaultN true held) s = .next { s with
         sup := { s.sup with coolantN := false, causes := s.sup.causes ||| 4 } }) ∧
       (∀ held, 50 ≤ held → exec (.resetN true held) s = .next { s with
         sup := { s.sup with resetN := false, causes := s.sup.causes ||| 8 } })) ∧
     (powered s = false →
       (∀ held, 50 ≤ held → exec (.powerFailN true held) s = .next { s with sup := { s.sup with powerFailN := false } }) ∧
       (∀ held, 1000 ≤ held → exec (.coolantFaultN true held) s = .next { s with sup := { s.sup with coolantN := false } })) ∧
     (∀ held, 50 ≤ held → running s = false → s.pwr.ramp = none → ∃ t, exec (.resetN true held) s = .next t ∧ t.mem = [] ∧ t.host = {} ∧
       t.ind = {} ∧ t.flash = s.flash ∧ t.rust.seq = s.rust.seq ∧ t.boot.count = s.boot.count ∧ t.boot.fuses = s.boot.fuses ∧
       t.sup.sequencing = true ∧ t.sup.resetN = false) ∧
     (∀ held, 50 ≤ held → exec (.powerFailN false held) s = .next { s with sup := { s.sup with powerFailN := true } }) ∧
     (∀ held, 1000 ≤ held → exec (.coolantFaultN false held) s = .next { s with sup := { s.sup with coolantN := true } }) ∧
     (∀ held, 50 ≤ held → exec (.resetN false held) s = .next { s with sup := { s.sup with
       resetN := true, resetAt := if s.sup.resetN then s.sup.resetAt else nsNow s } }) ∧
     (∀ low held, (held < 50 → exec (.powerFailN low held) s = .next s ∧ exec (.resetN low held) s = .next s) ∧
       (held < 1000 → exec (.coolantFaultN low held) s = .next s)) ∧
     (∀ (w : Fin 8) (low : BitVec 2) (t0 : Nat), s.pwr.ramp = some t0 → s.pwr.waves[w.val] < 2 → s.sup.causes.getLsbD 3 = false →
       s.pwr.clamped ||| low = 3 → exec (.rampDownWave w low) s = .next { s with
         pwr := { s.pwr with clamped := 3, waves := Vector.replicate 8 2 } }) ∧
     (∀ (w : Fin 8) (low : BitVec 2) (t0 : Nat), s.pwr.ramp = some t0 → s.pwr.waves[w.val] < 2 → s.sup.causes.getLsbD 3 = false →
       s.pwr.clamped ||| low ≠ 3 → ∃ t, exec (.rampDownWave w low) s = .next t ∧ sameWork s t ∧
         t.pwr = { s.pwr with clamped := s.pwr.clamped ||| low, waves := upd s.pwr.waves w fun k => k + 1 } ∧
         (t0 + 2560 * w.val + 10240 * s.pwr.waves[w.val] < 2 ^ 64 →
           t.ind.ns.toNat = max (nsNow s) (t0 + 2560 * w.val + 10240 * s.pwr.waves[w.val])))) ∧
  (∀ s : State,
     (s.rust.watchdog + 100000000 ≤ nsNow s → ∃ t, exec .watchdog s = .next t ∧ t.rust.watchdog = nsNow s ∧ t.rust.wdRecord = true ∧
       (∀ n, (t.ctx n).state = if (s.ctx n).state = 2 then 3 else (s.ctx n).state) ∧ t.mem = s.mem ∧ t.pwr = s.pwr ∧ t.sep = s.sep) ∧
     ∃ t, exec .watchdogRestart s = .next t ∧ t.rust.watchdog = nsNow s ∧ t.rust.wdRecord = false ∧ t.host = s.host ∧ t.pwr = s.pwr ∧
       sameWork s t ∧ t.rust.pending = s.rust.pending ++ (if s.rust.wdRecord then [{ kind := ruWatchdog }] else []))

/-- Power in an interval (R497 to R500, R503 to R506, R508, R510, R511): the estimates, which are the activity counts by their weights
and the fixed and static power (free values), the mean of at most 64 of them, the energy of each context and of the device, the
junction temperatures with their peak with HOT between 100 and 105 °C, the guard against the limit, 0.85 of it while HOT. A droop counts once per
event, its end adds the suppressed cycles, and beyond 256 cycles the owner learns of it once; a held set point is applied when both
rails carry it, or discarded and counted after 1 ms, but a level that waits for a cadence change waits on for its frame start. -/
def Obligations.PowerIntervalsDroopsAndSetPoints : Prop :=
  (∀ (r : Interval) (s : State), r.tj0 ≤ 920 → r.tj1 ≤ 920 →
     let top := max r.tj0 r.tj1
     let w := (nominalW s r :: s.pwr.window).take 64
     ∃ t, exec (.estimateInterval r) s = .next t ∧ t.mem = s.mem ∧ t.cores = s.cores ∧ t.sep = s.sep ∧
       t.pwr.nominal = BitVec.ofNat 16 (nominalW s r) ∧ t.pwr.calib = BitVec.ofNat 16 (calibW s r) ∧ t.pwr.window = w ∧
       t.pwr.tjPeak = BitVec.ofInt 16 (if s.pwr.tjSeen then max s.pwr.tjPeak.toInt top else top) ∧
       (∀ n : CtxId, (t.pwr.uj[n.val], t.pwr.ujFrac[n.val]) =
         addEnergy s.pwr.uj[n.val] s.pwr.ujFrac[n.val] (dynamicOf s r (some n) + (sharedOf s r).1.getD n.val 0)) ∧
       (t.pwr.ujDev, t.pwr.ujDevFrac) = addEnergy s.pwr.ujDev s.pwr.ujDevFrac (dynamicOf s r none + (sharedOf s r).2) ∧
       t.pwr.avg = BitVec.ofNat 16 (w.sum / w.length) ∧ t.pwr.tjD0 = BitVec.ofInt 16 r.tj0 ∧ t.pwr.tjD1 = BitVec.ofInt 16 r.tj1 ∧
       (840 < top → t.pwr.hot = true) ∧ (top ≤ 800 → t.pwr.hot = false) ∧ (800 < top → top ≤ 840 → t.pwr.hot = s.pwr.hot) ∧
       t.pwr.hotEvents = (if t.pwr.hot = true ∧ s.pwr.hot = false then satAdd s.pwr.hotEvents 1 else s.pwr.hotEvents) ∧
       (let eff := s.pwr.guardLimit.toNat * (if t.pwr.hot then 85 else 100)
        t.pwr.guard = (if s.pwr.guard then decide (97 * eff < t.pwr.avg.toNat * 10000) else decide (eff < t.pwr.avg.toNat * 100))) ∧
       t.pwr.guardIntervals = (if s.pwr.guard then satAdd s.pwr.guardIntervals 1 else s.pwr.guardIntervals)) ∧
  (∀ (i : Fin 16) (lost : Nat) (s : State),
     (s.pwr.islands[i.val] = none → exec (.droop i) s = .next { s with pwr := { s.pwr with
       islands := upd s.pwr.islands i fun _ => some 0, droopEvents := satAdd s.pwr.droopEvents 1 } }) ∧
     (∀ k, s.pwr.islands[i.val] = some k → exec (.droop i) s = .next s ∧ exec (.droopEnd i lost) s = .next { s with pwr := { s.pwr with
       islands := upd s.pwr.islands i fun _ => none, droopLost := satAdd s.pwr.droopLost lost } }) ∧
     (∀ k, s.pwr.islands[i.val] = some k → k ≤ 256 → 256 < lost → exec (.droopLong i lost) s = .next (raiseEvent evDroopLong none
       [put i.val 0 ||| put (i.val / 8) 8, put lost 0] { s with pwr := { s.pwr with islands := upd s.pwr.islands i fun _ => some lost } })) ∧
     (∀ f at_, s.pwr.heldF = some (f, at_) → setPoint f.toNat ≤ s.pwr.vD1.toNat → setPoint f.toNat ≤ s.pwr.vD0.toNat → s.pwr.heldV = none →
       exec (.vfApply true) s = .next { s with pwr := (if s.pwr.heldCad then { s.pwr with heldReady := true }
         else { s.pwr with fLevel := f, heldF := none }) }) ∧
     (∀ v ready, s.pwr.heldV = some v → s.pwr.heldF = none → setPoint s.pwr.fLevel.toNat ≤ v.d1.toNat → setPoint s.pwr.fLevel.toNat ≤ v.d0.toNat →
       exec (.vfApply ready) s = .next { s with pwr := { s.pwr with vD1 := v.d1, vD0 := v.d0, heldV := none } }) ∧
     (∀ v, s.pwr.heldV = some v → s.pwr.heldF = none → v.at_ + 1000000 ≤ nsNow s →
       ∃ t, exec .vfExpired s = .next t ∧ t.pwr = { s.pwr with heldV := none, vfExpired := satAdd s.pwr.vfExpired 1 } ∧ sameWork s t ∧
         ∃ e, e ∈ t.host.events ∧ e.code = evVfOrder) ∧
     (∀ f at_, s.pwr.heldF = some (f, at_) → s.pwr.heldV = none → at_ + 1000000 ≤ nsNow s →
       (s.pwr.heldCad = true → exec .vfExpired s = .next s) ∧
       (s.pwr.heldCad = false → ∃ t, exec .vfExpired s = .next t ∧
         t.pwr = { s.pwr with heldF := none, vfExpired := satAdd s.pwr.vfExpired 1 } ∧ sameWork s t ∧
         ∃ e, e ∈ t.host.events ∧ e.code = evVfOrder)))

/-- The power states (R514, R516 to R518, R520, R522 to R524): the ends of the transitions into and out of Dim; the clamps, which wait
for a bank that is being cleared, and the entry of Grey; the release of the clamps, the clear and the refill on its way to Bright,
which the next frame start ends; the entry of Black, which waits for the clear too, unloads every context and loses memory, sessions and
ownership; and the wake by a signal. -/
def Obligations.PowerStatesChangeByTransition : Prop :=
  ∀ s : State,
    (s.pwr.trans = .dimIn → (∀ n, (s.ctx n).v.haltPend = false) → exec .dimTransition s = .next { s with
      pwr := { s.pwr with now := 1, busy := false, trans := .none } }) ∧
    (s.pwr.trans = .dimOut → ∃ t, exec .dimTransition s = .next t ∧ t.pwr.now = 0 ∧ t.pwr.busy = false ∧ t.pwr.trans = .none ∧
      t.mem = s.mem ∧ ∀ n, (t.ctx n).ramp = { (s.ctx n).ramp with onIssue := true }) ∧
    (s.pwr.trans = .greyIn false → banksBusy s = false → exec (.greyEntry true) s = .next { s with
      pwr := { s.pwr with trans := .greyIn true, isolated := true } }) ∧
    (s.pwr.trans = .greyIn false → banksBusy s = true → exec (.greyEntry true) s = .next s) ∧
    (s.pwr.trans = .greyIn true → s.pwr.exitAfter = none → (∀ n, (s.ctx n).v.haltPend = false) → exec (.greyEntry false) s = .next { s with
      pwr := { s.pwr with now := 2, busy := false, trans := .none } }) ∧
    (s.pwr.trans = .greyOut false → (∀ n, (s.ctx n).state ≠ 1) → ∃ t, exec .greyExit s = .next t ∧
      t.pwr = { s.pwr with trans := .greyOut true, isolated := false } ∧ t.host = s.host ∧
      (∀ (c : CoreId) (b : Fin 56), (t.core c).own[b.val] =
        if retained s c b then (s.core c).own[b.val] else { disabled := (s.core c).own[b.val].disabled }) ∧
      (∀ (c : CoreId) (b : Fin 56) (a : Nat), spadBase c.val + b.val * bankBytes ≤ a → a < spadBase c.val + (b.val + 1) * bankBytes →
        t.byte a = if retained s c b then s.byte a else 0)) ∧
    (s.pwr.trans = .blackIn → s.pwr.ramp = none → banksBusy s = true → exec .blackEntry s = .next s) ∧
    (s.pwr.trans = .blackIn → s.pwr.ramp = none → banksBusy s = false → ∃ t, exec .blackEntry s = .next t ∧ t.pwr.now = 3 ∧
      t.pwr.isolated = true ∧ t.mem = [] ∧ t.flash = s.flash ∧
      t.host.owner = none ∧ t.host.sessions = [] ∧ t.host.claims = [] ∧ t.host.windows = [] ∧ t.rust.seq = s.rust.seq ∧ t.cores = State.reset.cores ∧ t.ctxs = State.reset.ctxs ∧
      t.sup.railsEn = s.boot.rebooting ∧ t.ind.ns = 0) ∧
    (∀ h1, s.pwr.now = 2 → s.pwr.trans = .none → s.pwr.enSignal = true → exec (.signalDetected h1) s = .next { s with
      pwr := { s.pwr with trans := .greyOut false, busy := true, req := 0, wakeCause := 4 } })

/-! ### Memories and banks -/

/-- Umber (R327 to R330): the encoder places the eight data bytes, c0 as their sum and c1 as their sum by the multipliers, which are α^8
to α^15, in GF(2^8) with the polynomial 0x11D, where gmul multiplies; the word of zeros is all zero. Umber corrects every error confined
to one byte of a word, a data byte or a check byte, for all data: the decode gives the data back and names the byte. -/
def Obligations.UmberCorrectsEverySingleByteError : Prop :=
  (∀ d0 d1 d2 d3 d4 d5 d6 d7 : Byte,
     let c0 := d0 ^^^ d1 ^^^ d2 ^^^ d3 ^^^ d4 ^^^ d5 ^^^ d6 ^^^ d7
     let c1 := gmul 0x1D d0 ^^^ gmul 0x3A d1 ^^^ gmul 0x74 d2 ^^^ gmul 0xE8 d3 ^^^
       gmul 0xCD d4 ^^^ gmul 0x87 d5 ^^^ gmul 0x13 d6 ^^^ gmul 0x26 d7
     umberEncode [d0, d1, d2, d3, d4, d5, d6, d7] = c1 ++ c0 ++ d7 ++ d6 ++ d5 ++ d4 ++ d3 ++ d2 ++ d1 ++ d0) ∧
  (let times (k : Nat) (a : Byte) : Byte := Nat.repeat (fun x : Byte => if x.msb then (x <<< 1) ^^^ 0x1D else x <<< 1) k a
   (∀ a b c : Byte, gmul a (b ^^^ c) = gmul a b ^^^ gmul a c) ∧ (∀ (a : Byte) (k : Fin 8), gmul a (1 <<< k.val) = times k.val a) ∧
   (List.range 8).map (fun i => times (8 + i) 1) = [0x1D, 0x3A, 0x74, 0xE8, 0xCD, 0x87, 0x13, 0x26]) ∧
  umberEncode [0, 0, 0, 0, 0, 0, 0, 0] = 0 ∧
  (∀ (d : List Byte) (k : Fin 10) (e : Byte), d.length = 8 →
    umberDecode (umberEncode d ^^^ BitVec.ofNat 80 (e.toNat <<< (8 * k.val))) =
      if e = 0 then (d, none, .clean) else (d, some k.val, .corrected))

/-- Words in error (R249, R324, R332 to R338, R344): an engine that reads an uncorrectable word loses its command, the attempt is
condemned, the word is counted and the owner learns of it, and a mover's channel stops with CAUSE 4; a corrected word is only counted;
a reader that is no engine condemns nothing; the Seam strikes only what crosses it. The scrubber writes a corrected word back, unless
a write came between, and reaches only what its windows let it; EN and the period of a pass are those of its start; a DDR5 channel's
corrected words of the last hour above 1,000 raise an event, and no second one within the hour (log entry 47); a bank's refresh falls on
its fixed offset (a free value), opens the window of that bank (a free value of the address) and lets the scrubber in. -/
def Obligations.WordErrorsCountCondemnAndAreScrubbed : Prop :=
  ∀ (n : CtxId) (thread cmd a : Nat) (err : BitVec 80) (d : DieId) (s : State),
    let w := umberEncode (s.readB a 8) ^^^ err
    (∀ r die, a % 8 = 0 → findRun s n thread cmd = some r → working s n r.core = true → r.executed = false →
      placeOf s a = .hbm d → keptBy s a = [] → attemptPending (s.ctx n) = true → afterClose s n = false →
      ∃ t, exec (.memUe n (some (thread, cmd)) a err .hbm die) s = .next t ∧ t.mem = s.mem ∧
        match (umberDecode w).2.2 with
        | .clean => t = s
        | .corrected => (t.die d).ecc = { (s.die d).ecc with hbm := satAdd (s.die d).ecc.hbm 1 } ∧ t.ctxs = s.ctxs
        | .uncorrectable => (t.die d).ue = { (s.die d).ue with hbm := satAdd (s.die d).ue.hbm 1 } ∧ caMemUe ∈ (t.ctx n).v.causes ∧
            (r.eng ≠ .dma → (t.ctx n).runs = (s.ctx n).runs.filter (fun y => !(y.thread == thread && y.cmd == cmd))) ∧
            (r.eng = .dma → findRun t n thread cmd = none ∧
              let ch := (t.core (coreOf r.core)).dma[r.chan.val]
              ch.state = 4 ∧ ch.cause = 4 ∧ ch.queue = []) ∧ otherCtxs n s t ∧
            ∃ v, v ∈ t.host.events ∧ v.code = evMemUe ∧ v.detail = [put a 0, put 2 0]) ∧
    (∀ die, a % 8 = 0 → placeOf s a = .hbm d → keptBy s a = [] →
      ∃ t, exec (.memUe n none a err .hbm die) s = .next t ∧ t.mem = s.mem ∧ t.ctxs = s.ctxs ∧ t.cores = s.cores ∧
        match (umberDecode w).2.2 with
        | .clean => t = s
        | .corrected => (t.die d).ecc = { (s.die d).ecc with hbm := satAdd (s.die d).ecc.hbm 1 }
        | .uncorrectable => (t.die d).ue = { (s.die d).ue with hbm := satAdd (s.die d).ue.hbm 1 } ∧
            ∃ v, v ∈ t.host.events ∧ v.code = evMemUe ∧ v.detail = [put a 0, put 2 0]) ∧
    (∀ r (die : DieId), a % 8 = 0 → findRun s n thread cmd = some r → working s n r.core = true → r.executed = false →
      placeOf s a = .hbm d →
      (d = dieOf (coreOf r.core) → exec (.memUe n (some (thread, cmd)) a err .seam die) s = .next s) ∧
      (d ≠ dieOf (coreOf r.core) → (umberDecode w).2.2 = .corrected → exec (.memUe n (some (thread, cmd)) a err .seam die) s =
        .next (s.modDie die fun k => { k with ecc := { k.ecc with seam := satAdd k.ecc.seam 1 } }))) ∧
    (∀ data k ow, a % 8 = 0 → scrubDue false s = true → s.scrub.dramEn = true → placeOf s a = .hbm d →
      umberDecode w = (data, k, .corrected) →
      (scrubReach [] s a = true →
        ∃ t, exec (.scrubPass false [{ addr := a, err, overwritten := ow }] []) s = .next t ∧
          t.mem = (if ow then s.mem else (s.writeB a data).mem) ∧ t.ctxs = s.ctxs ∧
          (t.die d).ecc = { (s.die d).ecc with hbm := satAdd (s.die d).ecc.hbm 1 } ∧ t.scrub.dramAt = nsNow s ∧ t.scrub.seen = []) ∧
      (scrubReach [] s a = false → exec (.scrubPass false [{ addr := a, err, overwritten := ow }] []) s =
        .next { s with scrub := { s.scrub with seen := [], dramAt := nsNow s, dramPer := s.scrub.dramH, dramEn := s.scrub.en } })) ∧
    (∀ hits, scrubDue false s = true → s.scrub.dramEn = false → exec (.scrubPass false hits []) s =
      .next { s with scrub := { s.scrub with seen := [], dramAt := nsNow s, dramPer := s.scrub.dramH, dramEn := s.scrub.en } }) ∧
    (scrubDue true s = true → exec (.scrubPass true [] []) s = .next { s with
      scrub := { s.scrub with cols := [], sramAt := nsNow s, sramPer := s.scrub.sramMin, sramEn := s.scrub.en } }) ∧
    (∀ (ch : Fin 16) (more : Nat),
      let old := ((assocGet ch.val s.scrub.hour).getD []).filter fun y => decide (nsNow s < y.1 + hourNs)
      let total := (old.map (·.2)).sum + more
      ∃ t, exec (.ddrCeRate ch more) s = .next t ∧ t.mem = s.mem ∧ t.ctxs = s.ctxs ∧
        assocGet ch.val t.scrub.hour = some (if more = 0 then old else old ++ [(nsNow s, more)]) ∧
        (total ≤ 1000 → assocGet ch.val t.scrub.hourSaid = none ∧ t.host = s.host) ∧
        (∀ at_, 1000 < total → assocGet ch.val s.scrub.hourSaid = some at_ → nsNow s < at_ + hourNs →
          t.scrub.hourSaid = s.scrub.hourSaid ∧ t.host = s.host) ∧
        (1000 < total → (∀ at_, assocGet ch.val s.scrub.hourSaid = some at_ → at_ + hourNs ≤ nsNow s) →
          assocGet ch.val t.scrub.hourSaid = some (nsNow s) ∧
          ∃ v, v ∈ t.host.events ∧ v.code = evDdrCeRate ∧ v.detail = [put ch.val 0, put total 0])) ∧
    (∀ (ch bank : Nat), ch < 384 →
      let interval := if refresh2x s .hbm ch then 1950 else 3900
      let opened : State := { s with scrub := { s.scrub with refreshOpen :=
        (s.scrub.refreshOpen.filter fun y => y.1 != (2, ch, bank) && decide (nsNow s < y.2 + 300)) ++ [((2, ch, bank), nsNow s)] } }
      (nsNow s % interval = Config.refreshOffset 2 ch bank % interval →
        exec (.refreshCommand .hbm ch bank []) s = .next opened ∧
        ∀ data k, a % 8 = 0 → s.scrub.dramEn = true → placeOf s a = .hbm d → dramChannel s a = some (.hbm, ch) →
          Config.dramBank 2 a = bank →
          umberDecode w = (data, k, .corrected) →
          ∃ t, exec (.refreshCommand .hbm ch bank [{ addr := a, err, overwritten := false }]) s = .next t ∧
            t.mem = (s.writeB a data).mem ∧ t.ctxs = s.ctxs) ∧
      (nsNow s % interval ≠ Config.refreshOffset 2 ch bank % interval → ∀ hits, exec (.refreshCommand .hbm ch bank hits) s = .next s))

/-! ### Indigo time -/

/-- A frame starts (R343, R347, R352, R355, R362, R364, R371): the frame number rises by one, the frame begins where the last one ends,
its gap is that of the merged stretch request, the slew of the frame corrects a quarter of the parent's mean offset, the measured
deviations of the references stand in IND_REF, the chosen refresh rates come into force, a reading above 95 °C asks for a slower level,
a lost device acquires again, a way back from Grey ends in Bright with its event (R523), a late cadence level whose rails are ready is
taken (R504), and memory, the ring and, where no takeover is due at the boundary of an epoch and no way back from Grey ends, the cores
and the message processor are unchanged. -/
def Obligations.FramesFollowOneAnother : Prop :=
  ∀ (hbm ddr : List Int) (refA refB : BitVec 16) (s : State), frameNow s + 1 < 2 ^ 64 →
    ∃ t, exec (.frameStart hbm ddr refA refB) s = .next t ∧ t.ind.devA = refA ∧ t.ind.devB = refB ∧
    (∀ p, parentPort s = some p → t.ind.slew = -clampInt 8192 (Int.tdiv (meanInt (s.port p).thetas) 4)) ∧
    ((∃ y ∈ hbm ++ ddr, 760 < y) → t.ind.cadReq.toNat = max s.ind.cadReq.toNat (min (s.ind.cadNow.toNat + 1) 4)) ∧
    frameNow t = frameNow s + 1 ∧ t.ind.frameStart = nextStart s ∧
    t.ind.gap = 256 * (stretchFor (freezeFrame (frameNow s + 1) s).ind.fixed (frameNow s + 1)).n ∧
    (∀ d : DieId, (t.die d).ddr2x = (s.die d).next2x.1 ∧ (t.die d).hbm2x = (s.die d).next2x.2) ∧
    t.ind.rootSeq = (if s.ind.isRoot then s.ind.rootSeq + 1 else s.ind.rootSeq) ∧
    t.ind.state = (if s.ind.state = 3 then 0 else s.ind.state) ∧
    (∀ x ∈ t.ind.stretch, frameNow t < x.frame) ∧ t.mem = s.mem ∧ t.sep = s.sep ∧
    ((frameNow s + 1) % 65536 ≠ 0 ∨ takeoverOf s = none → s.pwr.trans ≠ .greyOut true → t.cores = s.cores ∧ t.host = s.host) ∧
    (s.pwr.trans = .greyOut true → t.pwr.now = 0 ∧ t.pwr.trans = .none ∧ t.pwr.busy = false ∧ t.pwr.isolated = false ∧
      ((frameNow s + 1) % 65536 ≠ 0 → ∃ e, e ∈ t.host.events ∧ e.code = evWake)) ∧
    (∀ f at_, s.pwr.heldF = some (f, at_) → s.pwr.heldCad = true → f = s.ind.cadNow →
      (s.pwr.heldReady = true → t.pwr.fLevel = f ∧ t.pwr.heldF = none ∧ t.pwr.heldCad = false) ∧
      (s.pwr.heldReady = false → t.pwr.fLevel = s.pwr.fLevel ∧ t.pwr.heldF = s.pwr.heldF ∧ t.pwr.heldCad = true)) ∧
    ((frameNow s + 1) % 65536 = 0 → ∀ d, takeoverOf s = some d → d ≠ devNum s → d < 2 ^ 15 → t.ind.root.toNat = d ∧
      (s.ind.root.toNat ≠ d → t.ind.isRoot = false))

/-- Stretch and cadence (R364, R367 to R369, R374, R504, R507): a lateness asks for ceil of it over 256 ns, at most 16 units, of the
frame or of the first one still open, merged with what was asked before by the maximum and the union of the causes; the freeze fixes
the next frame once. The controller decides REQ at frame 64,512, the root fixes NEXT at 65,024 as the slowest level asked for, NEXT is
NOW at 65,280 where none came, and the epoch starts with it, a change taking 2,048 ns more of gap; a slower level is taken in the gap,
a faster one where the rails have reached its set points, and otherwise it is held and counted late. -/
def Obligations.StretchAndCadenceFollowTheMarks : Prop :=
  (∀ (g late : Nat) (cause : BitVec 5) (s : State),
     (0 < late → late ≤ 4096 → cause ≠ 0 → ∃ t, exec (.stretchRequest g late cause) s = .next t ∧
       (let f := max g (openFrame s)
        let old := stretchFor s.ind.stretch f
        stretchFor t.ind.stretch f = { frame := f, n := max old.n ((late + 255) / 256), cause := old.cause ||| cause.toNat, own := true } ∧
        (∀ k, k ≠ f → stretchFor t.ind.stretch k = stretchFor s.ind.stretch k)) ∧
       sameWork s t ∧ t.host = s.host ∧ t.ind.ns = s.ind.ns) ∧
     (late = 0 ∨ cause = 0 → exec (.stretchRequest g late cause) s = .next s) ∧
     (∃ t, exec (.stretchFreeze (frameNow s + 1)) s = .next t ∧ sameWork s t ∧
       ((∀ x ∈ s.ind.fixed, x.frame ≠ frameNow s + 1) →
         stretchFor t.ind.fixed (frameNow s + 1) = stretchFor s.ind.stretch (frameNow s + 1)) ∧
       ((∃ x ∈ s.ind.fixed, x.frame = frameNow s + 1) → t.ind.fixed = s.ind.fixed))) ∧
  (∀ s : State,
     (s.ind.frame = 64512 → exec .cadenceDecision s = .next { s with ind := { s.ind with cadReq := BitVec.ofNat 4 (cadenceReq s) } }) ∧
     cadenceReq s ≤ 4 ∧
     (s.ind.isRoot = true → s.ind.frame = 65024 → s.ind.cadNext = 0xF → exec .cadNextFix s = .next { s with
       ind := { s.ind with cadNext := BitVec.ofNat 4 (min (max (max s.ind.cadReq.toNat s.ind.cadSeen) s.ind.cadPrev) 4) } }) ∧
     (s.ind.frame = 65280 → s.ind.cadNext = 0xF → exec .cadNextDefault s = .next { s with ind := { s.ind with cadNext := s.ind.cadNow } }) ∧
     (s.ind.frame = 65280 → s.ind.cadNext.toNat < s.ind.cadNow.toNat → exec .cadNextDefault s = .next { s with pwr := { s.pwr with
       vD1 := BitVec.ofNat 8 (setPoint s.ind.cadNext.toNat), vD0 := BitVec.ofNat 8 (setPoint s.ind.cadNext.toNat), heldV := none
       heldF := some (s.ind.cadNext, nsNow s), heldCad := true, heldReady := false } }) ∧
     (s.ind.frame = 0 → s.ind.cadNext ≠ 0xF → ∃ t, exec .epochStart s = .next t ∧ t.ind.cadNow = s.ind.cadNext ∧ t.ind.cadNext = 0xF ∧
       t.ind.gap = s.ind.gap + (if s.ind.cadNow = s.ind.cadNext then 0 else 2048) ∧ sameWork s t ∧ t.host = s.host ∧
       t.ind.cadChanges = (if s.ind.cadNow = s.ind.cadNext then s.ind.cadChanges else satAdd s.ind.cadChanges 1) ∧
       (s.ind.cadNow.toNat < s.ind.cadNext.toNat → t.pwr.fLevel = s.ind.cadNext ∧ t.pwr.heldF = none ∧
         t.pwr.vD1 = BitVec.ofNat 8 (setPoint s.ind.cadNext.toNat)) ∧
       (s.ind.cadNext.toNat < s.ind.cadNow.toNat →
         let level := setPoint s.ind.cadNext.toNat
         let taken := t.pwr.fLevel = s.ind.cadNext ∧ t.pwr.heldF = none ∧ t.pwr.heldCad = false ∧ t.pwr.vfLate = s.pwr.vfLate
         let late := t.pwr.fLevel = s.pwr.fLevel ∧ t.pwr.heldCad = true ∧ t.pwr.heldReady = false ∧
           t.pwr.vfLate = satAdd s.pwr.vfLate 1
         (∀ at_, s.pwr.heldCad = true → s.pwr.heldF = some (s.ind.cadNext, at_) →
           (s.pwr.heldReady = true → taken) ∧ (s.pwr.heldReady = false → late ∧ t.pwr.heldF = s.pwr.heldF)) ∧
         (s.pwr.heldCad = false → (level ≤ s.pwr.vD1.toNat → level ≤ s.pwr.vD0.toNat → taken) ∧
           (s.pwr.vD1.toNat < level ∨ s.pwr.vD0.toNat < level → late ∧ t.pwr.heldF = some (s.ind.cadNext, nsNow s))))))

/-- Lock, root and references (R351, R355, R356, R361, R362, R377, R379, R481): 16 good frames lock a device, a better parent is
taken in HOLDOVER, LOST halts every context with its event, a candidate acts as root after 4 silent frames or takes over at an epoch
boundary; facility time and the alarm act as said. A reference without edges or off frequency is marked and replaced by the other
where that one has edges; when both lack edges the device is LOST; two that disagree are both marked. -/
def Obligations.LockRootAndReferencesFollowTheTimeTree : Prop :=
  (∀ s : State,
     (s.ind.state = 0 ∨ s.ind.state = 2 → 16 ≤ s.ind.good → ∃ t, exec .enterLocked s = .next t ∧
       t.ind = { s.ind with state := 1, bad := 0 } ∧ sameWork s t ∧ t.host = s.host) ∧
     (∀ p : PortId, s.ind.isRoot = false → s.ind.state = 1 ∨ s.ind.state = 2 → pickParent s = some p → parentPort s ≠ some p →
       exec .reparent s = .next { s with ind := { s.ind with
         state := 2, good := 0, reparents := satAdd s.ind.reparents 1, parent := BitVec.ofNat 4 p.val } }) ∧
     (s.ind.isRoot = false → s.ind.state = 1 ∨ s.ind.state = 2 → 4 ≤ s.ind.bad ∨ 4 ≤ s.ind.noPort → ∃ t, exec .enterLost s = .next t ∧
       t.ind.state = 3 ∧ t.ind.losses = satAdd s.ind.losses 1 ∧ t.mem = s.mem ∧
       (∀ n, (t.ctx n).state = if (s.ctx n).state = 2 then 3 else (s.ctx n).state) ∧
       (∃ v, v ∈ t.host.events ∧ v.code = evTimeLoss) ∧ ∃ q, q ∈ t.rust.pending ∧ q.kind = ruTimeLoss) ∧
     (s.ind.state = 1 → s.ind.isRoot = false → 4 ≤ s.ind.seqLost → (rootIndex s (devNum s)).isSome = true → s.ind.root.toNat ≠ devNum s →
       ∃ t, exec .rootLost s = .next t ∧ t.ind.isRoot = true ∧ t.ind.root = BitVec.ofNat 15 (devNum s) ∧ t.ind.parent = 0xF ∧
         t.ind.rootChanges = satAdd s.ind.rootChanges 1 ∧ t.mem = s.mem) ∧
     (∀ k, rootIndex s (devNum s) = some k → s.ind.isRoot = false → s.ind.state = 1 → k.val < s.ind.rootIdx.toNat → 1024 ≤ s.ind.underRoot →
       65024 ≤ s.ind.frame.toNat → exec .rootTakeover s = .next { s with ind := { s.ind with takeover := true } }) ∧
     (s.ind.frame = 0 → s.ind.takeover = true → s.ind.root.toNat ≠ devNum s → ∃ t, exec .rootTakeover s = .next t ∧ t.ind.isRoot = true ∧
       t.ind.takeover = false ∧ t.mem = s.mem) ∧
     (∀ off valid, s.ind.ptpPort ≠ 0xF → exec (.ptpMessage off valid) s = .next { s with ind := { s.ind with facOffset := off, ptpValid := valid } }) ∧
     (s.ind.alarmEn = true → s.ind.alarmAt.toNat ≤ nsNow s → ∃ t, exec .alarm s = .next t ∧ t.ind = { s.ind with alarmFired := true, alarmEn := false } ∧
       t.mem = s.mem ∧ (s.pwr.trans = .none → sameWork s t ∧ t.host = s.host ∧
         (s.pwr.now = 2 → s.pwr.enAlarm = true → t.pwr.wakeCause = 5 ∧ t.pwr.trans = .greyOut false)))) ∧
  (∀ (b : Bool) (s : State),
     (let marked : IndSt := if b then { s.ind with failB := true } else { s.ind with failA := true }
      let otherDead := if b then s.ind.deadA else s.ind.deadB
      s.ind.deadA = false ∨ s.ind.deadB = false →
       ((s.ind.sel == 1) = b → ∃ t, exec (.refFault (.deviates b)) s = .next t ∧
         t.ind = { marked with sel := if otherDead then s.ind.sel else if b then 0 else 1 } ∧ sameWork s t ∧
         ∃ v, v ∈ t.host.events ∧ v.code = evRefFault) ∧
       ((s.ind.sel == 1) ≠ b → exec (.refFault (.deviates b)) s = .next { s with ind := marked })) ∧
     (let gone : IndSt := if b then { s.ind with failB := true, deadB := true } else { s.ind with failA := true, deadA := true }
      (if b then s.ind.deadA else s.ind.deadB) = false →
       ((s.ind.sel == 1) = b → ∃ t, exec (.refFault (.missing b)) s = .next t ∧
         t.ind = { gone with sel := if b then 0 else 1 } ∧ sameWork s t ∧ ∃ v, v ∈ t.host.events ∧ v.code = evRefFault) ∧
       ((s.ind.sel == 1) ≠ b → exec (.refFault (.missing b)) s = .next { s with ind := gone })) ∧
     ((if b then s.ind.deadA else s.ind.deadB) = true → s.ind.state ≠ 3 → ∃ t, exec (.refFault (.missing b)) s = .next t ∧
       t.ind.state = 3 ∧ t.ind.deadA = true ∧ t.ind.deadB = true ∧ (∃ v, v ∈ t.host.events ∧ v.code = evTimeLoss) ∧
       (∀ n, (t.ctx n).state = if (s.ctx n).state = 2 then 3 else (s.ctx n).state)) ∧
     (s.ind.isRoot = true → ∃ t, exec (.refFault .disagree) s = .next t ∧ t.ind = { s.ind with failA := true, failB := true } ∧
       sameWork s t ∧ ∃ v, v ∈ t.host.events ∧ v.code = evRefFault))

/-! ### The fabric -/

/-- A port that transmits sends one cell of 80 words per slot (R364, R366, R386, R389, R402): the next cell of the frame goes out and has
its turn; a cell planned for the slot goes out when its window has room, joins the window's sent cells and is kept for
retries. Its Ethernet frame comes from the port's MAC address with the map's EtherType, on a direct link to the partner's port
(R382, R383). A device that takes no part in jobs sends no planned cell (R356), and a served cell whose source may not be read faults
first. A cell that is carried past its slot asks for a stretch of the frames open to requests. Memory is unchanged. -/
def Obligations.PortsSendOneCellPerSlot : Prop :=
  ∀ (p : PortId) (s : State), txActive s p = true → nextCell s p < gapCells s + 4096 → s.pwr.now ≠ 2 → (s.port p).peerState ≠ 2 →
    sendsFillers s p = true →
    let k := nextCell s p - gapCells s
    let s1 := (advanceTo (s.ind.frameStart + ceilDiv (cellTime8 s (nextCell s p)) 8) s).modPort p fun q =>
      { q with tx := (frameNow s, nextCell s p + 1) }
    let checked := checkServes p (frameNow s * 4096 + k) s1
    let u := carryRequest p k checked
    ∃ t h ws, exec (.cellSend p) s = .next t ∧ t.out = .cell p h ws :: s.out ∧ ws.length = 80 ∧
      h.src = portMac (devNum s) p.val ∧ h.etherType = BitVec.ofNat 16 s.boot.cfg.map.etherType ∧
      (s.boot.cfg.map.switched = false → h.tag = none ∧ ∀ d q l, linkAt s.boot.cfg.map (devNum s) p.val = some (d, q, l) → h.dst = portMac d q) ∧
      (s.boot.cfg.map.switched = true → h.tag = some (s.boot.cfg.map.pcp, s.boot.cfg.map.vid)) ∧
      (t.port p).tx = (frameNow s, nextCell s p + 1) ∧ t.mem = s.mem ∧
      (gapCells s ≤ nextCell s p → fillerOnly (frameNow s) k = false → carriesPlan s p = true → takesPart s = true → k < 3968 →
        ∀ x w, plannedAt u p (frameNow s * 4096 + k) = some x → x.win = some w →
          (assocGet (w.win, x.ref.pass) (u.ctx x.ctx).x.counts).getD 0 + cellBytes w x.ref.cell x.body ≤ w.volume →
          (w.win, x.ref.cell, x.ref.pass) ∈ (t.ctx x.ctx).x.sent ∧ (∃ y ∈ (t.port p).sent, y.ref = x.ref ∧ y.frame = frameNow s ∧ y.slot = k)) ∧
      (gapCells s ≤ nextCell s p → carriedOn checked p (frameNow s * 4096 + k) ≠ [] → s.ind.carryAsked < openFrame s1 →
        let y := stretchFor t.ind.stretch (openFrame s1)
        1 ≤ y.n ∧ y.cause.testBit 4 = true ∧ t.ind.carryAsked = frameNow s + 2)

/-- An arriving cell is checked before anything of it counts (R380, R381, R386, R387, R402 to R404): a port in the other mode or outside
the map carries none; an uncorrectable codeword, an FCS error or an uncorrectable word is counted and named in a NAK by the frame and
slot that its arrival less the path's delay gives; bad header fields are counted and the cell discarded. A good cell counts as heard,
and the cells that were held are tried again. A data cell of the present step that ends here lands and is acknowledged, or is only
acknowledged where it had landed, or is held while its place waits or its step has not started here; one that goes on is held for its
next hop under the position that its plan gives. A device in Grey takes the cell of slot 4,095 alone (R517). -/
def Obligations.CellsAreCheckedOnArrival : Prop :=
  (∀ (p : PortId) (rx : RxCell) (s : State), (s.port p).up = false ∨ carriesCells s p = false ∨ s.pwr.now = 3 ∨
      (s.pwr.now = 2 ∧ rx.txSlot ≠ 4095) → exec (.cellReceive p rx) s = .next s) ∧
  ∀ (p : PortId) (rx : RxCell) (s : State), (s.port p).up = true → carriesCells s p = true → s.pwr.now ≠ 3 → (s.pwr.now = 2 → rx.txSlot = 4095) →
    let s0 := s.modPort p fun q => { q with fecCorr := satAdd q.fecCorr rx.fecCorr }
    (rx.fecOk = false → exec (.cellReceive p rx) s = .next (s0.modPort p fun q => { q with
      fecUncorr := satAdd q.fecUncorr 1, naks := q.naks ++ [sentPos s p rx] })) ∧
    (rx.fecOk = true → rx.fcsOk = false ∨ cellWords rx.words = none → exec (.cellReceive p rx) s = .next (s0.modPort p fun q => { q with
      cellBad := satAdd q.cellBad 1, naks := q.naks ++ [sentPos s p rx] })) ∧
    (∀ ws, rx.fecOk = true → rx.fcsOk = true → cellWords rx.words = some ws → headOk s0 p rx ws = false →
      exec (.cellReceive p rx) s = .next (s0.modPort p fun q => { q with hdrDiscard := satAdd q.hdrDiscard 1 })) ∧
    (∀ ws, rx.fecOk = true → rx.fcsOk = true → cellWords rx.words = some ws → headOk s0 p rx ws = true →
      let s1 := allCtxIds.foldl landHeld s0
      let s2 := (if rx.partner then allCtxIds.foldl (takeMarks rx.txFrame ws) (takeIndigo p rx ws s1) else s1).modPort p fun q =>
        { q with heardAt := nsNow (if rx.partner then allCtxIds.foldl (takeMarks rx.txFrame ws) (takeIndigo p rx ws s1) else s1) }
      let s3 := if rx.txSlot = 0 then s2 else takeAcks p (wd ws 3) s2
      ((∀ n, (s.ctx n).x.waiting = []) → s1 = s0) ∧
      (fld (wd ws 0) 1 0 = 0 → rx.partner = true → ∃ t, exec (.cellReceive p rx) s = .next t ∧ (t.port p).heardAt = nsNow t ∧
        (t.port p).child = bit (wd ws 68) 63 ∧ (t.port p).peerState = BitVec.ofNat 2 (fld (wd ws 69) 15 14) ∧
        (t.port p).lastTx = BitVec.ofNat 33 (fld (wd ws 0) 63 31) ∧ (t.port p).lastRx = rx.arrival ∧ t.mem = s1.mem) ∧
      (∀ n r w, fld (wd ws 0) 1 0 = 1 → s3.pwr.now ≠ 2 → carriesPlan s3 p = true → recordOf s3 p rx ws = some (n, r) →
        planWin (s3.ctx n) r.win = some w →
        let ends := (cellEnds w ((windowCells (((planJob (s3.ctx n)).map (·.chains)).getD []) w).getD r.cell .data)).2
        let h : HeldCell := { port := p.val, txFrame := rx.txFrame, txSlot := rx.txSlot, plan := r, flow := rx.flow, words := ws }
        let key := (w.win, r.cell, fld (wd ws 2) 4 1)
        let acked (u : State) : State := u.modPort p fun q => { q with acks := q.acks ++ [(rx.txFrame, rx.txSlot)] }
        (cellCurrent (s3.ctx n) rx ws = false → exec (.cellReceive p rx) s = .next s3) ∧
        (cellCurrent (s3.ctx n) rx ws = true → ends = devNum s3 → (s3.ctx n).v.live = false ∨ takesPart s3 = false →
          ∃ t, exec (.cellReceive p rx) s = .next t ∧ t.mem = s3.mem ∧ h ∈ (t.ctx n).x.waiting ∧ t.fab = s3.fab ∧ otherCtxs n s3 t) ∧
        (cellCurrent (s3.ctx n) rx ws = true → ends = devNum s3 → (s3.ctx n).v.live = true → takesPart s3 = true →
          (key ∈ (s3.ctx n).x.landed → exec (.cellReceive p rx) s = .next (acked s3)) ∧
          (key ∉ (s3.ctx n).x.landed →
            (∀ u, landCell n w h s3 = .ok u → exec (.cellReceive p rx) s = .next (acked u) ∧ key ∈ (u.ctx n).x.landed) ∧
            (∀ e, landCell n w h s3 = .error e → e.1 = flWait → ∃ t, exec (.cellReceive p rx) s = .next t ∧ t.mem = s3.mem ∧
              h ∈ (t.ctx n).x.waiting ∧ t.fab = s3.fab ∧ otherCtxs n s3 t))) ∧
        (∀ x, cellCurrent (s3.ctx n) rx ws = true → ends ≠ devNum s3 → nextHop s3 (s3.ctx n) r = some x →
          (r.win, r.cell, fld (wd ws 2) 4 1) ∉ (s3.ctx n).x.passed → ∃ t y, exec (.cellReceive p rx) s = .next t ∧ t.mem = s3.mem ∧
            t.transit = s3.transit ++ [y] ∧ y.words = ws.drop 4 ∧ y.ref.win = r.win ∧ y.ref.cell = r.cell ∧ y.ref.hop = x.hop ∧
            (y.inPort, y.inFrame, y.inSlot) = (p.val, rx.txFrame, rx.txSlot) ∧ y.due = ((t.ctx n).v.origin + x.phi) * 4096 + x.k ∧
            otherCtxs n s3 t)))

/-- Retries and links (R354, R381, R384, R403): a cell that a NAK named goes out again in a spare slot and counts as a retry;
after its third failure the port fails and every running context that uses it halts, and a device that only forwards sets HALT in its
cells; a link that comes up is compared with its nominal delay, and one that goes down is down. -/
def Obligations.LinksRetryFailAndComeUp : Prop :=
  ∀ (p : PortId) (s : State),
    (∀ frame slot x, let i := max (nextCell s p) (gapCells s + 3968)
      let k := i - gapCells s
      txActive s p = true → carriesPlan s p = true → takesPart s = true → k < 4095 → fillerOnly (frameNow s) k = false → s.pwr.now ≠ 2 →
      (frame, slot) ∈ (s.port p).resend → keptCell s p frame slot = some x →
      ∃ t h ws, exec (.resend p frame slot) s = .next t ∧ t.out = .cell p h ws :: s.out ∧ (t.port p).retries = satAdd (s.port p).retries 1 ∧
        (frame, slot) ∉ (t.port p).resend ∧ (t.port p).tx = (frameNow s, i + 1) ∧ t.mem = s.mem ∧ t.ctxs = s.ctxs) ∧
    (∀ frame slot x, (s.port p).failed = false → (s.port p).sent.find? (fun x => x.frame == frame && x.slot == slot && decide (3 ≤ x.fails)) = some x →
      ∃ t, exec (.linkFail p frame slot) s = .next t ∧ (t.port p).failed = true ∧ t.mem = s.mem ∧
        (∀ n, (t.ctx n).state = if (s.ctx n).state = 2 ∧ usesPort s (s.ctx n) p = true ∧ (s.ctx n).job.isSome = true then 3
          else (s.ctx n).state) ∧
        (∀ n, (s.ctx n).job = none → usesPort s (s.ctx n) p = true → (t.ctx n).v.digestHalt = true) ∧
        (∃ v, v ∈ t.host.events ∧ v.code = evLinkFail) ∧ ∃ q, q ∈ t.rust.pending ∧ q.kind = ruLinkFail ∧ q.port = some p.val) ∧
    (∀ mode delay, ∃ t, exec (.linkUp p mode delay) s = .next t ∧ t.mem = s.mem ∧ t.ctxs = s.ctxs ∧ (t.port p).up = true ∧
      (t.port p).linkMode = mode ∧ (t.port p).heardAt = nsNow s ∧ (∀ q, q ≠ p → t.port q = s.port q) ∧
      (match linkAt s.boot.cfg.map (devNum s) p.val with
      | some l => (t.port p).miscabled = decide (327680 < ((delay : Int) - (l.2.2 * 32768 : Nat)).natAbs) ∧
          (327680 < ((delay : Int) - (l.2.2 * 32768 : Nat)).natAbs → ∃ v, v ∈ t.host.events ∧ v.code = evLinkMiscabled ∧
            v.detail = [put p.val 0, BitVec.ofNat 64 delay, put l.2.2 0])
      | none => (t.port p).miscabled = false)) ∧
    exec (.linkDown p) s = .next (s.modPort p fun q => { q with up := false })

/-- Local serve windows and plans (R400, R421, R466, R468, R471): a serve window of a device to itself is copied once from its frame
on, and only its destination and a mirror's copy of it change; it waits while its own source has not landed or a reference waits for an
alternate buffer; both sequencers' plans are compared, a third computation names the one that erred and says when the plan is there,
and without a majority the plan is bad. -/
def Obligations.ServeWindowsCopyAndPlansAreCompared : Prop :=
  ∀ (n : CtxId) (s : State),
    (∀ win w a b, winDecl (s.ctx n) win = some w → w.kind = 1 → w.src = devNum s → w.dst = devNum s → (s.ctx n).v.live = true →
      (s.ctx n).state = 2 → win ∉ (s.ctx n).x.applied → (s.ctx n).v.stepFrame + w.frameMin ≤ frameNow s →
      let src := Ref.ofWord w.srcRef
      let dst := Ref.ofWord w.dstRef
      let copies := (mirrorAddr (s.ctx n) dst).toList
      let fed := ∀ x, feeder s (s.ctx n) w = some x → hasLanded (s.ctx n) x (src.off - (Ref.ofWord x.dstRef).off) w.volume = true
      (fed → serveAddr s n src w.volume = .ok a → refWaits (s.ctx n) dst = false → landAddr s n dst w.volume = .ok b →
        bankAnswer s n ((b, w.volume) :: copies.map fun m => (m, w.volume)) = .served → pubHeld s b w.volume = false →
        let u := match mirrorAddr (s.ctx n) dst with | some m => s.writeB m (s.readB a w.volume) | none => s
        ∃ t, exec (.serveLocal n win) s = .next t ∧ t.mem = (u.writeB b (s.readB a w.volume)).mem ∧ win ∈ (t.ctx n).x.applied ∧
          otherCtxs n s t ∧ ∀ c, (∀ m ∈ b :: copies, c < m ∨ m + w.volume ≤ c) → t.byte c = s.byte c) ∧
      (¬ fed → exec (.serveLocal n win) s = .next s)) ∧
    (∀ win w a, winDecl (s.ctx n) win = some w →
      refWaits (s.ctx n) (Ref.ofWord w.srcRef) = true ∨
        (serveAddr s n (Ref.ofWord w.srcRef) w.volume = .ok a ∧ refWaits (s.ctx n) (Ref.ofWord w.dstRef) = true) →
      exec (.serveLocal n win) s = .next s) ∧
    (∀ j err0 err1 third, planJob (s.ctx n) = some j → (s.ctx n).state ≠ 2 →
      let rs := planOf s.boot.cfg.map (slowMode s) n j
      let dig := planDigest s.boot.cfg.map rs
      ∃ t, exec (.planCompute n err0 err1 third) s = .next t ∧ (t.ctx n).x.plan = rs ∧ t.mem = s.mem ∧ otherCtxs n s t ∧
        (err0 = err1 → (t.ctx n).x.planBad = false ∧ (t.ctx n).x.planAt = 0 ∧ t.dies = s.dies ∧
          (err0 = 0 → ∀ i, i < 4 → wd (t.ctx n).x.planDig i = wd dig i)) ∧
        (err0 ≠ err1 → (t.die 0).shd[n.val].mismatches = satAdd (s.die 0).shd[n.val].mismatches 1 ∧
          (t.ctx n).x.planAt = (third.map (·.2)).getD 0) ∧
        (err0 ≠ err1 → third.map (·.1) = some err0 → (t.die 1).seqSuspect = true ∧ (t.ctx n).x.planBad = false) ∧
        (err0 ≠ err1 → third.map (·.1) = some err1 → (t.die 0).seqSuspect = true ∧ (t.ctx n).x.planBad = false) ∧
        (err0 ≠ err1 → third.map (·.1) ≠ some err0 → third.map (·.1) ≠ some err1 → (t.ctx n).x.planBad = true ∧
          ∃ v, v ∈ t.host.events ∧ v.code = evShadeVerdict))

/-! ### Step attempts -/

/-- A due attempt starts, after the records of lower contexts that close in the same cycle (R452), and its cores ramp up (R41, R267, R270, R279, R283, R286, R287, R444): every counter is at INIT, every
thread of the chosen stream at its first command, its frames count from the frame that was fixed for it, the cells that came for it
before it started stay, the register values come into force, the counters of the step are cleared, a record opens; a wave is released 64 ns after the wave before it and reaches full rate 256 engine cycles later. -/
def Obligations.AttemptsStartAndRampUp : Prop :=
  ∀ (n : CtxId) (s : State),
    (∀ (e0 e1 : BitVec 256) (j : Job), (s.ctx n).job = some j → startDue s n = true → closeStalls s n = false → closesAfter s n = false →
      ∃ t, exec (.stepStart n e0 e1) s = .next t ∧ (t.ctx n).v.live = true ∧
        (t.ctx n).v.stepFrame = startFrom (s.ctx n).v (frameNow s) ∧ (t.ctx n).x = freshExch (s.ctx n).x ∧
        (t.ctx n).v.t = (s.ctx n).v.t ∧ (t.ctx n).v.a = (s.ctx n).v.a ∧ (t.ctx n).v.causes = [] ∧ (t.ctx n).runs = [] ∧
        (t.ctx n).ctrs = freshCtrs s (s.ctx n) ∧
        (t.ctx n).dl = applyDeadline (chooseStream (s.ctx n).dl (decide (0 < (s.ctx n).v.a))) ∧
        (t.ctx n).threads.map (fun x => (x.thread, x.core, x.next)) =
          (freshThreads (s.ctx n) (t.ctx n).dl.stream.toNat).map (fun x => (x.thread, x.core, 0)) ∧
        (t.ctx n).sel.fractionA = (s.ctx n).sel.fraction ∧ (t.ctx n).sel.seedA = (s.ctx n).sel.seed ∧
        (∃ r, (t.ctx n).record = some r ∧ r.t = (s.ctx n).v.t ∧ r.attempt = (s.ctx n).v.a ∧ r.startFrame = frameNow s) ∧
        (t.ctx n).ramp.t0.isSome = true ∧ otherCtxs n s t ∧
        (∀ c : CoreId, (t.core c).grid[n.val] = {} ∧ (t.core c).exc[n.val] = {} ∧ (t.core c).reCnt[n.val] = {} ∧ (t.core c).stall[n.val] = {}) ∧
        ((s.ctx n).record = none → t.mem = s.mem)) ∧
    (∀ (w : Fin 8) (t0 : Nat), (s.ctx n).ramp.t0 = some t0 →
      (t0 + 64 * w.val ≤ nsNow s → exec (.waveRelease n w) s = .next (s.modCtx n fun c =>
        { c with ramp := { c.ramp with released := upd c.ramp.released w fun _ => true } })) ∧
      (nsNow s < t0 + 64 * w.val → exec (.waveRelease n w) s = .next s) ∧
      (let due := t0 + 64 * w.val + ceilDiv 256000 (clockMHz s.ind.cadNow.toNat)
       ((s.ctx n).ramp.released[w.val] = true → due ≤ nsNow s → exec (.fullRate n w) s = .next (s.modCtx n fun c =>
          { c with ramp := { c.ramp with fullRate := upd c.ramp.fullRate w fun _ => true } })) ∧
       ((s.ctx n).ramp.released[w.val] = false ∨ nsNow s < due → exec (.fullRate n w) s = .next s)))

/-- At its commit frame an attempt commits (R253, R289, R424, R480, R544): the generation and the step number rise, every renewed shard's
alternate becomes current, pending host windows are published, the next step follows from the commit frame on or the job ends, a running
context in STATE 1; a halt that came before the frame's close prevents it, and a shard that is not sealed holds it back. A device that
only forwards goes on to the next step. -/
def Obligations.CommitsMakeAnAttemptEffective : Prop :=
  ∀ (n : CtxId) (e0 e1 : BitVec 256) (s : State) (k : Nat) (cf : FrameNo), (s.ctx n).v.commitAt = some (k, cf) → cf ≤ frameNow s →
    (∀ g, (s.ctx n).v.condemnAt = some g → cf < g) →
    (sealsDone (s.ctx n) = false → exec (.commit n e0 e1) s = .next s) ∧ (sealsDone (s.ctx n) = true →
    ((∀ g, (s.ctx n).v.haltAt = some g → cf < g) → ∀ j, (s.ctx n).job = some j → (s.ctx n).v.live = true → (s.ctx n).v.ended = true →
      (∀ x ∈ (s.ctx n).b.cores ++ (s.ctx n).b.mirrorCores, (s.core (coreOf x.2)).quarantined = false) →
      let last := decide (j.firstStep + j.steps ≤ (s.ctx n).v.t + 1)
      (last = true → closesAfter s n = false) →
      ∃ t, exec (.commit n e0 e1) s = .next t ∧ (t.ctx n).w.gen = (s.ctx n).w.gen + 1 ∧
        (t.ctx n).w.shards.map (fun x => (x.shard, x.cur)) =
          (s.ctx n).w.shards.map (fun x => (x.shard, if x.renewed then x.alt.getD x.cur else x.cur)) ∧
        t.host.windows = s.host.windows.map (fun w =>
          if w.ctx = n && w.state = 1 then { w with state := 2, readySeq := w.readySeq + 1 } else w) ∧
        (t.ctx n).runs = [] ∧ (t.ctx n).v.live = false ∧ (t.ctx n).v.a = 0 ∧ (t.ctx n).v.commitAt = none ∧
        (t.ctx n).v.t = (s.ctx n).v.t + 1 ∧
        (∀ m, m ≠ n → t.ctx m = { s.ctx m with w := { (s.ctx m).w with scrubStep := (t.ctx m).w.scrubStep } }) ∧
        (last = true → (t.ctx n).state = (if (s.ctx n).state = 2 then 1 else (s.ctx n).state) ∧ (t.ctx n).v.started = false ∧
          (t.ctx n).v.first = none ∧ (t.ctx n).record = none ∧
          (s.sep.size ≠ 0 → ∀ a, offRing s a → t.byte a = s.byte a)) ∧
        (last = false → (t.ctx n).state = (s.ctx n).state ∧ (t.ctx n).v.started = true ∧
          (t.ctx n).v.first = some cf ∧ t.mem = s.mem)) ∧
    (∀ g, (s.ctx n).v.haltAt = some g → g ≤ cf → exec (.commit n e0 e1) s = .next (modV n (fun v => { v with
      commitAt := none, haltAt := if (s.ctx n).state = 2 ∨ (s.ctx n).job.isNone = true then none else some g }) s)) ∧
    ((s.ctx n).job = none → (s.ctx n).v.haltAt = none → exec (.commit n e0 e1) s = .next (transitTo n cf (modV n (fun v =>
      { v with commitAt := none, haltAt := none, t := v.t + 1, a := 0, started := true }) s))))

/-- Condemnation and what leads to it or away from it (R254, R282, R476, R483 to R485, R488): at its instant the attempt is
abandoned and the next one starts 64 frames later, after the fourth the context faults; the record of an attempt that never started
follows the one that is open, which stays; a device that only forwards goes on to the next attempt, and the condemnation bars a commit
of it; a device is ready from the third frame after its attempt's end, while its seals hold; a cause after the close of the commit frame halts; a resume brings STATE 2, or 1 where the job's last step has
committed, and a channel goes on where it was, validating or running; a missed deadline counts. -/
def Obligations.AttemptsAreCondemnedReplayedAndResumed : Prop :=
  ∀ (n : CtxId) (s : State),
    (∀ (e0 e1 : BitVec 256) (j : Job), instantDue s n = true → closesAfter s n = false → (s.ctx n).job = some j →
      (∀ x ∈ (s.ctx n).b.cores ++ (s.ctx n).b.mirrorCores, (s.core (coreOf x.2)).quarantined = false) →
      ∃ t, exec (.condemnationInstant n e0 e1) s = .next t ∧ (t.ctx n).runs = [] ∧ (t.ctx n).v.live = false ∧ (t.ctx n).v.causes = [] ∧
        (t.ctx n).v.condemnAt = none ∧ (t.ctx n).v.commitAt = none ∧
        (t.ctx n).v.condNs = freezeOf s ((s.ctx n).v.condemnAt.getD 0) ∧ otherCtxs n s t ∧
        (∀ r, (s.ctx n).record = some r → r.t = (s.ctx n).v.t → r.attempt = (s.ctx n).v.a → (t.ctx n).record = none) ∧
        (∀ r, (s.ctx n).record = some r → r.t ≠ (s.ctx n).v.t ∨ r.attempt ≠ (s.ctx n).v.a →
          (t.ctx n).record = some r ∧ (t.ctx n).unstarted.length = (s.ctx n).unstarted.length + 1 ∧ t.mem = s.mem) ∧
        (s.sep.size ≠ 0 → ∀ a, offRing s a → t.byte a = s.byte a) ∧ (∃ v, v ∈ t.host.events ∧ v.code = evStepCondemned) ∧
        ((s.ctx n).v.a < 3 → (t.ctx n).v.a = (s.ctx n).v.a + 1 ∧ (t.ctx n).v.first = some ((s.ctx n).v.condemnAt.getD 0 + 64) ∧
          (t.ctx n).v.replayRun = true ∧ (t.ctx n).state = (s.ctx n).state ∧ (t.ctx n).v.faults = [] ∧
          (t.ctx n).v.prevFaults = (if (s.ctx n).v.faults = [] then (s.ctx n).v.prevFaults else (s.ctx n).v.faults)) ∧
        (3 ≤ (s.ctx n).v.a → (t.ctx n).v.first = none ∧ ((s.ctx n).state = 2 ∨ (s.ctx n).state = 3 → (t.ctx n).state = 4) ∧
          ∃ q, q ∈ t.rust.pending ∧ q.kind = ruReplayLimit)) ∧
    (∀ (e0 e1 : BitVec 256), instantDue s n = true → closesAfter s n = false → (s.ctx n).job = none →
      exec (.condemnationInstant n e0 e1) s = .next (transitTo n ((s.ctx n).v.condemnAt.getD 0 + 64) (modV n (fun v =>
        { v with causes := [], condemnAt := none, a := v.a + 1, condNs := freezeOf s ((s.ctx n).v.condemnAt.getD 0)
                 commitAt := (match v.commitAt with
                   | some (k, cf) => if (s.ctx n).v.condemnAt.getD 0 ≤ cf then none else some (k, cf)
                   | none => none) }) s))) ∧
    (∀ f, (s.ctx n).v.endFrame = some f → (s.ctx n).v.live = true →
      exec (.verdictHorizon n) s = .next (if f + 3 ≤ frameNow s ∧ sealsDone (s.ctx n) = true
        then modV n (fun v => { v with ready := true }) s else s)) ∧
    (∀ cause, attemptPending (s.ctx n) = true → afterClose s n = true → ∃ t, exec (.condemnLate n cause) s = .next t ∧ t.mem = s.mem ∧
      otherCtxs n s t ∧ ((s.ctx n).state = 2 → (t.ctx n).state = 3) ∧ (∃ q, q ∈ t.rust.pending ∧ q.kind = ruCondemnLate) ∧
      ∃ v, v ∈ t.host.events ∧ v.code = evCondemnLate) ∧
    (∀ f, (s.ctx n).v.resumeAt = some f → f ≤ frameNow s → isBright s = true → takesPart s = true → (s.ctx n).v.toReplay = false →
      (s.ctx n).state = 3 → jobDone (s.ctx n) = false → ∃ t, exec (.resumeEffect n) s = .next t ∧ (t.ctx n).state = 2 ∧ (t.ctx n).v.resumeAt = none ∧ (t.ctx n).v.resumeNs = nsNow s ∧
        t.mem = s.mem ∧ otherCtxs n s t ∧ (∀ r ∈ (t.ctx n).runs, r.waited = 0) ∧ (∀ x ∈ (t.ctx n).threads, x.waited = 0) ∧
        ∀ (c : CoreId) (i : Fin 16), (t.core c).dma[i.val] =
          if (s.core c).chan[i.val].valid = true ∧ (s.core c).chan[i.val].ctx = n ∧ (s.core c).dma[i.val].state = 3
            then { (s.core c).dma[i.val] with state := if chanBegan s n (s.core c).dma[i.val] then 2 else 1 } else (s.core c).dma[i.val]) ∧
    (∀ f, (s.ctx n).v.resumeAt = some f → f ≤ frameNow s → isBright s = true → takesPart s = true → (s.ctx n).v.toReplay = false →
      (s.ctx n).state = 3 → jobDone (s.ctx n) = true → ∃ t, exec (.resumeEffect n) s = .next t ∧ (t.ctx n).state = 1 ∧
        (t.ctx n).v.resumeAt = none ∧ t.mem = s.mem ∧ otherCtxs n s t) ∧
    ((s.ctx n).v.live = true → (s.ctx n).v.ended = false → (s.ctx n).dl.deadlineA ≠ 0 → (s.ctx n).dl.missed = false →
      (s.ctx n).v.stepFrame + (s.ctx n).dl.deadlineA.toNat ≤ frameNow s →
      ∃ t, exec (.deadlineMiss n) s = .next t ∧ t.mem = s.mem ∧ t.cores = s.cores ∧ otherCtxs n s t ∧ (t.ctx n).v = (s.ctx n).v ∧
        (t.ctx n).dl = { (s.ctx n).dl with misses := satAdd (s.ctx n).dl.misses 1, missed := true,
                                           fbNext := (s.ctx n).dl.fbNext || (s.ctx n).dl.fbEnA } ∧
        ∃ v, v ∈ t.host.events ∧ v.code = evDeadlineMiss ∧ v.detail = [put (s.ctx n).dl.deadlineA.toNat 0, put (t.ctx n).dl.misses.toNat 0])

/-- Seals and digest scrubs (R413, R422, R423, R429 to R431): in produce mode the header's VERSION, Tint and digest are written and
no other byte; in check mode a good header stays, but for a Tint of zero that is filled in, and a bad one condemns or, when the replay
fails too, faults. A scrub pass that is due takes the buffers in use for its scope and restarts both limits; it waits while a seal waits
for a digest unit, and then checks its scope and counts; a context whose buffer differs from its digest is halted with a record. -/
def Obligations.SealsAndScrubsCheckShardHeaders : Prop :=
  (∀ (n : CtxId) (shard : Nat) (s : State) (d : ShardDesc) (x : ShardState) (cb nb : Nat × Nat) (i : Nat),
     shardDesc (s.ctx n) shard = some d → shardOf (s.ctx n) shard = some x → x.renewed = true → x.isSealed = false →
     (s.ctx n).state = 2 ∨ (s.ctx n).state = 3 → (s.ctx n).v.live = true → sealDue s n d = true →
     shardBuf (s.ctx n) d x.cur = some cb → x.alt = some i → shardBuf (s.ctx n) d i = some nb →
     let ch := shardHdr s cb.1
     let nh := shardHdr s nb.1
     let done (failed : Bool) (t : State) : Prop := otherCtxs n s t ∧ t.cores = s.cores ∧
       ∃ y, shardOf (t.ctx n) shard = some y ∧ y.isSealed = true ∧ y.failed = failed
     (x.hdrWritten = false →
       let bs := shardPayload s nb.1 (hdrLength ch)
       ∃ t, exec (.seal n shard) s = .next t ∧ done x.failed t ∧
         t.mem = ((s.writeB nb.1 (leBytes 8 (wd ch 0 + 1).toNat ++ leBytes 16 (shardTint (s.ctx n) shard bs).toNat ++
           wordsToBytes [wd ch 3, wd ch 4])).writeB (nb.1 + 64) (wordsToBytes (payloadDigest bs))).mem ∧
         ∀ a, a < nb.1 ∨ nb.1 + 40 ≤ a → a < nb.1 + 64 ∨ nb.1 + 96 ≤ a → t.byte a = s.byte a) ∧
     (x.hdrWritten = true →
       let bs := shardPayload s nb.1 (hdrLength nh)
       let old := BitVec.ofNat 128 ((wd nh 1).toNat + (wd nh 2).toNat <<< 64)
       let good := hdrLength nh = hdrLength ch ∧ payloadDigest bs = hdrDigest nh ∧ fld (wd nh 3) 63 44 = shard ∧
         (wd ch 0).toNat < (wd nh 0).toNat ∧ (old = 0 ∨ old = shardTint (s.ctx n) shard bs)
       (good → ∃ t, exec (.seal n shard) s = .next t ∧ done x.failed t ∧ t.mem =
         (if old = 0 then s.writeB (nb.1 + 8) (leBytes 16 (shardTint (s.ctx n) shard bs).toNat) else s).mem) ∧
       (¬ good → ∃ t, exec (.seal n shard) s = .next t ∧ t.mem = s.mem ∧ otherCtxs n s t ∧
         (∃ y, shardOf (t.ctx n) shard = some y ∧ y.isSealed = true ∧ y.failed = true) ∧ (∃ v, v ∈ t.host.events ∧ v.code = evWeightDigest) ∧
         (x.failedBefore = true → (t.ctx n).state = 4) ∧
         (x.failedBefore = false → (s.ctx n).v.started = true → afterClose s n = false → caWeightDigest ∈ (t.ctx n).v.causes)))) ∧
  (∀ (upsets : List (Nat × Byte)) (s : State),
     let s1 := upsets.foldl (fun s u => s.writeB u.1 [((s.readB u.1 1).getD 0 0) ^^^ u.2]) s
     let s2 := startScrub s1
     (s.wscrub.scope = none → digestScrubDue s1 = false → exec (.digestScrubPass upsets) s = .next s1) ∧
     (s.wscrub.scope = none → digestScrubDue s1 = true → s2.wscrub.scope = some (scrubScope s1) ∧ s2.wscrub.last = nsNow s ∧
       (∀ n, (s2.ctx n).w.scrubStep = 0) ∧ s2.mem = s1.mem) ∧
     (sealWaits s2 = true → exec (.digestScrubPass upsets) s = .next s2) ∧
     (∀ l, s2.wscrub.scope = some l → sealWaits s2 = false → ∃ t, exec (.digestScrubPass upsets) s = .next t ∧ t.mem = s1.mem ∧
       t.wscrub.passes = satAdd s.wscrub.passes 1 ∧ t.wscrub.scope = none ∧
       (∀ (n : CtxId) (shard i a len : Nat) (d : ShardDesc), (n, shard, i) ∈ l → shardDesc (s.ctx n) shard = some d →
         shardBuf (s.ctx n) d i = some (a, len) →
         payloadDigest (shardPayload s1 a (hdrLength (shardHdr s1 a))) ≠ hdrDigest (shardHdr s1 a) →
         ((s.ctx n).state = 2 → (t.ctx n).state = 3) ∧
         ∃ q, q ∈ t.rust.pending ∧ q.kind = ruWeightScrub ∧ q.ctx = some n ∧ q.detail = leBytes 8 (d.shard * 4 + i)) ∧
       (l = [] → t.host = s.host ∧ t.cores = s.cores ∧ t.wscrub.mismatch = s.wscrub.mismatch)))

/-- Comparisons (R202, R275, R312, R313, R464, R465, R470): a second execution, in its context's turn and with its operands as they
stood before the bound run's writes, is compared with the first. One whose digests and judgement agree decides its check; one that
differs is shown, counted, and asks for a third core; a mirror's execution writes the mirror's own slabs; a final stage that agrees
releases what it held, its output or its repeat. A second execution out of its turn or at a bank that is being cleared waits. -/
def Obligations.ChecksCompareTheirDigests : Prop :=
  ∀ (n : CtxId) (thread cmd : Nat) (s : State) (r : Run), findRun s n thread cmd = some r → working s n r.core = true →
    let same (s t : State) : Prop := otherCtxs n s t ∧ t.cores = s.cores ∧ sameHost s t
    let shown (k : Check) (d : List TintOut) (k' : Option Check) (t : State) : Prop :=
      k' = some { k with digC := d, mism := true, third := k.checker.bind (thirdCore s n r) } ∧
      (t.die (dieOf (coreOf r.core))).shd[n.val].mismatches = satAdd (s.die (dieOf (coreOf r.core))).shd[n.val].mismatches 1
    (∀ k err errS, r.executed = true → awaitsDone r = false → r.check = some k → openCheck (some k) = true →
      let w := checkRun s n r
      let d := secondDigests w.digs err
      let turn := checkMayEnd s n r.eng (k.checker.getD 0)
      (turn = false ∨ bankAnswer s n r.ops.ranges = .waits → exec (.shadeCompare n thread cmd err errS) s = .next s) ∧
      (turn = true → bankAnswer s n r.ops.ranges = .served →
        ∃ t q, exec (.shadeCompare n thread cmd err errS) s = .next t ∧ findRun t n thread cmd = some q ∧ t.mem = s.mem ∧ same s t ∧
          (d = r.digP → errS = 0 → w.agrees r = true → q.check = some { k with digC := d, decided := true } ∧ t.dies = s.dies) ∧
          (d ≠ r.digP ∨ errS ≠ 0 ∨ w.agrees r = false → shown k d q.check t))) ∧
    (∀ k err, r.executed = true → awaitsDone r = false → r.mirror = some k → openCheck (some k) = true →
      (∀ y ∈ (s.ctx n).runs, y.thread = thread → y.cmd < cmd → openCheck y.mirror = false) →
      bankAnswer s n (mirrorOps s n r).ranges = .served →
      let x := mirrorExec s n r k
      let d := secondDigests x.2 err
      ∃ t q, exec (.mirrorCompare n thread cmd err) s = .next t ∧ findRun t n thread cmd = some q ∧ t.mem = x.1.mem ∧ otherCtxs n s t ∧
        sameHost s t ∧ (r.eng = .dma ∨ r.eng = .xe → x = (s, r.digM)) ∧
        (d = r.digP → q.mirror = some { k with digC := d, decided := true } ∧ t.dies = s.dies) ∧
        (d ≠ r.digP → shown k d q.mirror t)) ∧
    (∀ k err errS, r.phase = 5 → r.executed = false → r.final = some k → openCheck (some k) = true →
      checkMayEnd s n r.eng (k.checker.getD 0) = true → bankAnswer s n r.ops.ranges = .served →
      let w := checkRun s n r
      let d := if r.again.isSome then [] else secondDigests w.digs err
      (d ≠ r.digP ∨ errS ≠ 0 ∨ w.agrees r = false → ∃ t q, exec (.finalStageCheck n thread cmd err errS) s = .next t ∧
        findRun t n thread cmd = some q ∧ t.mem = s.mem ∧ q.executed = false ∧ shown k d q.final t ∧ same s t) ∧
      (∀ eff, d = r.digP → errS = 0 → w.agrees r = true → r.again = none → r.held = some eff → eff.queue = none →
        bankAnswer s n (writeRanges eff.writes) = .served → ∃ t q, exec (.finalStageCheck n thread cmd err errS) s = .next t ∧
        findRun t n thread cmd = some q ∧ q.executed = true ∧ q.final = some { k with digC := d, decided := true } ∧
        t.mem = (s.writeAll eff.writes).mem ∧ (∀ a, outside eff.writes a → t.byte a = s.byte a) ∧ otherCtxs n s t) ∧
      (∀ x, d = r.digP → errS = 0 → w.agrees r = true → r.again = some x → ∃ t q, exec (.finalStageCheck n thread cmd err errS) s = .next t ∧
        findRun t n thread cmd = some q ∧ q.s = x ∧ q.repeats = r.repeats + 1 ∧ q.phase = 7 ∧ q.partials = .none ∧ q.again = none ∧
        t.mem = s.mem ∧ otherCtxs n s t))

/-- Verdicts (R469 to R472): the third result decides; a checker in error is quarantined and the attempt goes on, a primary in
error is quarantined and the attempt condemned, no majority condemns; the anchor of the oldest record on which the digest units differ
is decided by the third computation, which marks a unit as suspect, or, as without a third computation, the record is lost and the
context faults. -/
def Obligations.VerdictsQuarantineAndCondemn : Prop :=
  ∀ (n : CtxId) (s : State),
    (∀ (cause thread cmd : Nat) (third : Option (BitVec 128)) (r : Run) (k : Check), findRun s n thread cmd = some r →
      checkOf r cause = some k → k.mism = true → k.decided = false → attemptPending (s.ctx n) = true →
      ∃ t, exec (.verdict n (.command cause thread cmd) third) s = .next t ∧
        (∃ q, q ∈ t.rust.pending ∧ q.kind = k.cause ∧ q.verdict.isSome = true) ∧
        ((verdictOf r k third).1 = 1 → ∀ c, k.checker = some c → (t.core (coreOf c)).quarantined = true) ∧
        ((verdictOf r k third).1 = 2 → (t.core (coreOf r.core)).quarantined = true) ∧
        ((verdictOf r k third).1 ≠ 1 → afterClose s n = false → cause ∈ (t.ctx n).v.causes)) ∧
    (∀ (r : Run) (k : Check) (q z role : Nat) (p c : BitVec 128), k.checker = some q → k.third = some z →
      roleDiff r.digP k.digC = some (role, p, c) → p ≠ c → (verdictOf r k (some 0)).1 = 1 ∧ (verdictOf r k (some (p ^^^ c))).1 = 2 ∧
        (∀ e, e ≠ 0 → e ≠ p ^^^ c → (verdictOf r k (some e)).1 = 3) ∧ (verdictOf r k none).1 = 3) ∧
    (∀ third, exec (.verdict n .plan third) s = .next s) ∧
    (∀ (r : ShutRec) (err : BitVec 256), (s.ctx n).unanchored = some r →
      let a := r.dig (s.ctx n) err
      let a0 := r.dig (s.ctx n) r.err0
      let a1 := r.dig (s.ctx n) r.err1
      let alone := (s.ctx n).shut = [r] ∧ r.prev = none
      (a = a0 ∨ a = a1 → ∃ t, exec (.anchorThird n err) s = .next t ∧ (t.die (if a = a0 then 1 else 0)).digestSuspect = true ∧
        otherCtxs n s t ∧ (alone → (t.ctx n).prevAnchor = anchorWords a ∧ (s.sep.stall = false → (t.ctx n).shut = [])) ∧
        (s.sep.size ≠ 0 → ∀ b, offRing s b → t.byte b = s.byte b)) ∧
      (let lost (t : State) : Prop := (∃ v, v ∈ t.host.events ∧ v.code = evCtxFault ∧ v.detail = [put flAnchorUnresolved 56]) ∧
          otherCtxs n s t ∧ (alone → (t.ctx n).shut = [] ∧ t.mem = s.mem ∧ (t.ctx n).prevAnchor = (s.ctx n).prevAnchor)
       (a ≠ a0 → a ≠ a1 → ∃ t, exec (.anchorThird n err) s = .next t ∧ lost t) ∧
       ∃ t, exec (.verdict n .anchor none) s = .next t ∧ lost t) ∧
      ∀ e : BitVec 128, exec (.verdict n .anchor (some e)) s = exec (.anchorThird n (e.setWidth 256)) s)

/-! ### The dispatcher -/

/-- The dispatcher (R265, R268, R271, R275, R280, R281): a head command whose checks pass enters its engine and its thread goes on;
a slot that is lent goes to its borrower for the whole beat, also where that has no head to issue;
a completion removes the command and applies its signals, a signal below zero is a fault; JOIN completes; a wait beyond its limit
faults its thread, or the context where it is the wait of a step start or of a landing (log entry 50). -/
def Obligations.DispatcherIssuesCompletesAndTimesOut : Prop :=
  ∀ (n : CtxId) (s : State),
    (∀ (core : CoreId) (eng slot : Nat) (e : Eng) (h : Head) (lent : Bool), engCode eng = some e → isBright s = true →
      (s.core core).quarantined = false → (s.ctx n).ramp.onIssue = false →
      (match e.pat with | some p => slotFor s n core.val p (slot % 32) e | none => some false) = some lent →
      chooseHead (issuable s n core.val e) = some h → powerLets s n core.val slot e.pat.isSome = true →
      (lent = true → bodyOp h.body = 0x3C → (s.ctx n).loose = true) → envOk (s.ctx n) h.env h.body = true →
      findRun s n h.t.thread h.t.next = none →
      let s1 := match lent, e.pat with
        | true, some p => lendSlot n core p (slot % 32) s
        | _, _ => s
      headPasses s1 n h →
      ∃ t q, exec (.commandIssue n core eng slot) s = .next t ∧ findRun t n h.t.thread h.t.next = some q ∧
        q.eng = (engOf h.body).getD .join ∧ q.env = h.env ∧ q.body = h.body ∧ q.executed = false ∧ q.lent = lent ∧
        (∀ y ∈ (t.ctx n).threads, y.thread = h.t.thread → ∃ x ∈ (s.ctx n).threads, x.thread = y.thread ∧ y.next = x.next + 1) ∧
        t.mem = s.mem ∧ otherCtxs n s t ∧ sameHost s t) ∧
    (∀ (core : CoreId) (eng slot p : Nat) (e : Eng), engCode eng = some e → e.pat = some p → isBright s = true →
      (s.core core).quarantined = false → slotFor s n core.val p (slot % 32) e = some true → issuable s n core.val e = [] →
      exec (.commandIssue n core eng slot) s = .next (lendSlot n core p (slot % 32) s)) ∧
    (∀ (done : List (Nat × Nat)), ∃ t, exec (.commandComplete n done) s = .next t ∧ t.mem = s.mem ∧ otherCtxs n s t ∧
      ∀ y ∈ done, ∀ r, findRun s n y.1 y.2 = some r → canComplete r = true → working s n r.core = true → findRun t n y.1 y.2 = none) ∧
    (∀ (r : Run) (ctr dec : Nat) (k : CtrState), (s.ctx n).runs.filter (fun x => x.thread == r.thread && x.cmd == r.cmd) = [r] →
      canComplete r = true → working s n r.core = true → envSigs r.env = [(ctr, dec)] → r.windows = [] → ctrRemote s (s.ctx n) ctr = false →
      (s.ctx n).ctrs.find? (fun k => k.ctr == ctr) = some k →
      ∃ t, exec (.commandComplete n [(r.thread, r.cmd)]) s = .next t ∧
        (dec ≤ k.value → ∃ y, (t.ctx n).ctrs.find? (fun k => k.ctr == ctr) = some y ∧ y.value = k.value - dec) ∧
        (k.value < dec → (⟨flDepUnderflow, r.thread, r.cmd⟩ : FaultRec) ∈ (t.ctx n).v.faults)) ∧
    (∀ (thread cmd : Nat) (r : Run), Issued s n thread cmd .join r →
      exec (.join n thread cmd) s = .next (modRun n thread cmd (fun r => { r with executed := true }) s)) ∧
    ((s.ctx n).state = 2 → (s.ctx n).v.faults = [] →
      let limit := waitLimit (s.ctx n)
      let faulted (thread cmd : Nat) (t : State) : Prop := (⟨flWaitTimeout, thread, cmd⟩ : FaultRec) ∈ (t.ctx n).v.faults ∧
        (t.ctx n).state = 4 ∧ (t.ctx n).dl.timeouts = satAdd (s.ctx n).dl.timeouts 1 ∧ t.mem = s.mem ∧ otherCtxs n s t
      let ctxLate := (limit < (s.ctx n).dl.stallWait ∧ startDue s n = true ∧ closeStalls s n = true) ∨
        (limit < (s.ctx n).dl.landWait ∧ landWaiting s n = true)
      (∀ thread y h, ¬ ctxLate → (s.ctx n).threads.find? (fun t => t.thread == thread && decide (limit < t.waited)) = some y →
        headOf s (s.ctx n) y = some h → headWaits s n h = true → ∃ t, exec (.waitTimeout n thread) s = .next t ∧ faulted thread y.next t) ∧
      (∀ thread r, ¬ ctxLate → (∀ y, (s.ctx n).threads.find? (fun t => t.thread == thread && decide (limit < t.waited)) = some y →
          ∀ h, headOf s (s.ctx n) y = some h → headWaits s n h = false) →
        (s.ctx n).runs.find? (fun r => r.thread == thread && decide (limit < r.waited) && runWaits s n r) = some r →
        ∃ t, exec (.waitTimeout n thread) s = .next t ∧ faulted thread r.cmd t) ∧
      (∀ thread, ctxLate →
        exec (.waitTimeout n thread) s = .next (ctxFault n flWaitTimeout (countTimeout n s))))

/-! ### The engines of a core -/

/-- The matrix engine (R82, R83, R103, R106, R113, R118 to R125): MM and MMD hold the products of their operands on the grid, but a
tile pauses while another of its context repeats; the drain judges the totals and writes, repeats at a new exponent, or keeps the
tile for a second run, and an exponent outside the grid is a fault; a repeat starts the products again; a convert pass goes on once
the queue has room. -/
def Obligations.MatrixEngineMultipliesAndDrains : Prop :=
  ∀ (n : CtxId) (thread cmd : Nat) (arb : List BankCycle) (s : State) (r : Run), findRun s n thread cmd = some r →
    working s n r.core = true → r.eng = .me →
    let s1 := arbitrate arb s
    let room (eff : Effects) : Prop := eff.queue = none ∨ (queueRoom s n (coreOf r.core) = true ∧ queueTurn s n r = true)
    (∀ o, r.ops = .me o →
      (r.phase = 2 → ∀ c, (c = .mm n thread cmd arb ∧ r.opcode = 0x10) ∨ (c = .mmd n thread cmd arb ∧ r.opcode = 0x11) →
        (pausedByRepeat s1 n r = true → exec c s = .next s1) ∧
        (pausedByRepeat s1 n r = false → bankAnswer s1 n o.readRanges = .served →
          ∃ t q, exec c s = .next t ∧ findRun t n thread cmd = some q ∧ q.partials = .sum (o.products s1 r.s) ∧ q.kdone = r.lastK ∧
            q.phase = (if r.role = 0 then 4 else if r.role = 3 ∧ rowsIn s (s.ctx n) r = true then 4 else 3) ∧ t.mem = s.mem ∧
            otherCtxs n s t ∧ sameHost s t ∧ sameUnits s t)) ∧
      (mayJudge r = true → sInRange r.s = false → ∃ t, exec (.drain n thread cmd arb) s = .next t ∧
        (⟨flGridRange, thread, cmd⟩ : FaultRec) ∈ (t.ctx n).v.faults ∧ t.mem = s.mem ∧ otherCtxs n s t) ∧
      (mayJudge r = true → sInRange r.s = true → bankAnswer s1 n o.drainRanges = .served →
        let tot := o.totals s1 r.s (match r.partials with | .sum l => l | _ => [])
        let eff := o.drain (r.ec s1 n) r.s r.repeats tot
        let twice := r.role == 3 && crossDevice (s.ctx n) r.chain
        (judge tot.flatten r.s r.repeats = .drain → twice = false → room eff → bankAnswer s1 n (writeRanges eff.writes) = .served →
          ∃ t, exec (.drain n thread cmd arb) s = .next t ∧ Released n r eff s1 t) ∧
        (judge tot.flatten r.s r.repeats = .drain → twice = false → ¬ room eff → exec (.drain n thread cmd arb) s = .next
          (modRun n thread cmd (fun x => { x with phase := 6, held := some eff, digP := eff.tints }) s1)) ∧
        (judge tot.flatten r.s r.repeats = .drain → twice = true → exec (.drain n thread cmd arb) s = .next
          (modRun n thread cmd (fun x => { x with phase := 5, held := some eff, digP := eff.tints }) s1)) ∧
        (∀ x, judge tot.flatten r.s r.repeats = .again x → twice = true → exec (.drain n thread cmd arb) s = .next
          (modRun n thread cmd (fun y => { y with phase := 5, again := some x, digP := [] }) s1)) ∧
        (∀ x, judge tot.flatten r.s r.repeats = .again x → twice = false → ∃ t q, exec (.drain n thread cmd arb) s = .next t ∧
          findRun t n thread cmd = some q ∧ q.s = x ∧ q.repeats = r.repeats + 1 ∧ q.phase = 7 ∧ q.partials = .none ∧ t.mem = s.mem ∧
          otherCtxs n s t ∧ sameHost s t) ∧
        (∀ x, judge tot.flatten r.s r.repeats = .range x → ∃ t, exec (.drain n thread cmd arb) s = .next t ∧
          (⟨flGridRange, thread, cmd⟩ : FaultRec) ∈ (t.ctx n).v.faults ∧ t.mem = s.mem ∧ otherCtxs n s t))) ∧
    (r.phase = 7 → setForRepeat s n r = true → ∃ t q, exec (.repeatPass n thread cmd) s = .next t ∧ findRun t n thread cmd = some q ∧
      q.phase = 2 ∧ q.kdone = 0 ∧ q.executed = false ∧ q.s = r.s ∧ t.mem = s.mem ∧ t.cores = s.cores ∧ otherCtxs n s t ∧ sameHost s t) ∧
    (∀ eff, r.phase = 6 → r.held = some eff → room eff → bankAnswer s n (writeRanges eff.writes) = .served →
      ∃ t, exec (.convertPass n thread cmd) s = .next t ∧ Released n r eff s t)

/-- An element program runs over its rows (R137 to R164, R85, R151, R167), through a number of chunks or to its end: a part leaves it
in progress with the rows written that are stored; at its end a command of its own writes the rest, and a stage of a chain holds its
rows as a partial, each with its own exponent (R158); a fault of a program is the command's and writes nothing. The repeats and the
exception results of what ran count in each case. Bank cycles only add to the stall counters. -/
def Obligations.ElementProgramsWriteTheirRows : Prop :=
  ∀ (n : CtxId) (thread cmd : Nat) (k : Option Nat) (arb : List BankCycle) (s : State) (r : Run) (o : EeOps),
    Issued s n thread cmd .ee r → r.opcode = 0x20 → r.phase = 0 ∨ r.phase = 7 → r.ops = .ee o →
    let s1 := arbitrate arb s
    (s1.mem = s.mem ∧ s1.ctxs = s.ctxs ∧ ∀ c, s1.core c = { s.core c with stall := (s1.core c).stall }) ∧
    (bankAnswer s1 n o.ranges = .served →
      let ran := eeRun s1 (s1.ctx n) o (if r.pass = 0 then none else some r.s) k r.ee
      let u := addCounts n (coreOf r.core) { repeats := ran.reps, exc := ran.exc } s1
      let st : EeSt := { ran with reps := 0, exc := {} }
      let counted (t : State) : Prop := (t.core (coreOf r.core)).exc[n.val] = (u.core (coreOf r.core)).exc[n.val] ∧
        (t.core (coreOf r.core)).grid[n.val].repeats = (u.core (coreOf r.core)).grid[n.val].repeats
      let eff := eeEffects (r.ec s1 n) o (r.role != 0) r.ee.row st
      (∀ x, st.fault = some x → ∃ t, exec (.ep n thread cmd k arb) s = .next t ∧ (⟨x.1, thread, cmd⟩ : FaultRec) ∈ (t.ctx n).v.faults ∧
        t.mem = s.mem ∧ otherCtxs n s t ∧ counted t) ∧
      (st.fault = none → st.done o = false → ∃ t q, exec (.ep n thread cmd k arb) s = .next t ∧ findRun t n thread cmd = some q ∧
        q.ee = st ∧ q.executed = false ∧ t.mem = (s.writeAll (eePart s1 o st r.ee.row)).mem ∧
        (∀ a, outside (eePart s1 o st r.ee.row) a → t.byte a = s.byte a) ∧ t.cores = u.cores ∧ otherCtxs n s t ∧ sameHost s t ∧
        sameUnits s t) ∧
      (st.fault = none → st.done o = true → r.role = 0 →
        ∃ t, exec (.ep n thread cmd k arb) s = .next t ∧ Released n r eff s1 t ∧ counted t) ∧
      (st.fault = none → st.done o = true → r.role ≠ 0 → ∃ t q, exec (.ep n thread cmd k arb) s = .next t ∧
        findRun t n thread cmd = some q ∧ q.partials = .sum ((eePartials st).map fun p => [p.el]) ∧ q.rowS = (eePartials st).map (·.s) ∧
        q.phase = (if r.role = 3 ∧ rowsIn s (s.ctx n) r = true then 4 else 3) ∧ t.mem = (s.writeAll eff.writes).mem ∧
        (∀ a, outside eff.writes a → t.byte a = s.byte a) ∧ t.cores = u.cores ∧ otherCtxs n s t ∧ sameHost s t ∧ sameUnits s t))

/-- The layout engine (R171 to R174, R177): LXPOSE, LGATHER and LCONV write their output rows, through a number of rows or to their
end, where the header follows; LSEAL writes its header, LCTR its counter once that has settled, in a lent slot at once, which
counts; COUNTER_SETTLED does the same for a waiting LCTR, and both do nothing before. -/
def Obligations.LayoutCommandsWriteTheirTiles : Prop :=
  ∀ (n : CtxId) (thread cmd : Nat) (arb : List BankCycle) (s : State) (r : Run) (o : LeOps), Issued s n thread cmd .le r → r.ops = .le o →
    let s1 := arbitrate arb s
    let does (c : Instr) (eff : Effects) (u : State) : Prop := ∃ t, exec c s = .next t ∧ Released n r eff u t
    (bankAnswer s1 n o.ranges = .served →
      (∀ (k : Option Nat) (idx : List Nat) (c : Instr), (c = .lxpose n thread cmd k arb ∧ r.opcode = 0x30) ∨
          (c = .lgather n thread cmd k arb ∧ r.opcode = 0x31) ∨ (c = .lconv n thread cmd k arb ∧ r.opcode = 0x32) →
        let lo := r.le.rows.length
        let hi := min o.outRows (lo + k.getD o.outRows)
        let rs := r.le.rows ++ (List.range (hi - lo)).map fun i => leRow s1 o idx (lo + i)
        (∀ x, (if lo = 0 then leIdx s1 o else .ok r.le.idx) = .error x → x.1 ≠ flWait → ∃ t, exec c s = .next t ∧
          (⟨x.1, thread, cmd⟩ : FaultRec) ∈ (t.ctx n).v.faults ∧ t.mem = s.mem ∧ otherCtxs n s t) ∧
        ((if lo = 0 then leIdx s1 o else .ok r.le.idx) = .ok idx →
         (hi < o.outRows → ∃ t q, exec c s = .next t ∧ findRun t n thread cmd = some q ∧ q.le = { idx := idx, rows := rs } ∧ q.executed = false ∧
          t.mem = (s.writeAll (leRowWrites o lo rs)).mem ∧ (∀ a, outside (leRowWrites o lo rs) a → t.byte a = s.byte a) ∧
          t.cores = s1.cores ∧ otherCtxs n s t ∧ sameHost s t ∧ sameUnits s t) ∧
         (¬ hi < o.outRows → does c (leEffects (r.ec s1 n) o lo rs) s1))) ∧
      (∀ idx, r.opcode = 0x33 → (if r.le.rows.length = 0 then leIdx s1 o else .ok r.le.idx) = .ok idx →
        does (.lseal n thread cmd arb) (lsealEff (r.ec s1 n) o) s1)) ∧
    (let v := (((s.ctx n).ctrs.find? fun k => k.ctr == o.ctr).map (·.value)).getD 0
     r.opcode = 0x3C →
      (r.lent = false → settled s1 n r.lctr = true → bankAnswer s1 n o.ranges = .served →
        does (.lctr n thread cmd arb) (lctrEff (r.ec s1 n) o v true) s1) ∧
      (r.lent = false → settled s n r.lctr = true → bankAnswer s n o.ranges = .served →
        does (.counterSettled n thread cmd) (lctrEff (r.ec s n) o v true) s) ∧
      (r.lent = false → settled s1 n r.lctr = false → exec (.lctr n thread cmd arb) s = .next s1) ∧
      (r.lent = true ∨ settled s n r.lctr = false → exec (.counterSettled n thread cmd) s = .next s) ∧
      (let s2 := s1.modCtx n fun c => { c with cntRead := satAdd c.cntRead 1 }
       r.lent = true → bankAnswer s1 n o.ranges = .served → does (.lctr n thread cmd arb) (lctrEff (r.ec s2 n) o v false) s2))

/-- The reduction engine, every opcode (R183 to R192, R194, R197): a command of its own writes what its partial finishes to, RSUM
at the exponent that its judgement settles; a stage before the last holds its partial, and so does a LAST stage until its rows are
in; then it writes the result. NaN elements left out are counted, and TAPX empties its channel. -/
def Obligations.ReductionsWriteTheirResults : Prop :=
  ∀ (n : CtxId) (thread cmd : Nat) (arb : List BankCycle) (s : State) (r : Run) (o : ReOps), Issued s n thread cmd .re r → r.ops = .re o →
    0x50 ≤ r.opcode → r.opcode ≤ 0x59 →
    let s1 := arbitrate arb s
    bankAnswer s1 n o.ranges = .served →
    let c := reCommand r.opcode n thread cmd arb
    let key := (n, o.channel)
    let k := coreOf r.core
    let tap := if r.opcode = 0x59 then (assocGet key (s.core k).taps).getD {} else {}
    let own := reOwn s1 o r.s tap
    let s2 := addCounts n k { nanExcl := own.2 }
      (if r.opcode = 0x59 then modRun n thread cmd (fun x => { x with tapIn := tap })
        (s1.modCore k fun k => { k with taps := k.taps.filter fun t => t.1 != key }) else s1)
    let eff := { reFinish (r.ec s2 n) o (reOwn s2 o r.s tap).1 r.s 0 with repeats := 0 }
    (r.phase = 2 ∨ r.phase = 7 → r.role = 0 → o.op ≠ 0x50 → bankAnswer s2 n (writeRanges eff.writes) = .served →
      ∃ t, exec c s = .next t ∧ Released n r eff s1 t ∧ (r.opcode = 0x59 → assocGet key (t.core k).taps = none) ∧
        (t.core k).reCnt[n.val].nanExcl = satAdd (satAdd (s.core k).reCnt[n.val].nanExcl own.2) eff.nanExcl) ∧
    (∀ sv reps p, r.phase = 2 ∨ r.phase = 7 → r.role = 0 → o.op = 0x50 → reSettle s2 o 9 r.s 0 = .ok (sv, reps, p) →
      let eff := { reFinish (r.ec s2 n) o p sv reps with repeats := reps }
      bankAnswer s2 n (writeRanges eff.writes) = .served → ∃ t, exec c s = .next t ∧ Released n r eff s1 t) ∧
    (∀ sv reps, r.phase = 2 ∨ r.phase = 7 → r.role = 0 → o.op = 0x50 → reSettle s2 o 9 r.s 0 = .error (sv, reps) →
      ∃ t, exec c s = .next t ∧ (⟨flGridRange, thread, cmd⟩ : FaultRec) ∈ (t.ctx n).v.faults ∧ t.mem = s.mem ∧ otherCtxs n s t) ∧
    (r.phase = 2 ∨ r.phase = 7 → r.role = 1 ∨ r.role = 2 ∨ (r.role = 3 ∧ rowsIn s (s.ctx n) r = false) →
      ∃ t q, exec c s = .next t ∧ findRun t n thread cmd = some q ∧ q.partials = own.1 ∧ q.phase = 3 ∧ t.mem = s.mem ∧ otherCtxs n s t ∧
        sameHost s t ∧ sameUnits s t) ∧
    (r.phase = 2 ∨ r.phase = 7 → r.role = 3 → rowsIn s (s.ctx n) r = true → crossDevice (s.ctx n) r.chain = false →
      (∀ rows, own.1 = .sum rows → sInRange r.s = true ∧ judge (sumTotals rows) r.s r.repeats = .drain) →
      let eff := reFinish (r.ec s2 n) o own.1 r.s r.repeats
      bankAnswer s2 n (writeRanges eff.writes) = .served → ∃ t, exec c s = .next t ∧ Released n r eff s1 t) ∧
    (r.phase = 4 → r.role = 3 → crossDevice (s.ctx n) r.chain = false →
      (∀ rows, r.partials = .sum rows → sInRange r.s = true ∧ judge (sumTotals rows) r.s r.repeats = .drain) →
      let eff := reFinish (r.ec s1 n) o r.partials r.s r.repeats
      bankAnswer s1 n (writeRanges eff.writes) = .served → ∃ t, exec c s = .next t ∧ Released n r eff s1 t)

/-- Chains (R74, R197 to R204, R208, R216): a partial row is added to its receiver's partial, from the stage before it or from its landed
cells, in a bank that serves the context; its S must be the receiver's; a row of another step is discarded, one that no stage expects is recorded, one that is uncorrectable on
the device condemns the step. A stage forwards the maxima of its header words and the last stage fixes the exponent; a return word
brings the exponent, a repeat or the end. -/
def Obligations.ChainsPassRowsAndControlWords : Prop :=
  ∀ (n : CtxId) (s : State),
    (∀ (g : RowTags) (ue : Bool), runsNow s n = true → (s.ctx n).v.live = true →
      let c := s.ctx n
      let stray : Prop := ∃ t, exec (.partialRow n g ue) s = .next t ∧ t.mem = s.mem ∧ t.ctxs = s.ctxs ∧ t.cores = s.cores ∧
        ∃ q, q ∈ t.rust.pending ∧ q.kind = ruStrayPartial
      let ready (d : ChainEnt) (r : Run) : Prop := rowReceiver s c g = some d ∧ stageRun s n d = some r ∧ rowStray d r g = false ∧
        g.pass = r.pass ∧ r.phase = 3 ∧ r.partials ≠ .none ∧ (s.core (coreOf r.core)).quarantined = false
      let added (d : ChainEnt) (r : Run) (p : Partials) : Prop := ∃ t q, exec (.partialRow n g ue) s = .next t ∧
        stageRun t n d = some q ∧ q.inRows = r.inRows ++ [g.row] ∧
        q.partials = r.partials.addRow d.kind (d.kM1 + 1) (r.eng == .re && bit (wd r.body 0) 43) g.row p (r.sAt g.row) ∧
        (t.core (coreOf r.core)).reCnt[n.val].rowsIn = satAdd (s.core (coreOf r.core)).reCnt[n.val].rowsIn 1 ∧
        t.mem = s.mem ∧ otherCtxs n s t ∧ sameHost s t ∧ sameUnits s t
      let fails (r : Run) (code : Nat) : Prop := ∃ t, exec (.partialRow n g ue) s = .next t ∧
        (⟨code, r.thread, r.cmd⟩ : FaultRec) ∈ (t.ctx n).v.faults ∧ t.mem = s.mem ∧ otherCtxs n s t
      (g.step ≠ c.v.t → exec (.partialRow n g ue) s = .next s) ∧
      (g.step = c.v.t →
        (rowReceiver s c g = none → stray) ∧
        (∀ d r, rowReceiver s c g = some d → stageRun s n d = some r → rowStray d r g = true → stray) ∧
        (∀ e d r p, stageEnt c g.chain g.stage = some e → ready d r → stageRun s n e = some p → rowReady s c e p g = true →
          (ue = false → (d.kind = 0 → p.sAt g.row = r.sAt g.row) → added d r p.partials) ∧
          (ue = false → d.kind = 0 → p.sAt g.row ≠ r.sAt g.row → fails r flFormatMismatch) ∧
          (ue = true → attemptPending c = true → afterClose s n = false → ∃ t, exec (.partialRow n g ue) s = .next t ∧
            caMemUe ∈ (t.ctx n).v.causes ∧ t.mem = s.mem ∧ otherCtxs n s t)) ∧
        (∀ w d r, stageEnt c g.chain g.stage = none → hopIn s c g.chain = some w → ready d r →
          (∀ a, ue = false → landedRow s n d w g.pass g.row = some (.ok a) →
            let nb := partialRowBytes d.kind d.width
            let x := rowOfWords d.kind g.row (bytesToWords (s.readB a nb))
            (bankAnswer s n [(a, nb)] = .served →
              ((d.kind = 0 → ∀ y ∈ x.2, y = r.sAt g.row) → added d r x.1) ∧
              (d.kind = 0 → (∃ y ∈ x.2, y ≠ r.sAt g.row) → fails r flFormatMismatch)) ∧
            (bankAnswer s n [(a, nb)] = .waits → exec (.partialRow n g ue) s = .next s) ∧
            (∀ b, bankAnswer s n [(a, nb)] = .foreign b → fails r flBankOwner)) ∧
          (∀ f, ue = false → landedRow s n d w g.pass g.row = some (.error f) →
            (f.1 = flWait → exec (.partialRow n g ue) s = .next s) ∧ (f.1 ≠ flWait → fails r f.1)) ∧
          (ue = true ∨ landedRow s n d w g.pass g.row = none → exec (.partialRow n g ue) s = .next s)))) ∧
    (∀ chain stage e r, stageEnt (s.ctx n) chain stage = some e → findRun s n e.thread e.cmd = some r → working s n r.core = true →
      (∀ h0, r.phase = 1 ∨ r.eng = .ee → r.hdrDone = false → headerIn s n e = some h0 →
        let h := mergeHdr h0 r.hdr
        (e.role ≠ 3 → ∃ t q, exec (.headerWord n chain stage) s = .next t ∧ stageRun t n e = some q ∧ q.hdr = h ∧ q.hdrDone = true ∧
          q.phase = r.phase ∧ t.mem = s.mem ∧ otherCtxs n s t ∧ sameHost s t) ∧
        (∀ sv, e.role = 3 → finalS r h = some sv → ∃ t q, exec (.headerWord n chain stage) s = .next t ∧ stageRun t n e = some q ∧
          q.s = sv ∧ q.phase = 2 ∧ q.hdrDone = true ∧ t.mem = s.mem ∧ otherCtxs n s t ∧ sameHost s t)) ∧
      (∀ kind sv reps, e.role ≠ 3 → (returnsFor s n e r).find? (takesReturn s n e r) = some (kind, sv, reps) →
        ∃ t q, exec (.returnWord n chain stage) s = .next t ∧ stageRun t n e = some q ∧ otherCtxs n s t ∧ sameHost s t ∧
          (kind = 0 → r.phase = 1 → q.s = sv ∧ q.phase = 2 ∧ t.mem = s.mem) ∧
          (kind = 1 → q.s = sv ∧ q.rowS = [] ∧ q.repeats = reps ∧ q.pass = r.pass + 1 ∧ q.phase = 7 ∧ q.partials = .none ∧ t.mem = s.mem) ∧
          (kind = 2 → q.retDone = true ∧ q.held = none ∧
            t.mem = (match r.held with | some eff => (s.writeAll eff.writes).mem | none => s.mem))))

/-! ### The movers -/

/-- The DMA engine (R231 to R248, R400, R405, R544): a DCOPY is walked once; then it writes its destinations from its sources and no other
byte, and its channel goes on to its next command; a part of it leaves it in progress, its descriptor and bytes done at the channel; it
waits where a reference of it waits, and where the read or write that comes next does. A failed check and a window that would be
filled too far stop the channel with a fault. A DSETTLE completes once its writes have arrived. A DSCAT adds its values at its indices,
to its end or through a number of them. -/
def Obligations.DmaCopiesSettlesAndScatters : Prop :=
  ∀ (n : CtxId) (thread cmd : Nat) (arb : List BankCycle) (s : State) (r : Run), Issued s n thread cmd .dma r →
    let s1 := arbitrate arb s
    let e := r.ec s1 n
    let k := coreOf r.core
    let chan (t : State) : DmaStat := (t.core k).dma[r.chan.val]
    let goesOn (t : State) : Prop := (chan t).queue = (chan s).queue.drop 1 ∧
      (∃ q, findRun t n thread cmd = some q ∧ q.executed = true) ∧ otherCtxs n s t ∧ sameHost s t ∧ sameUnits s t
    let stopped (c : Instr) (x : Nat × Word) : Prop := (x.1 = flWait → exec c s = .next s1) ∧ (x.1 ≠ flWait → ∃ t, exec c s = .next t ∧
      (⟨x.1, thread, cmd⟩ : FaultRec) ∈ (t.ctx n).v.faults ∧ (chan t).state = 4 ∧ (chan t).cause = 2 ∧ t.mem = s.mem ∧ otherCtxs n s t)
    (r.opcode = 0x60 → chanHead s r = true →
      let p : DmaPart := r.part.getD { idx := 0, bytes := 0, ref := wd r.body 1 }
      let held := heldBytes (chan s).hold
      let fresh : Prop := ∀ y, r.ops ≠ .copy y
      (∀ xs u, (r.ops = .copy xs ∧ u = s1) ∨ (fresh ∧ ∃ ds s', dcopyWalk e r.body = .ok ds ∧ descsHeld e ds = false ∧
          dcopyCheck e ds = .ok (xs, s') ∧ u = modRun n thread cmd (fun r => { r with ops := .copy xs }) (copyPins e xs s')) →
        let rest := xs.drop p.idx
        let src := restParts (·.src) (p.seen.length + held.length) rest
        let dst := restParts (·.dst) p.seen.length rest
        let ready := readyDescs u n p.seen.length held.length rest
        let free (src dst : List (Seg × Ref)) : Prop := partsWait u n src dst = false ∧ copyOver (u.ctx n) dst = none ∧
          bankAnswer u n ((src ++ dst).filterMap fun y => y.1.range) = .served
        (ready = 0 → rest ≠ [] → exec (.dcopy n thread cmd none arb) s = .next u) ∧
        (∀ w, ready = rest.length → partsWait u n src dst = false → copyOver (u.ctx n) dst = some w →
          ∃ t, exec (.dcopy n thread cmd none arb) s = .next t ∧ (⟨flExchangeOver, thread, cmd⟩ : FaultRec) ∈ (t.ctx n).v.faults ∧
            (chan t).state = 4 ∧ (chan t).cause = 2 ∧ t.mem = u.mem ∧ otherCtxs n s t) ∧
        (ready = rest.length → free src dst → ∃ t, exec (.dcopy n thread cmd none arb) s = .next t ∧ goesOn t ∧
          (r.mirror = none →
            t.mem = (copyDescs (r.ec u n) held p.seen { s := u, tints := p.tints, digs := p.digs, ends := p.ends } rest p.idx).s.mem ∧
            (∀ a, ¬ copyStores e xs a → t.byte a = s.byte a) ∧
            (∀ x a b len ra rb, xs = [x] → x.d.gather = 0 → x.d.hdrs = false → x.src = [(.mem a len, ra)] → x.dst = [(.mem b len, rb)] →
              r.part = none → held = [] → t.mem = (s.writeB b (s.readB a len)).mem))) ∧
        (∀ (stop : CopyStop) (x : DescS), p.idx ≤ stop.desc → rest[stop.desc - p.idx]? = some x →
          let seen := if stop.desc = p.idx then p.seen.length else 0
          let old := if stop.desc = p.idx then held.length else 0
          seen ≤ stop.written → seen + old ≤ stop.read → stop.written ≤ stop.read → stop.read ≤ segsLen x.src →
          stop.read - stop.written ≤ (s.core k).chan[r.chan.val].slices.toNat * 1024 → stop.written % 8 = 0 → stop.read % 8 = 0 →
          stop.written = seen ∨ cutOk x.dst stop.written = true →
          (let full := rest.take (stop.desc - p.idx)
           free (restParts (·.src) (p.seen.length + held.length) full ++ subSegs x.src (seen + old) (stop.read - (seen + old)))
             (restParts (·.dst) p.seen.length full ++ subSegs x.dst seen (stop.written - seen))) →
          ∃ t q y, exec (.dcopy n thread cmd (some stop) arb) s = .next t ∧ findRun t n thread cmd = some q ∧ q.executed = false ∧
            q.part = some y ∧ y.idx = stop.desc ∧ y.bytes = stop.written ∧ y.ref = x.ref.word ∧ (chan t).state = 2 ∧
            (chan t).queue = (chan s).queue ∧ (∀ a, ¬ copyStores e xs a → t.byte a = s.byte a) ∧ otherCtxs n s t ∧ sameHost s t)) ∧
      (fresh → ∀ upTo, let c := Instr.dcopy n thread cmd upTo arb
        (∀ x, dcopyWalk e r.body = .error x → stopped c x) ∧
        (∀ ds, dcopyWalk e r.body = .ok ds → descsHeld e ds = true → exec c s = .next (noteNextWait n thread cmd
          (ds.flatMap fun d => (d.src.map fun y => localRef e false y.1) ++ d.dst.map fun y => localRef e true y.1) s1)) ∧
        (∀ ds x, dcopyWalk e r.body = .ok ds → descsHeld e ds = false → dcopyCheck e ds = .error x → stopped c x))) ∧
    (r.opcode = 0x61 →
      ((∀ y ∈ r.written, y ∈ (s.ctx n).x.acked) → exec (.dsettle n thread cmd) s = .next (modRun n thread cmd (fun r => { r with executed := true }) s)) ∧
      (¬ (∀ y ∈ r.written, y ∈ (s.ctx n).x.acked) → exec (.dsettle n thread cmd) s = .next s)) ∧
    (r.opcode = 0x62 → chanHead s r = true →
      let refs := [Ref.ofWord (wd r.body 1), Ref.ofWord (wd r.body 2), Ref.ofWord (wd r.body 3)]
      let fresh : Prop := ∀ fmt sa da ixs, r.ops ≠ .scatter fmt sa da ixs
      (∀ fmt sa da ixs u upTo, (r.ops = .scatter fmt sa da ixs ∧ u = s1) ∨ (fresh ∧ refs.any (refWaits (s.ctx n)) = false ∧
          scatterCheck e r.body = .ok (fmt, sa, da, ixs) ∧
          u = modRun n thread cmd (fun r => { r with ops := .scatter fmt sa da ixs }) (takePins n thread refs s1)) →
        let w := fmtBits fmt / 8
        let lo := (r.part.getD { idx := 0, bytes := 0, ref := 0 }).bytes / w
        let hi := max lo (min (Option.getD upTo ixs.length) ixs.length)
        let ops := scatterOps s fmt sa ixs lo hi
        let held := ops.any fun x => pubHeld s (da + x.1 * w) w
        (held = true → exec (.dscat n thread cmd upTo arb) s = .next u) ∧
        (held = false → bankAnswer u n ((sa + lo * w, (hi - lo) * w) :: ops.map fun x => (da + x.1 * w, w)) = .served →
        ∃ t, exec (.dscat n thread cmd upTo arb) s = .next t ∧ (t.ctx n).scatter = satAdd (s.ctx n).scatter ops.length ∧
          (r.mirror = none ∨ hi ≠ ixs.length → t.mem = (ops.foldl (scatterOne fmt da) (s, [])).1.mem ∧
            ∀ a, (∀ y ∈ ops, a < da + y.1 * w ∨ da + y.1 * w + w ≤ a) → t.byte a = s.byte a) ∧
          (hi < ixs.length → ∃ q y, findRun t n thread cmd = some q ∧ q.executed = false ∧ q.part = some y ∧ y.bytes = hi * w ∧
            (chan t).state = 2 ∧ (chan t).queue = (chan s).queue ∧ otherCtxs n s t ∧ sameHost s t ∧ sameUnits s t) ∧
          (¬ hi < ixs.length → goesOn t))) ∧
      (fresh → refs.any (refWaits (s.ctx n)) = true → ∀ upTo,
        exec (.dscat n thread cmd upTo arb) s = .next (noteNextWait n thread cmd refs s1)) ∧
      (fresh → refs.any (refWaits (s.ctx n)) = false → ∀ x upTo, scatterCheck e r.body = .error x →
        stopped (.dscat n thread cmd upTo arb) x))

/-- The exchange engine (R407, R410, R412): XSEND, XRET and XBLK carry out their flows once their accesses are served. What goes to
other devices stands in the windows as the streams of the rules and leaves memory as it is, but for XSEND's combine area and mask;
an XBLK to a window of this device copies its rows there, and into a mirror's copy of the place (R312). Bytes for a cell that was already
sent fault (R599); rows that cannot land yet, and bytes for a host window that is published, hold the command back with none of its
effect (R421, R544). -/
def Obligations.ExchangeCommandsCarryOutTheirFlows : Prop :=
  ∀ (n : CtxId) (thread cmd : Nat) (arb : List BankCycle) (s : State) (r : Run), Issued s n thread cmd .xe r →
    let s0 := arbitrate arb s
    let refs := ((r.body.drop 2).take 5).map Ref.ofWord
    let s1 := takePins n thread refs s0
    let fresh : Prop := ∀ o, r.ops ≠ .xe o
    ∀ c, (c = .xsend n thread cmd arb ∧ r.opcode = 0x70) ∨ (c = .xret n thread cmd arb ∧ r.opcode = 0x71) ∨
        (c = .xblk n thread cmd arb ∧ r.opcode = 0x72) →
      (fresh → xeHeld (s.ctx n) r.body = true → exec c s = .next (noteNextWait n thread cmd refs s0)) ∧
      (∀ o, r.ops = .xe o ∨ (fresh ∧ xeHeld (s.ctx n) r.body = false ∧ xeRead (r.ec s0 n) r.body = .ok o) →
        bankAnswer s1 n o.ranges = .served →
        let m := if r.mirror.isSome then mirrorXe (ecOf s1 n true thread cmd) r.body else (s1, [])
        let e := r.ec m.1 n
        let x := xeDone e o
        let ws := o.wins e.ctx
        let far : Prop := ∀ w ∈ ws, w.src ≠ w.dst
        let len := o.tokens * o.rowBytes
        let fault (code : Nat) : Prop := ∃ t, exec c s = .next t ∧ (⟨code, thread, cmd⟩ : FaultRec) ∈ (t.ctx n).v.faults ∧ t.mem = s.mem ∧
          otherCtxs n s t
        let done (u : State) : Prop := ∃ t q, exec c s = .next t ∧ findRun t n thread cmd = some q ∧ q.executed = true ∧
          q.windows = o.flows ∧ t.mem = u.mem ∧ (t.ctx n).x = (u.ctx n).x ∧ t.dies = u.dies ∧ t.cores = s0.cores ∧ otherCtxs n s t ∧
          sameHost s t
        (x.pubHeld m.1 o = true → exec c s = .next s1) ∧
        (∀ w, x.pubHeld m.1 o = false → flowOver e.ctx x = some w → fault flExchangeOver) ∧
        (x.pubHeld m.1 o = false → flowOver e.ctx x = none →
          (∀ f, xeApply e o x m.1 = .error f → (f.1 = flWait → exec c s = .next (noteNextWait n thread cmd x.refs s1)) ∧
            (f.1 ≠ flWait → fault f.1)) ∧
          (∀ u, xeApply e o x m.1 = .ok u → done u) ∧
          (far → ∃ u, xeApply e o x m.1 = .ok u ∧
            ((ws.map (·.win)).Nodup → ∀ y ∈ x.streams, assocGet y.1.win (u.ctx n).x.push = some (memWrite 0 [] 0 y.2.2)) ∧
            (r.mirror = none → o.op = 0x70 → (∀ i w, ws[i]? = some w → ∃ f, x.streams[i]? = some (w, f, o.sendStream s1 i)) ∧
              (o.idx.length ≤ o.tokens * o.k → ∀ a, a < o.dst ∨ o.dst + o.tokens * o.k * o.rowBytes ≤ a →
                a < o.mask ∨ o.mask + ceilDiv (o.tokens * o.k) 8 ≤ a → u.byte a = s.byte a)) ∧
            (r.mirror = none → o.op = 0x71 → u.mem = s.mem) ∧
            (r.mirror = none → o.op = 0x72 → u.mem = s.mem ∧ ∀ y ∈ x.streams, y.2.2 = s.readB o.src len)) ∧
          (∀ w b, r.mirror = none → o.op = 0x72 → ws = [w] → w.src = w.dst → w.kind = 0 ∨ w.kind = 4 →
            let ref := Ref.ofWord w.dstRef
            let copies := (mirrorAddr (s1.ctx n) ref).toList
            refWaits (s1.ctx n) ref = false → landAddr s1 n ref len = .ok b →
            bankAnswer s1 n ((b, len) :: copies.map fun a => (a, len)) = .served → pubHeld s1 b len = false →
            ∃ u, xeApply e o x m.1 = .ok u ∧
              u.mem = ((copies.foldl (fun u a => u.writeB a (s.readB o.src len)) s).writeB b (s.readB o.src len)).mem)))
end

