-- ==== Sys2Proof/Laws/Fields.lean ====
section
/-! SUPPORT. Laws of bit fields: what a register's field reads as after a masked write, and how a word splits into halves
and nibbles. -/

namespace Sys2Proof.Machine

theorem ones_getLsbD (hi lo i : Nat) (h : hi < 64) (hl : lo ≤ hi) :
    (ones hi lo).getLsbD i = (decide (lo ≤ i) && decide (i ≤ hi)) := by
  unfold ones
  simp only [BitVec.getLsbD_ofNat, Nat.testBit_shiftLeft, Nat.testBit_two_pow_sub_one]
  by_cases h1 : lo ≤ i <;> by_cases h2 : i ≤ hi <;> simp [h1, h2] <;> omega

theorem fld_lt {w : Nat} (v : BitVec w) (hi lo : Nat) : fld v hi lo < 2 ^ (hi + 1 - lo) := Nat.mod_lt _ (Nat.two_pow_pos _)

/-- A field inside a write mask reads as written. -/
theorem fld_merge (cur v m : Word) (hi lo : Nat) (hm : ∀ i, lo ≤ i → i ≤ hi → m.getLsbD i = true) :
    fld ((cur &&& ~~~m) ||| (v &&& m)) hi lo = fld v hi lo := by
  unfold fld
  apply Nat.eq_of_testBit_eq
  intro i
  simp only [Nat.testBit_mod_two_pow, Nat.testBit_shiftRight]
  by_cases h : i < hi + 1 - lo
  · have := hm (lo + i) (by omega) (by omega)
    simp only [h, decide_true, Bool.true_and]
    rw [← BitVec.getLsbD, ← BitVec.getLsbD]
    simp [this]
  · simp [h]

/-- A bit inside a write mask reads as written. -/
theorem bit_merge (cur v m : Word) (i : Nat) (hm : m.getLsbD i = true) : bit ((cur &&& ~~~m) ||| (v &&& m)) i = bit v i := by
  unfold bit
  rw [← BitVec.getLsbD, ← BitVec.getLsbD]
  have : i < 64 := by
    by_cases h : i < 64
    · exact h
    · rw [BitVec.getLsbD_of_ge _ _ (by omega)] at hm; cases hm
  simp [hm]

/-- A field of a register reads as a write merges it. -/
theorem fld_mergeWrite (r : Reg) (cur v : Word) (hi lo : Nat) (hm : ∀ i, lo ≤ i → i ≤ hi → (writeMask r).getLsbD i = true) :
    fld (mergeWrite r cur v) hi lo = fld v hi lo := fld_merge _ _ _ _ _ hm

theorem bit_mergeWrite (r : Reg) (cur v : Word) (i : Nat) (hm : (writeMask r).getLsbD i = true) :
    bit (mergeWrite r cur v) i = bit v i := bit_merge _ _ _ _ hm

/-- A word is its two halves. -/
theorem put_halves (v : Word) : put (BitVec.ofNat 32 (fld v 63 32)).toNat 32 ||| put (BitVec.ofNat 32 (fld v 31 0)).toNat 0 = v := by
  apply BitVec.eq_of_getLsbD_eq
  intro i hi
  simp only [put, BitVec.getLsbD_or, BitVec.getLsbD_ofNat, BitVec.toNat_ofNat, fld, Nat.testBit_shiftLeft, Nat.testBit_mod_two_pow,
    Nat.testBit_shiftRight, hi, decide_true, Bool.true_and]
  by_cases h : 32 ≤ i
  · have e1 : i - 32 < 32 := by omega
    have e2 : 32 + (i - 32) = i := by omega
    have e3 : ¬ i < 32 := by omega
    simp [h, e1, e2, e3, BitVec.getLsbD]
  · have e3 : i < 32 := by omega
    simp [h, e3, BitVec.getLsbD]

theorem nibbleSum_high (v : Word) : nibbleSum v.toNat 32 = nibbleSum (BitVec.ofNat 32 (fld v 63 32)).toNat 0 := by
  have h1 : (BitVec.ofNat 32 (fld v 63 32)).toNat = v.toNat >>> 32 := by
    have hv := v.isLt
    simp only [BitVec.toNat_ofNat, fld, Nat.shiftRight_eq_div_pow]; omega
  rw [h1]; simp only [nibbleSum, Nat.shiftRight_add, Nat.zero_add]

theorem nibbleSum_low (v : Word) : nibbleSum v.toNat 0 = nibbleSum (BitVec.ofNat 32 (fld v 31 0)).toNat 0 := by
  have h1 : (BitVec.ofNat 32 (fld v 31 0)).toNat = v.toNat % 2 ^ 32 := by
    simp only [BitVec.toNat_ofNat, fld, Nat.shiftRight_zero]; omega
  rw [h1]
  have : ∀ n ∈ List.range 8, (v.toNat >>> (0 + 4 * n)) % 16 = (v.toNat % 2 ^ 32) >>> (0 + 4 * n) % 16 := by
    intro n hn
    have hn : n < 8 := List.mem_range.1 hn
    have hh : n = 0 ∨ n = 1 ∨ n = 2 ∨ n = 3 ∨ n = 4 ∨ n = 5 ∨ n = 6 ∨ n = 7 := by omega
    rcases hh with h|h|h|h|h|h|h|h <;> subst h <;> simp only [Nat.shiftRight_eq_div_pow] <;> omega
  unfold nibbleSum; rw [List.map_congr_left this]

/-- Two next states are equal when their states are. -/
theorem next_congr {s t : State} (h : s = t) : (.next s : Host.Outcome State Fault Refusal) = .next t := by rw [h]

end Sys2Proof.Machine
end

