-- ==== Sys2Proof/Laws/Memory.lean ====
section
/-! SUPPORT. The canonical form of memory: every operation over memory keeps it, and a write changes the bytes written
and no other. -/

namespace Sys2Proof.Machine

/-- Memory in its canonical form (R206; log entry 4). -/
def MemOk (m : List (Nat × Byte)) : Prop := memWf memDefault m = true

/-- The flash in its canonical form (log entry 5). -/
def FlashOk (m : List (Nat × Byte)) : Prop := memWf flashDefault m = true

theorem memWf_cons (d : Byte) (c : Nat × Byte) (m : List (Nat × Byte)) :
    memWf d (c :: m) = true ↔ c.2 ≠ d ∧ (∀ x ∈ m, c.1 < x.1) ∧ memWf d m = true := by
  obtain ⟨a, b⟩ := c
  simp [memWf, and_assoc]

theorem memWf_nil (d : Byte) : memWf d [] = true := rfl

theorem memWf_filter (d : Byte) (p : Nat × Byte → Bool) (m : List (Nat × Byte)) (h : memWf d m = true) :
    memWf d (m.filter p) = true := by
  induction m with
  | nil => rfl
  | cons c m ih =>
    rw [memWf_cons] at h
    rw [List.filter_cons]
    split
    · rw [memWf_cons]
      exact ⟨h.1, fun x hx => h.2.1 x (List.mem_filter.mp hx).1, ih h.2.2⟩
    · exact ih h.2.2

theorem memWf_append (d : Byte) (l m : List (Nat × Byte)) (hl : memWf d l = true) (hm : memWf d m = true)
    (h : ∀ x ∈ l, ∀ y ∈ m, x.1 < y.1) : memWf d (l ++ m) = true := by
  induction l with
  | nil => exact hm
  | cons c l ih =>
    rw [memWf_cons] at hl
    rw [List.cons_append, memWf_cons]
    refine ⟨hl.1, fun x hx => ?_, ih hl.2.2 fun x hx y hy => h x (List.mem_cons_of_mem _ hx) y hy⟩
    rcases List.mem_append.mp hx with hx | hx
    · exact hl.2.1 x hx
    · exact h c List.mem_cons_self x hx

theorem memCells_bound (d : Byte) (a : Nat) (bs : List Byte) :
    ∀ x ∈ memCells d a bs, a ≤ x.1 ∧ x.1 < a + bs.length := by
  induction bs generalizing a with
  | nil => intro x hx; exact absurd hx List.not_mem_nil
  | cons b bs ih =>
    intro x hx
    rw [memCells] at hx
    split at hx
    · have := ih (a + 1) x hx
      simp only [List.length_cons]; omega
    · rcases List.mem_cons.mp hx with rfl | hx
      · simp
      · have := ih (a + 1) x hx
        simp only [List.length_cons]; omega

theorem memCells_wf (d : Byte) (a : Nat) (bs : List Byte) : memWf d (memCells d a bs) = true := by
  induction bs generalizing a with
  | nil => rfl
  | cons b bs ih =>
    rw [memCells]
    split
    · exact ih (a + 1)
    · rename_i hb
      rw [memWf_cons]
      exact ⟨hb, fun x hx => (memCells_bound d (a + 1) bs x hx).1, ih (a + 1)⟩

/-- A write keeps the canonical form. -/
theorem memWrite_wf (d : Byte) (m : List (Nat × Byte)) (a : Nat) (bs : List Byte) (h : memWf d m = true) :
    memWf d (memWrite d m a bs) = true := by
  unfold memWrite
  refine memWf_append d _ _ (memWf_append d _ _ (memWf_filter d _ m h) (memCells_wf d a bs) ?_) (memWf_filter d _ m h) ?_
  · intro x hx y hy
    have hx := (List.mem_filter.mp hx).2
    have hy := (memCells_bound d a bs y hy).1
    simp only [decide_eq_true_eq] at hx
    omega
  · intro x hx y hy
    have hy := (List.mem_filter.mp hy).2
    simp only [decide_eq_true_eq] at hy
    rcases List.mem_append.mp hx with hx | hx
    · have hx := (List.mem_filter.mp hx).2
      simp only [decide_eq_true_eq] at hx
      omega
    · have hx := (memCells_bound d a bs x hx).2
      omega

/-- An erasure keeps the canonical form. -/
theorem memErase_wf (d : Byte) (m : List (Nat × Byte)) (a n : Nat) (h : memWf d m = true) :
    memWf d (memErase m a n) = true := memWf_filter d _ m h

theorem memGet_nil (d : Byte) (a : Nat) : memGet d [] a = d := rfl

theorem memGet_cons (d : Byte) (c : Nat × Byte) (m : List (Nat × Byte)) (a : Nat) :
    memGet d (c :: m) a = if c.1 = a then c.2 else memGet d m a := by
  unfold memGet
  rw [List.find?_cons]
  by_cases h : c.1 = a
  · simp [h]
  · rw [beq_eq_false_iff_ne.mpr h, if_neg h]

theorem memGet_append (d : Byte) (l m : List (Nat × Byte)) (a : Nat) (h : ∀ x ∈ l, x.1 ≠ a) :
    memGet d (l ++ m) a = memGet d m a := by
  induction l with
  | nil => rfl
  | cons c l ih =>
    rw [List.cons_append, memGet_cons, if_neg (h c List.mem_cons_self), ih fun x hx => h x (List.mem_cons_of_mem _ hx)]

theorem memGet_default (d : Byte) (m : List (Nat × Byte)) (a : Nat) (h : ∀ x ∈ m, x.1 ≠ a) : memGet d m a = d := by
  have := memGet_append d m [] a h
  rwa [List.append_nil, memGet_nil] at this

theorem memGet_append_of_mem (d : Byte) (l m : List (Nat × Byte)) (a : Nat) (h : ∀ x ∈ m, x.1 ≠ a) :
    memGet d (l ++ m) a = memGet d l a := by
  induction l with
  | nil => exact (memGet_default d m a h).trans (memGet_nil d a).symm
  | cons c l ih => rw [List.cons_append, memGet_cons, memGet_cons, ih]

theorem memGet_filter (d : Byte) (p : Nat × Byte → Bool) (m : List (Nat × Byte)) (a : Nat)
    (h : ∀ b, p (a, b) = true) : memGet d (m.filter p) a = memGet d m a := by
  induction m with
  | nil => rfl
  | cons c m ih =>
    rw [List.filter_cons, memGet_cons]
    split
    · rw [memGet_cons, ih]
    · rename_i hp
      rw [ih, if_neg]
      intro hc
      exact hp (by rw [← h c.2, ← hc])

theorem memGet_filter_out (d : Byte) (p : Nat × Byte → Bool) (m : List (Nat × Byte)) (a : Nat)
    (h : ∀ b, p (a, b) = false) : memGet d (m.filter p) a = d := by
  refine memGet_default d _ a fun x hx hxa => ?_
  have := (List.mem_filter.mp hx).2
  obtain ⟨k, b⟩ := x
  simp only at hxa
  subst hxa
  rw [h b] at this
  exact Bool.noConfusion this

theorem memGet_cells (d : Byte) (a : Nat) (bs : List Byte) (x : Nat) (h1 : a ≤ x) (h2 : x < a + bs.length) :
    memGet d (memCells d a bs) x = bs.getD (x - a) d := by
  induction bs generalizing a with
  | nil => simp only [List.length_nil] at h2; omega
  | cons b bs ih =>
    simp only [List.length_cons] at h2
    rw [memCells]
    by_cases hx : x = a
    · subst hx
      rw [Nat.sub_self, List.getD_cons_zero]
      split
      · rename_i hb
        rw [memGet_default, hb]
        intro y hy
        have := (memCells_bound d (x + 1) bs y hy).1
        omega
      · rw [memGet_cons, if_pos rfl]
    · obtain ⟨k, hk⟩ : ∃ k, x - a = k + 1 := ⟨x - a - 1, by omega⟩
      have hk' : x - (a + 1) = k := by omega
      rw [hk, List.getD_cons_succ, ← hk']
      split
      · exact ih (a + 1) (by omega) (by omega)
      · rw [memGet_cons, if_neg (fun h => hx h.symm)]
        exact ih (a + 1) (by omega) (by omega)

/-- Outside the bytes written, a write changes nothing. -/
theorem memGet_memWrite_outside (d : Byte) (m : List (Nat × Byte)) (a : Nat) (bs : List Byte) (x : Nat)
    (h : x < a ∨ a + bs.length ≤ x) : memGet d (memWrite d m a bs) x = memGet d m x := by
  have hc : ∀ y ∈ memCells d a bs, y.1 ≠ x := by
    intro y hy
    have := memCells_bound d a bs y hy
    omega
  unfold memWrite
  rcases h with h | h
  · rw [memGet_append_of_mem, memGet_append_of_mem d _ _ x hc, memGet_filter]
    · intro b; simpa using h
    · intro y hy
      have := (List.mem_filter.mp hy).2
      simp only [decide_eq_true_eq] at this
      omega
  · rw [memGet_append, memGet_filter]
    · intro b; simpa using h
    · intro y hy
      rcases List.mem_append.mp hy with hy | hy
      · have := (List.mem_filter.mp hy).2
        simp only [decide_eq_true_eq] at this
        omega
      · exact hc y hy

/-- A byte written reads as written. -/
theorem memGet_memWrite_inside (d : Byte) (m : List (Nat × Byte)) (a : Nat) (bs : List Byte) (x : Nat)
    (h1 : a ≤ x) (h2 : x < a + bs.length) : memGet d (memWrite d m a bs) x = bs.getD (x - a) d := by
  unfold memWrite
  rw [memGet_append_of_mem, memGet_append, memGet_cells d a bs x h1 h2]
  · intro y hy
    have := (List.mem_filter.mp hy).2
    simp only [decide_eq_true_eq] at this
    omega
  · intro y hy
    have := (List.mem_filter.mp hy).2
    simp only [decide_eq_true_eq] at this
    omega

/-- An erased byte reads as the default. -/
theorem memGet_memErase_inside (d : Byte) (m : List (Nat × Byte)) (a n x : Nat) (h1 : a ≤ x) (h2 : x < a + n) :
    memGet d (memErase m a n) x = d := by
  refine memGet_filter_out d _ m x fun b => ?_
  simp only [Bool.or_eq_false_iff, decide_eq_false_iff_not]
  omega

/-- Outside the bytes erased, an erasure changes nothing. -/
theorem memGet_memErase_outside (d : Byte) (m : List (Nat × Byte)) (a n x : Nat) (h : x < a ∨ a + n ≤ x) :
    memGet d (memErase m a n) x = memGet d m x := by
  refine memGet_filter d _ m x fun b => ?_
  simp only [Bool.or_eq_true, decide_eq_true_eq]
  exact h

end Sys2Proof.Machine
end

