-- ==== Sys2Proof/Laws/Frame.lean ====
section
/-! SUPPORT. What a meaning leaves of the queue, the memory and the flash: the pieces that the frame lemmas are made of. -/

namespace Sys2Proof.Machine

/-- The state that a meaning answers with, or the reset state when it stops. -/
def outState (o : Host.Outcome State Fault Refusal) : State :=
  match o with
  | .next s => s
  | .fault _ => State.reset
  | .refused _ => State.reset

@[simp] theorem outState_next (s : State) : outState (.next s) = s := rfl

@[simp] theorem foldl_pending {α : Type} (f : State → α → State) (h : ∀ s x, (f s x).pending = s.pending) (l : List α)
    (s : State) : (l.foldl f s).pending = s.pending := by
  induction l generalizing s with
  | nil => rfl
  | cons x l ih => rw [List.foldl_cons, ih, h]

@[simp] theorem foldl_mem {α : Type} (f : State → α → State) (h : ∀ s x, (f s x).mem = s.mem) (l : List α)
    (s : State) : (l.foldl f s).mem = s.mem := by
  induction l generalizing s with
  | nil => rfl
  | cons x l ih => rw [List.foldl_cons, ih, h]

@[simp] theorem foldl_flash {α : Type} (f : State → α → State) (h : ∀ s x, (f s x).flash = s.flash) (l : List α)
    (s : State) : (l.foldl f s).flash = s.flash := by
  induction l generalizing s with
  | nil => rfl
  | cons x l ih => rw [List.foldl_cons, ih, h]

@[simp] theorem foldl_memOk {α : Type} (f : State → α → State) (h : ∀ s x, MemOk s.mem → MemOk (f s x).mem) (l : List α)
    (s : State) (hm : MemOk s.mem) : MemOk (l.foldl f s).mem := by
  induction l generalizing s with
  | nil => exact hm
  | cons x l ih => exact ih _ (h _ _ hm)

@[simp] theorem foldl_flashOk {α : Type} (f : State → α → State) (h : ∀ s x, FlashOk s.flash → FlashOk (f s x).flash)
    (l : List α) (s : State) (hm : FlashOk s.flash) : FlashOk (l.foldl f s).flash := by
  induction l generalizing s with
  | nil => exact hm
  | cons x l ih => exact ih _ (h _ _ hm)

theorem foldl_inv {β α : Type} (P : β → Prop) (f : β → α → β) (h : ∀ b x, P b → P (f b x)) (l : List α) (b : β)
    (hb : P b) : P (l.foldl f b) := by
  induction l generalizing b with
  | nil => exact hb
  | cons x l ih => exact ih _ (h _ _ hb)

theorem foldl_fst_pending {α β : Type} (f : State × β → α → State × β) (h : ∀ a x, (f a x).1.pending = a.1.pending)
    (l : List α) (a : State × β) : (l.foldl f a).1.pending = a.1.pending := by
  induction l generalizing a with
  | nil => rfl
  | cons x l ih => rw [List.foldl_cons, ih, h]

theorem foldl_fst_mem {α β : Type} (f : State × β → α → State × β) (h : ∀ a x, (f a x).1.mem = a.1.mem)
    (l : List α) (a : State × β) : (l.foldl f a).1.mem = a.1.mem := by
  induction l generalizing a with
  | nil => rfl
  | cons x l ih => rw [List.foldl_cons, ih, h]

theorem foldl_fst_flash {α β : Type} (f : State × β → α → State × β) (h : ∀ a x, (f a x).1.flash = a.1.flash)
    (l : List α) (a : State × β) : (l.foldl f a).1.flash = a.1.flash := by
  induction l generalizing a with
  | nil => rfl
  | cons x l ih => rw [List.foldl_cons, ih, h]

theorem foldl_fst_memOk {α β : Type} (f : State × β → α → State × β) (h : ∀ a x, MemOk a.1.mem → MemOk (f a x).1.mem)
    (l : List α) (a : State × β) (hm : MemOk a.1.mem) : MemOk (l.foldl f a).1.mem := by
  induction l generalizing a with
  | nil => exact hm
  | cons x l ih => exact ih _ (h _ _ hm)

theorem foldl_fst_flashOk {α β : Type} (f : State × β → α → State × β)
    (h : ∀ a x, FlashOk a.1.flash → FlashOk (f a x).1.flash) (l : List α) (a : State × β) (hm : FlashOk a.1.flash) :
    FlashOk (l.foldl f a).1.flash := by
  induction l generalizing a with
  | nil => exact hm
  | cons x l ih => exact ih _ (h _ _ hm)

/-! ### Checks -/

/-- A check that passes after another: both pass. -/
theorem bind_ok {ε α β : Type} {x : Except ε α} {f : α → Except ε β} {b : β} (h : x.bind f = .ok b) :
    ∃ a, x = .ok a ∧ f a = .ok b := by
  cases x with
  | error e => exact nomatch h
  | ok a => exact ⟨a, rfl, h⟩

/-- A mapped check that passes. -/
theorem map_ok {ε α β : Type} {x : Except ε α} {f : α → β} {b : β} (h : x.map f = .ok b) : ∃ a, x = .ok a ∧ f a = b := by
  cases x with
  | error e => exact nomatch h
  | ok a => cases h; exact ⟨a, rfl, rfl⟩

/-- A state keeps another's queue and flash, and its memory's canonical form. -/
def Kept (s t : State) : Prop := t.pending = s.pending ∧ t.flash = s.flash ∧ (MemOk s.mem → MemOk t.mem)

theorem Kept.refl (s : State) : Kept s s := ⟨rfl, rfl, id⟩

theorem Kept.trans {s t u : State} (h : Kept s t) (k : Kept t u) : Kept s u :=
  ⟨k.1.trans h.1, k.2.1.trans h.2.1, fun m => k.2.2 (h.2.2 m)⟩

theorem Kept.modCtx (s : State) (n : CtxId) (f : Ctx → Ctx) : Kept s (s.modCtx n f) := ⟨rfl, rfl, id⟩

theorem Kept.ofModCtx {s t : State} {n : CtxId} {f : Ctx → Ctx} (h : Kept (s.modCtx n f) t) : Kept s t :=
  (Kept.modCtx s n f).trans h

theorem foldlM_kept {α : Type} (f : State → α → Chk State) (h : ∀ s x t, f s x = .ok t → Kept s t) (l : List α) :
    ∀ s t, l.foldlM f s = .ok t → Kept s t := by
  induction l with
  | nil => intro s t e; cases e; exact .refl s
  | cons x l ih =>
    intro s t e
    rw [List.foldlM_cons] at e
    obtain ⟨u, hu, e⟩ := bind_ok e
    exact (h s x u hu).trans (ih u t e)

@[simp] theorem ecOf_s (s : State) (n : CtxId) (mir : Bool) (thread cmd : Nat) : (ecOf s n mir thread cmd).s = s := rfl

@[simp] theorem Run.ec_s (r : Run) (s : State) (n : CtxId) : (r.ec s n).s = s := rfl

end Sys2Proof.Machine
end

