-- ==== Sys2Proof/Laws/FrameOps.lean ====
section
/-! SUPPORT. What the shared operations, the registers and the issued commands leave of the queue, the memory and the flash: each keeps the queue; each keeps the memory and the
flash, or their canonical form. -/

namespace Sys2Proof.Machine

/-! ### Machine/Mem.lean -/

@[simp] theorem State.writeB_frame (s : State) (a : Nat) (bs : List Byte) :
    (State.writeB s a bs).pending = s.pending ∧ (State.writeB s a bs).flash = s.flash := by
  unfold State.writeB
  (repeat' split) <;> simp

@[simp] theorem State.writeB_memOk (s : State) (a : Nat) (bs : List Byte) (hm : MemOk s.mem) : MemOk (State.writeB s a bs).mem := by
  exact memWrite_wf _ _ _ _ hm

@[simp] theorem State.clearB_frame (s : State) (a : Nat) (n : Nat) :
    (State.clearB s a n).pending = s.pending ∧ (State.clearB s a n).flash = s.flash := by
  unfold State.clearB
  (repeat' split) <;> simp

@[simp] theorem State.clearB_memOk (s : State) (a : Nat) (n : Nat) (hm : MemOk s.mem) : MemOk (State.clearB s a n).mem := by
  exact memErase_wf _ _ _ _ hm

@[simp] theorem State.writeAll_frame (s : State) (ws : List (Nat × List Byte)) :
    (State.writeAll s ws).pending = s.pending ∧ (State.writeAll s ws).flash = s.flash := by
  unfold State.writeAll
  (repeat' split) <;> simp

@[simp] theorem State.writeAll_memOk (s : State) (ws : List (Nat × List Byte)) (hm : MemOk s.mem) : MemOk (State.writeAll s ws).mem := by
  exact foldl_memOk _ (fun s x h => State.writeB_memOk s x.1 x.2 h) _ _ hm

/-! ### Machine/Ops.lean -/

@[simp] theorem State.modCtx_frame (s : State) (n : CtxId) (f : Ctx → Ctx) :
    (State.modCtx s n f).pending = s.pending ∧ (State.modCtx s n f).mem = s.mem ∧ (State.modCtx s n f).flash = s.flash := by
  unfold State.modCtx
  (repeat' split) <;> simp

@[simp] theorem State.modCore_frame (s : State) (c : CoreId) (f : CoreSt → CoreSt) :
    (State.modCore s c f).pending = s.pending ∧ (State.modCore s c f).mem = s.mem ∧ (State.modCore s c f).flash = s.flash := by
  unfold State.modCore
  (repeat' split) <;> simp

@[simp] theorem State.modDie_frame (s : State) (d : DieId) (f : DieSt → DieSt) :
    (State.modDie s d f).pending = s.pending ∧ (State.modDie s d f).mem = s.mem ∧ (State.modDie s d f).flash = s.flash := by
  unfold State.modDie
  (repeat' split) <;> simp

@[simp] theorem State.modPort_frame (s : State) (p : PortId) (f : PortSt → PortSt) :
    (State.modPort s p f).pending = s.pending ∧ (State.modPort s p f).mem = s.mem ∧ (State.modPort s p f).flash = s.flash := by
  unfold State.modPort
  (repeat' split) <;> simp

@[simp] theorem State.allCores_frame (s : State) (f : CoreSt → CoreSt) :
    (State.allCores s f).pending = s.pending ∧ (State.allCores s f).mem = s.mem ∧ (State.allCores s f).flash = s.flash := by
  unfold State.allCores
  (repeat' split) <;> simp

@[simp] theorem State.allDies_frame (s : State) (f : DieSt → DieSt) :
    (State.allDies s f).pending = s.pending ∧ (State.allDies s f).mem = s.mem ∧ (State.allDies s f).flash = s.flash := by
  unfold State.allDies
  (repeat' split) <;> simp

@[simp] theorem State.allCtxs_frame (s : State) (f : Ctx → Ctx) :
    (State.allCtxs s f).pending = s.pending ∧ (State.allCtxs s f).mem = s.mem ∧ (State.allCtxs s f).flash = s.flash := by
  unfold State.allCtxs
  (repeat' split) <;> simp

@[simp] theorem State.emit_frame (s : State) (m : OutMsg) :
    (State.emit s m).pending = s.pending ∧ (State.emit s m).mem = s.mem ∧ (State.emit s m).flash = s.flash := by
  unfold State.emit
  (repeat' split) <;> simp

@[simp] theorem State.takeFree_frame (s : State) :
    (State.takeFree s).2.pending = s.pending ∧ (State.takeFree s).2.mem = s.mem ∧ (State.takeFree s).2.flash = s.flash := by
  unfold State.takeFree
  (repeat' split) <;> simp

@[simp] theorem modOwn_frame (s : State) (p : Place) (f : BankOwn → BankOwn) :
    (modOwn s p f).pending = s.pending ∧ (modOwn s p f).mem = s.mem ∧ (modOwn s p f).flash = s.flash := by
  unfold modOwn
  (repeat' split) <;> simp

@[simp] theorem setTime_frame (t : Nat) (s : State) :
    (setTime t s).pending = s.pending ∧ (setTime t s).mem = s.mem ∧ (setTime t s).flash = s.flash := by
  unfold setTime
  (repeat' split) <;> simp

@[simp] theorem raiseEvent_frame (code : Nat) (n : Option CtxId) (detail : List Word) (s : State) :
    (raiseEvent code n detail s).pending = s.pending ∧ (raiseEvent code n detail s).mem = s.mem ∧ (raiseEvent code n detail s).flash = s.flash := by
  unfold raiseEvent
  (repeat' split) <;> simp

@[simp] theorem raiseRust_frame (r : RustReq) (s : State) :
    (raiseRust r s).pending = s.pending ∧ (raiseRust r s).mem = s.mem ∧ (raiseRust r s).flash = s.flash := by
  unfold raiseRust
  (repeat' split) <;> simp

@[simp] theorem clearDebug_frame (n : CtxId) (s : State) :
    (clearDebug n s).pending = s.pending ∧ (clearDebug n s).mem = s.mem ∧ (clearDebug n s).flash = s.flash := by
  unfold clearDebug
  (repeat' split) <;> simp

@[simp] theorem setMode_frame (n : CtxId) (new : Nat) (cause : Nat) (s : State) :
    (setMode n new cause s).pending = s.pending ∧ (setMode n new cause s).mem = s.mem ∧ (setMode n new cause s).flash = s.flash := by
  unfold setMode
  dsimp only
  (repeat' split) <;> simp

@[simp] theorem modRun_frame (n : CtxId) (thread : Nat) (cmd : Nat) (f : Run → Run) (s : State) :
    (modRun n thread cmd f s).pending = s.pending ∧ (modRun n thread cmd f s).mem = s.mem ∧ (modRun n thread cmd f s).flash = s.flash := by
  unfold modRun
  (repeat' split) <;> simp

@[simp] theorem modChan_frame (core : CoreId) (ch : Fin 16) (f : DmaStat → DmaStat) (s : State) :
    (modChan core ch f s).pending = s.pending ∧ (modChan core ch f s).mem = s.mem ∧ (modChan core ch f s).flash = s.flash := by
  unfold modChan
  (repeat' split) <;> simp

@[simp] theorem chanStop_frame (n : CtxId) (core : CoreId) (ch : Fin 16) (cause : Nat) (s : State) :
    (chanStop n core ch cause s).pending = s.pending ∧ (chanStop n core ch cause s).mem = s.mem ∧ (chanStop n core ch cause s).flash = s.flash := by
  unfold chanStop
  (repeat' split) <;> simp

@[simp] theorem pauseDma_frame (n : CtxId) (s : State) :
    (pauseDma n s).pending = s.pending ∧ (pauseDma n s).mem = s.mem ∧ (pauseDma n s).flash = s.flash := by
  unfold pauseDma
  (repeat' split) <;> simp

@[simp] theorem resumeDma_frame (n : CtxId) (s : State) :
    (resumeDma n s).pending = s.pending ∧ (resumeDma n s).mem = s.mem ∧ (resumeDma n s).flash = s.flash := by
  unfold resumeDma
  (repeat' split) <;> simp

@[simp] theorem haltCtx_frame (n : CtxId) (cause : Nat) (received : Bool) (s : State) :
    (haltCtx n cause received s).pending = s.pending ∧ (haltCtx n cause received s).mem = s.mem ∧ (haltCtx n cause received s).flash = s.flash := by
  unfold haltCtx
  (repeat' split) <;> simp

@[simp] theorem haltMark_frame (n : CtxId) (s : State) :
    (haltMark n s).pending = s.pending ∧ (haltMark n s).mem = s.mem ∧ (haltMark n s).flash = s.flash := by
  unfold haltMark
  (repeat' split) <;> simp

@[simp] theorem haltAll_frame (s : State) :
    (haltAll s).pending = s.pending ∧ (haltAll s).mem = s.mem ∧ (haltAll s).flash = s.flash := by
  unfold haltAll
  (repeat' split) <;> simp

@[simp] theorem markRecord_frame (n : CtxId) (status : Nat) (s : State) :
    (markRecord n status s).pending = s.pending ∧ (markRecord n status s).mem = s.mem ∧ (markRecord n status s).flash = s.flash := by
  unfold markRecord
  (repeat' split) <;> simp

@[simp] theorem reopenWindows_frame (n : CtxId) (s : State) :
    (reopenWindows n s).pending = s.pending ∧ (reopenWindows n s).mem = s.mem ∧ (reopenWindows n s).flash = s.flash := by
  unfold reopenWindows
  (repeat' split) <;> simp

@[simp] theorem faultCtx_frame (n : CtxId) (s : State) :
    (faultCtx n s).pending = s.pending ∧ (faultCtx n s).mem = s.mem ∧ (faultCtx n s).flash = s.flash := by
  unfold faultCtx
  dsimp only
  (repeat' split) <;> simp

@[simp] theorem ctxFault_frame (n : CtxId) (code : Nat) (s : State) :
    (ctxFault n code s).pending = s.pending ∧ (ctxFault n code s).mem = s.mem ∧ (ctxFault n code s).flash = s.flash := by
  unfold ctxFault
  (repeat' split) <;> simp

@[simp] theorem faultEvent_frame (n : CtxId) (ws : List Word) (s : State) :
    (faultEvent n ws s).pending = s.pending ∧ (faultEvent n ws s).mem = s.mem ∧ (faultEvent n ws s).flash = s.flash := by
  unfold faultEvent
  dsimp only
  (repeat' split) <;> simp

@[simp] theorem threadFaultReq_frame (n : CtxId) (thread cmd code : Nat) (datum : Word) (dma : List Word) (need : Nat) (s : State) :
    (threadFaultReq n thread cmd code datum dma need s).pending = s.pending ∧ (threadFaultReq n thread cmd code datum dma need s).mem = s.mem ∧ (threadFaultReq n thread cmd code datum dma need s).flash = s.flash := by
  unfold threadFaultReq
  dsimp only
  (repeat' split) <;> simp

@[simp] theorem threadFault_frame (n : CtxId) (thread cmd code : Nat) (datum : Word) (dma : List Word) (s : State) :
    (threadFault n thread cmd code datum dma s).pending = s.pending ∧ (threadFault n thread cmd code datum dma s).mem = s.mem ∧ (threadFault n thread cmd code datum dma s).flash = s.flash := by
  unfold threadFault
  simp

@[simp] theorem addVerdict_frame (n : CtxId) (e : VerdictEnt) (s : State) :
    (addVerdict n e s).pending = s.pending ∧ (addVerdict n e s).mem = s.mem ∧ (addVerdict n e s).flash = s.flash := by
  unfold addVerdict
  (repeat' split) <;> simp

@[simp] theorem condemnLate_frame (n : CtxId) (cause : Nat) (s : State) :
    (condemnLate n cause s).pending = s.pending ∧ (condemnLate n cause s).mem = s.mem ∧ (condemnLate n cause s).flash = s.flash := by
  unfold condemnLate
  (repeat' split) <;> simp

@[simp] theorem condemn_frame (n : CtxId) (cause : Nat) (entry : Option VerdictEnt) (s : State) :
    (condemn n cause entry s).pending = s.pending ∧ (condemn n cause entry s).mem = s.mem ∧ (condemn n cause entry s).flash = s.flash := by
  unfold condemn
  (repeat' split) <;> simp

/-! ### Machine/RegRead.lean -/

@[simp] theorem latchNow_frame (s : State) :
    (latchNow s).pending = s.pending ∧ (latchNow s).mem = s.mem ∧ (latchNow s).flash = s.flash := by
  unfold latchNow
  (repeat' split) <;> simp

@[simp] theorem regRead_frame (s : State) (addr : Nat) :
    (regRead s addr).2.2.pending = s.pending ∧ (regRead s addr).2.2.mem = s.mem ∧ (regRead s addr).2.2.flash = s.flash := by
  unfold regRead
  (repeat' split) <;> simp

/-! ### Machine/Wake.lean -/

@[simp] theorem endTransition_frame (s : State) :
    (endTransition s).pending = s.pending ∧ (endTransition s).mem = s.mem ∧ (endTransition s).flash = s.flash := by
  unfold endTransition
  simp [apply_ite State.pending, apply_ite State.mem, apply_ite State.flash]

@[simp] theorem toBright_frame (s : State) :
    (toBright s).pending = s.pending ∧ (toBright s).mem = s.mem ∧ (toBright s).flash = s.flash := by
  unfold toBright
  (repeat' split) <;> simp

@[simp] theorem abandonEntry_frame (s : State) :
    (abandonEntry s).pending = s.pending ∧ (abandonEntry s).mem = s.mem ∧ (abandonEntry s).flash = s.flash := by
  unfold abandonEntry
  (repeat' split) <;> simp

@[simp] theorem wakeBy_frame (cause : Nat) (s : State) :
    (wakeBy cause s).pending = s.pending ∧ (wakeBy cause s).mem = s.mem ∧ (wakeBy cause s).flash = s.flash := by
  unfold wakeBy
  dsimp only
  (repeat' split) <;> simp

@[simp] theorem fireAlarm_frame (s : State) :
    (fireAlarm s).pending = s.pending ∧ (fireAlarm s).mem = s.mem ∧ (fireAlarm s).flash = s.flash := by
  unfold fireAlarm
  (repeat' split) <;> simp

/-! ### Machine/RegWrite.lean -/

@[simp] theorem refuse_frame (st : Nat) (s : State) :
    (refuse st s).2.pending = s.pending ∧ (refuse st s).2.mem = s.mem ∧ (refuse st s).2.flash = s.flash := by
  unfold refuse
  (repeat' split) <;> simp

@[simp] theorem bankWrite_frame (force : Bool) (p : Place) (v : Word) (s : State) :
    (bankWrite force p v s).2.pending = s.pending ∧ (bankWrite force p v s).2.mem = s.mem ∧ (bankWrite force p v s).2.flash = s.flash := by
  unfold bankWrite
  dsimp only
  (repeat' split) <;> simp

@[simp] theorem vfWrite_frame (v : Word) (s : State) :
    (vfWrite v s).2.pending = s.pending ∧ (vfWrite v s).2.mem = s.mem ∧ (vfWrite v s).2.flash = s.flash := by
  unfold vfWrite
  dsimp only
  (repeat' split) <;> simp

@[simp] theorem stateWrite_frame (v : Word) (s : State) :
    (stateWrite v s).2.pending = s.pending ∧ (stateWrite v s).2.mem = s.mem ∧ (stateWrite v s).2.flash = s.flash := by
  unfold stateWrite
  dsimp only
  (repeat' split) <;> simp

@[simp] theorem abortWrite_frame (c : CoreId) (v : Word) (s : State) :
    (abortWrite c v s).2.pending = s.pending ∧ (abortWrite c v s).2.mem = s.mem ∧ (abortWrite c v s).2.flash = s.flash := by
  unfold abortWrite
  dsimp only
  (repeat' split) <;> simp [apply_ite State.pending, apply_ite State.mem, apply_ite State.flash]

@[simp] theorem regApply_frame (r : Reg) (v : Word) (s : State) :
    (regApply r v s).2.pending = s.pending ∧ (regApply r v s).2.mem = s.mem ∧ (regApply r v s).2.flash = s.flash := by
  unfold regApply
  dsimp only
  (repeat' split) <;> simp

@[simp] theorem regWriteBy_frame (who : Who) (r : Reg) (v : Word) (s : State) :
    (regWriteBy who r v s).2.pending = s.pending ∧ (regWriteBy who r v s).2.mem = s.mem ∧ (regWriteBy who r v s).2.flash = s.flash := by
  unfold regWriteBy
  dsimp only
  (repeat' split) <;> simp

@[simp] theorem regWriteAt_frame (who : Who) (addr : Nat) (v : Word) (s : State) :
    (regWriteAt who addr v s).2.pending = s.pending ∧ (regWriteAt who addr v s).2.mem = s.mem ∧ (regWriteAt who addr v s).2.flash = s.flash := by
  unfold regWriteAt
  (repeat' split) <;> simp

/-! ### Machine/Operands.lean -/

@[simp] theorem takePin_frame (n : CtxId) (pin : Nat) (s : State) :
    (takePin n pin s).pending = s.pending ∧ (takePin n pin s).mem = s.mem ∧ (takePin n pin s).flash = s.flash := by
  unfold takePin
  (repeat' split) <;> simp

/-! ### Machine/Runs.lean -/

@[simp] theorem withRun_pending (s : State) (n : CtxId) (thread cmd : Nat) (p : Run → Bool) (f : Run → State)
    (h : ∀ r, (f r).pending = s.pending) : (withRun s n thread cmd p f).pending = s.pending := by
  unfold withRun
  (repeat' split) <;> simp [h]

@[simp] theorem withRun_mem (s : State) (n : CtxId) (thread cmd : Nat) (p : Run → Bool) (f : Run → State)
    (h : ∀ r, (f r).mem = s.mem) : (withRun s n thread cmd p f).mem = s.mem := by
  unfold withRun
  (repeat' split) <;> simp [h]

@[simp] theorem withRun_flash (s : State) (n : CtxId) (thread cmd : Nat) (p : Run → Bool) (f : Run → State)
    (h : ∀ r, (f r).flash = s.flash) : (withRun s n thread cmd p f).flash = s.flash := by
  unfold withRun
  (repeat' split) <;> simp [h]

@[simp] theorem withRun_memOk (s : State) (n : CtxId) (thread cmd : Nat) (p : Run → Bool) (f : Run → State) (hm : MemOk s.mem)
    (h : ∀ r, MemOk (f r).mem) : MemOk (withRun s n thread cmd p f).mem := by
  unfold withRun
  (repeat' split) <;> simp [h, hm]

@[simp] theorem withRun_flashOk (s : State) (n : CtxId) (thread cmd : Nat) (p : Run → Bool) (f : Run → State) (hm : FlashOk s.flash)
    (h : ∀ r, FlashOk (f r).flash) : FlashOk (withRun s n thread cmd p f).flash := by
  unfold withRun
  (repeat' split) <;> simp [h, hm]

@[simp] theorem runFault_frame (n : CtxId) (r : Run) (code : Nat) (datum : Word) (s : State) :
    (runFault n r code datum s).pending = s.pending ∧ (runFault n r code datum s).mem = s.mem ∧ (runFault n r code datum s).flash = s.flash := by
  unfold runFault
  (repeat' split) <;> simp

@[simp] theorem orFault_pending {α : Type} (n : CtxId) (r : Run) (x : Chk α) (s : State) (f : α → State)
    (h : ∀ a, (f a).pending = s.pending) : (orFault n r x s f).pending = s.pending := by
  unfold orFault
  (repeat' split) <;> simp [h]

@[simp] theorem orFault_mem {α : Type} (n : CtxId) (r : Run) (x : Chk α) (s : State) (f : α → State)
    (h : ∀ a, (f a).mem = s.mem) : (orFault n r x s f).mem = s.mem := by
  unfold orFault
  (repeat' split) <;> simp [h]

@[simp] theorem orFault_flash {α : Type} (n : CtxId) (r : Run) (x : Chk α) (s : State) (f : α → State)
    (h : ∀ a, (f a).flash = s.flash) : (orFault n r x s f).flash = s.flash := by
  unfold orFault
  (repeat' split) <;> simp [h]

@[simp] theorem orFault_memOk {α : Type} (n : CtxId) (r : Run) (x : Chk α) (s : State) (f : α → State) (hm : MemOk s.mem)
    (h : ∀ a, MemOk (f a).mem) : MemOk (orFault n r x s f).mem := by
  unfold orFault
  (repeat' split) <;> simp [h, hm]

@[simp] theorem orFault_flashOk {α : Type} (n : CtxId) (r : Run) (x : Chk α) (s : State) (f : α → State) (hm : FlashOk s.flash)
    (h : ∀ a, FlashOk (f a).flash) : FlashOk (orFault n r x s f).flash := by
  unfold orFault
  (repeat' split) <;> simp [h, hm]

@[simp] theorem withBanks_pending (n : CtxId) (r : Run) (rs : List (Nat × Nat)) (s : State) (f : State → State)
    (h : (f s).pending = s.pending) : (withBanks n r rs s f).pending = s.pending := by
  unfold withBanks
  (repeat' split) <;> simp [h]

@[simp] theorem withBanks_mem (n : CtxId) (r : Run) (rs : List (Nat × Nat)) (s : State) (f : State → State)
    (h : (f s).mem = s.mem) : (withBanks n r rs s f).mem = s.mem := by
  unfold withBanks
  (repeat' split) <;> simp [h]

@[simp] theorem withBanks_flash (n : CtxId) (r : Run) (rs : List (Nat × Nat)) (s : State) (f : State → State)
    (h : (f s).flash = s.flash) : (withBanks n r rs s f).flash = s.flash := by
  unfold withBanks
  (repeat' split) <;> simp [h]

@[simp] theorem withBanks_memOk (n : CtxId) (r : Run) (rs : List (Nat × Nat)) (s : State) (f : State → State) (hm : MemOk s.mem)
    (h : MemOk (f s).mem) : MemOk (withBanks n r rs s f).mem := by
  unfold withBanks
  (repeat' split) <;> simp [h, hm]

@[simp] theorem withBanks_flashOk (n : CtxId) (r : Run) (rs : List (Nat × Nat)) (s : State) (f : State → State) (hm : FlashOk s.flash)
    (h : FlashOk (f s).flash) : FlashOk (withBanks n r rs s f).flash := by
  unfold withBanks
  (repeat' split) <;> simp [h, hm]

@[simp] theorem addTint_frame (n : CtxId) (thread : Nat) (cmd : Nat) (fine : Bool) (t : TintOut) (s : State) :
    (addTint n thread cmd fine t s).pending = s.pending ∧ (addTint n thread cmd fine t s).mem = s.mem ∧ (addTint n thread cmd fine t s).flash = s.flash := by
  unfold addTint
  dsimp only
  (repeat' split) <;> simp

@[simp] theorem addTints_frame (n : CtxId) (thread : Nat) (cmd : Nat) (eff : Effects) (s : State) :
    (addTints n thread cmd eff s).pending = s.pending ∧ (addTints n thread cmd eff s).mem = s.mem ∧ (addTints n thread cmd eff s).flash = s.flash := by
  unfold addTints
  (repeat' split) <;> simp

@[simp] theorem addCounts_frame (n : CtxId) (core : CoreId) (eff : Effects) (s : State) :
    (addCounts n core eff s).pending = s.pending ∧ (addCounts n core eff s).mem = s.mem ∧ (addCounts n core eff s).flash = s.flash := by
  unfold addCounts
  (repeat' split) <;> simp

@[simp] theorem addTap_frame (n : CtxId) (core : CoreId) (ch : Nat) (q : Sq) (s : State) :
    (addTap n core ch q s).pending = s.pending ∧ (addTap n core ch q s).mem = s.mem ∧ (addTap n core ch q s).flash = s.flash := by
  unfold addTap
  (repeat' split) <;> simp

@[simp] theorem addNorms_frame (n : CtxId) (ns : List NormRec) (s : State) :
    (addNorms n ns s).pending = s.pending ∧ (addNorms n ns s).mem = s.mem ∧ (addNorms n ns s).flash = s.flash := by
  unfold addNorms
  (repeat' split) <;> simp

@[simp] theorem writeFor_frame (n : CtxId) (r : Run) (ws : List (Nat × List Byte)) (s : State) :
    (writeFor n r ws s).pending = s.pending ∧ (writeFor n r ws s).flash = s.flash := by
  unfold writeFor
  (repeat' split) <;> simp

@[simp] theorem writeFor_memOk (n : CtxId) (r : Run) (ws : List (Nat × List Byte)) (s : State) (hm : MemOk s.mem) : MemOk (writeFor n r ws s).mem := by
  unfold writeFor
  (repeat' split) <;> simp [hm]

@[simp] theorem applyEffects_frame (n : CtxId) (r : Run) (eff : Effects) (s : State) :
    (applyEffects n r eff s).pending = s.pending ∧ (applyEffects n r eff s).flash = s.flash := by
  unfold applyEffects
  (repeat' split) <;> simp

@[simp] theorem applyEffects_memOk (n : CtxId) (r : Run) (eff : Effects) (s : State) (hm : MemOk s.mem) : MemOk (applyEffects n r eff s).mem := by
  unfold applyEffects
  (repeat' split) <;> simp [hm]

@[simp] theorem countStall_frame (p : Place) (r : BankReq) (s : State) :
    (countStall p r s).pending = s.pending ∧ (countStall p r s).mem = s.mem ∧ (countStall p r s).flash = s.flash := by
  unfold countStall
  (repeat' split) <;> simp

@[simp] theorem bankCycle_frame (s : State) (cyc : BankCycle) :
    (bankCycle s cyc).pending = s.pending ∧ (bankCycle s cyc).mem = s.mem ∧ (bankCycle s cyc).flash = s.flash := by
  unfold bankCycle
  repeat' first
    | rfl
    | (simp [*]; done)
    | refine And.intro ?_ ?_
    | refine (foldl_pending _ (fun t x => ?_) _ _).trans ?_
    | refine (foldl_mem _ (fun t x => ?_) _ _).trans ?_
    | refine (foldl_flash _ (fun t x => ?_) _ _).trans ?_
    | split
    | dsimp only

@[simp] theorem arbitrate_frame (arb : List BankCycle) (s : State) :
    (arbitrate arb s).pending = s.pending ∧ (arbitrate arb s).mem = s.mem ∧ (arbitrate arb s).flash = s.flash := by
  unfold arbitrate
  exact ⟨foldl_pending _ (by simp) _ _, foldl_mem _ (by simp) _ _, foldl_flash _ (by simp) _ _⟩

@[simp] theorem chainSend_frame (n : CtxId) (win : Nat) (cell : Nat) (pass : Nat) (ws : List Word) (s : State) :
    (chainSend n win cell pass ws s).pending = s.pending ∧ (chainSend n win cell pass ws s).mem = s.mem ∧ (chainSend n win cell pass ws s).flash = s.flash := by
  unfold chainSend
  (repeat' split) <;> simp

@[simp] theorem sendPartial_frame (n : CtxId) (e : ChainEnt) (w : WinDecl) (r : Run) (s : State) :
    (sendPartial n e w r s).pending = s.pending ∧ (sendPartial n e w r s).mem = s.mem ∧ (sendPartial n e w r s).flash = s.flash := by
  unfold sendPartial
  (repeat' split) <;> simp

@[simp] theorem sendReturn_frame (n : CtxId) (e : ChainEnt) (kind : Nat) (sv : Int) (reps : Nat) (pass : Nat) (s : State) :
    (sendReturn n e kind sv reps pass s).pending = s.pending ∧ (sendReturn n e kind sv reps pass s).mem = s.mem ∧ (sendReturn n e kind sv reps pass s).flash = s.flash := by
  unfold sendReturn
  dsimp only
  (repeat' split) <;> simp

@[simp] theorem toJudge_frame (n : CtxId) (thread : Nat) (cmd : Nat) (s : State) :
    (toJudge n thread cmd s).pending = s.pending ∧ (toJudge n thread cmd s).mem = s.mem ∧ (toJudge n thread cmd s).flash = s.flash := by
  unfold toJudge
  (repeat' split) <;> simp

end Sys2Proof.Machine
end

