-- ==== Sys2Proof/Laws/FrameData.lean ====
section
/-! SUPPORT. What the DMA and exchange engines, binding and the shards leave of the queue, the memory and the flash: each keeps the queue; each keeps the memory and the
flash, or their canonical form. -/

namespace Sys2Proof.Machine

/-! ### Machine/Dma.lean -/

@[simp] theorem noteNext_frame (n : CtxId) (r : Ref) (s : State) :
    (noteNext n r s).pending = s.pending ∧ (noteNext n r s).mem = s.mem ∧ (noteNext n r s).flash = s.flash := by
  unfold noteNext
  (repeat' split) <;> simp

@[simp] theorem takePins_frame (n : CtxId) (thread : Nat) (refs : List Ref) (s : State) :
    (takePins n thread refs s).pending = s.pending ∧ (takePins n thread refs s).mem = s.mem ∧ (takePins n thread refs s).flash = s.flash := by
  unfold takePins
  refine ⟨foldl_pending _ ?_ _ _, foldl_mem _ ?_ _ _, foldl_flash _ ?_ _ _⟩ <;>
  · intro s x
    (repeat' split) <;> simp

@[simp] theorem noteWrote_frame (n : CtxId) (win : Nat) (r : Ref) (s : State) :
    (noteWrote n win r s).pending = s.pending ∧ (noteWrote n win r s).mem = s.mem ∧ (noteWrote n win r s).flash = s.flash := by
  unfold noteWrote
  (repeat' split) <;> simp

@[simp] theorem landWrite_frame (n : CtxId) (win : Nat) (r : Ref) (a : Nat) (bs : List Byte) (s : State) :
    (landWrite n win r a bs s).pending = s.pending ∧ (landWrite n win r a bs s).flash = s.flash := by
  unfold landWrite
  (repeat' split) <;> simp

@[simp] theorem landWrite_memOk (n : CtxId) (win : Nat) (r : Ref) (a : Nat) (bs : List Byte) (s : State) (hm : MemOk s.mem) : MemOk (landWrite n win r a bs s).mem := by
  unfold landWrite
  (repeat' split) <;> simp [hm]

theorem pushBytes_kept (e : EC) (win off : Nat) (land : Option Nat) (bs : List Byte) (s : State) :
    Kept s (pushBytes e win off land bs s) := by
  have key : ∀ t : State, Kept s t → Kept s (match land, winDecl (t.ctx e.n) win with
      | some a, some w => landWrite e.n win ((Ref.ofWord w.dstRef).add off) a bs t
      | _, _ => t) := by
    intro t k
    split
    · exact k.trans ⟨by simp, by simp, fun hm => by simp [hm]⟩
    · exact k
  exact key _ (.modCtx _ _ _)

@[simp] theorem pushBytes_frame (e : EC) (win : Nat) (off : Nat) (land : Option Nat) (bs : List Byte) (s : State) :
    (pushBytes e win off land bs s).pending = s.pending ∧ (pushBytes e win off land bs s).flash = s.flash :=
  ⟨(pushBytes_kept e win off land bs s).1, (pushBytes_kept e win off land bs s).2.1⟩

@[simp] theorem pushBytes_memOk (e : EC) (win off : Nat) (land : Option Nat) (bs : List Byte) (s : State)
    (hm : MemOk s.mem) : MemOk (pushBytes e win off land bs s).mem :=
  (pushBytes_kept e win off land bs s).2.2 hm

@[simp] theorem writeSegs_frame (e : EC) (acc : DmaAcc) (l : List (Seg × Ref)) (bs : List Byte) :
    (writeSegs e acc l bs).s.pending = acc.s.pending ∧ (writeSegs e acc l bs).s.flash = acc.s.flash := by
  induction l generalizing acc bs with
  | nil => exact ⟨rfl, rfl⟩
  | cons x l ih =>
    simp only [writeSegs, ih]
    (repeat' split) <;> simp

@[simp] theorem writeSegs_memOk (e : EC) (acc : DmaAcc) (l : List (Seg × Ref)) (bs : List Byte) (hm : MemOk acc.s.mem) :
    MemOk (writeSegs e acc l bs).s.mem := by
  induction l generalizing acc bs with
  | nil => exact hm
  | cons x l ih =>
    simp only [writeSegs]
    apply ih
    (repeat' split) <;> simp [hm]

@[simp] theorem copyRange_frame (e : EC) (x : DescS) (held : List Byte) (lo hi : Nat) (acc : DmaAcc) :
    (copyRange e x held lo hi acc).1.s.pending = acc.s.pending ∧ (copyRange e x held lo hi acc).1.s.flash = acc.s.flash := by
  simp [copyRange]

@[simp] theorem copyRange_memOk (e : EC) (x : DescS) (held : List Byte) (lo hi : Nat) (acc : DmaAcc) (hm : MemOk acc.s.mem) :
    MemOk (copyRange e x held lo hi acc).1.s.mem := writeSegs_memOk _ _ _ _ hm

@[simp] theorem copyDesc_frame (e : EC) (held seen : List Byte) (acc : DmaAcc) (x : DescS) (i : Nat) :
    (copyDesc e held seen acc x i).s.pending = acc.s.pending ∧ (copyDesc e held seen acc x i).s.flash = acc.s.flash :=
  copyRange_frame _ _ _ _ _ _

@[simp] theorem copyDesc_memOk (e : EC) (held seen : List Byte) (acc : DmaAcc) (x : DescS) (i : Nat) (hm : MemOk acc.s.mem) :
    MemOk (copyDesc e held seen acc x i).s.mem := copyRange_memOk _ _ _ _ _ _ hm

@[simp] theorem copyDescs_frame (e : EC) (held seen : List Byte) (acc : DmaAcc) (xs : List DescS) (i : Nat) :
    (copyDescs e held seen acc xs i).s.pending = acc.s.pending ∧ (copyDescs e held seen acc xs i).s.flash = acc.s.flash := by
  induction xs generalizing held seen acc i with
  | nil => exact ⟨rfl, rfl⟩
  | cons x xs ih => simp [copyDescs, ih]

@[simp] theorem copyDescs_memOk (e : EC) (held seen : List Byte) (acc : DmaAcc) (xs : List DescS) (i : Nat) (hm : MemOk acc.s.mem) :
    MemOk (copyDescs e held seen acc xs i).s.mem := by
  induction xs generalizing held seen acc i with
  | nil => exact hm
  | cons x xs ih => exact ih _ _ _ _ (copyDesc_memOk _ _ _ _ _ _ hm)

theorem walkChecks_kept (ds : List DescR) : ∀ (e : EC) (xs : List DescS) (t : State), walkChecks e ds = .ok (xs, t) →
    t.pending = e.s.pending ∧ t.flash = e.s.flash ∧ (MemOk e.s.mem → MemOk t.mem) := by
  induction ds with
  | nil => intro e xs t h; cases h; exact ⟨rfl, rfl, id⟩
  | cons x ds ih =>
    intro e xs t h
    simp only [walkChecks] at h
    cases hc : descCheck e x with
    | error f => rw [hc] at h; exact nomatch h
    | ok d =>
      rw [hc] at h
      simp only [Except.bind, bind] at h
      split at h
      · exact nomatch h
      rename_i hy
      cases h
      have k := ih _ _ _ hy
      split at k
      · exact ⟨k.1.trans (State.writeAll_frame _ _).1, k.2.1.trans (State.writeAll_frame _ _).2, fun hm => k.2.2 (State.writeAll_memOk _ _ hm)⟩
      · exact k

theorem dcopyCheck_kept (e : EC) (ds : List DescR) (xs : List DescS) (t : State) (h : dcopyCheck e ds = .ok (xs, t)) :
    t.pending = e.s.pending ∧ t.flash = e.s.flash ∧ (MemOk e.s.mem → MemOk t.mem) := by
  obtain ⟨y, hy, h⟩ := bind_ok h
  split at h
  · exact nomatch h
  · cases h; exact walkChecks_kept ds _ _ _ hy

@[simp] theorem copyPins_frame (e : EC) (xs : List DescS) (s : State) :
    (copyPins e xs s).pending = s.pending ∧ (copyPins e xs s).mem = s.mem ∧ (copyPins e xs s).flash = s.flash := by
  unfold copyPins
  split <;> simp

@[simp] theorem mirrorCopy_frame (e : EC) (body : List Word) :
    (mirrorCopy e body).1.pending = e.s.pending ∧ (mirrorCopy e body).1.flash = e.s.flash := by
  unfold mirrorCopy
  split
  · rename_i xs t h
    obtain ⟨y, hy, h⟩ := bind_ok h
    have k := dcopyCheck_kept _ _ _ _ h
    simp [k]
  · simp

@[simp] theorem mirrorCopy_memOk (e : EC) (body : List Word) (hm : MemOk e.s.mem) : MemOk (mirrorCopy e body).1.mem := by
  unfold mirrorCopy
  split
  · rename_i xs t h
    obtain ⟨y, hy, h⟩ := bind_ok h
    exact copyDescs_memOk _ _ _ _ _ _ ((dcopyCheck_kept _ _ _ _ h).2.2 hm)
  · exact hm

@[simp] theorem scatterOne_frame (fmt da : Nat) (acc : State × List Byte) (x : Nat × Nat) :
    (scatterOne fmt da acc x).1.pending = acc.1.pending ∧ (scatterOne fmt da acc x).1.flash = acc.1.flash := by
  simp [scatterOne]

@[simp] theorem scatterOne_memOk (fmt da : Nat) (acc : State × List Byte) (x : Nat × Nat) (hm : MemOk acc.1.mem) :
    MemOk (scatterOne fmt da acc x).1.mem := State.writeB_memOk _ _ _ hm

@[simp] theorem scatterAll_frame (fmt da : Nat) (ops : List (Nat × Nat)) (acc : State × List Byte) :
    (ops.foldl (scatterOne fmt da) acc).1.pending = acc.1.pending ∧ (ops.foldl (scatterOne fmt da) acc).1.flash = acc.1.flash := by
  induction ops generalizing acc with
  | nil => exact ⟨rfl, rfl⟩
  | cons x l ih => simp [ih]

@[simp] theorem scatterAll_memOk (fmt da : Nat) (ops : List (Nat × Nat)) (acc : State × List Byte) (hm : MemOk acc.1.mem) :
    MemOk (ops.foldl (scatterOne fmt da) acc).1.mem := by
  induction ops generalizing acc with
  | nil => exact hm
  | cons x l ih => exact ih _ (scatterOne_memOk _ _ _ _ hm)

@[simp] theorem mirrorScatter_frame (e : EC) (body : List Word) :
    (mirrorScatter e body).1.pending = e.s.pending ∧ (mirrorScatter e body).1.flash = e.s.flash := by
  unfold mirrorScatter
  (repeat' split) <;> simp

@[simp] theorem mirrorScatter_memOk (e : EC) (body : List Word) (hm : MemOk e.s.mem) : MemOk (mirrorScatter e body).1.mem := by
  unfold mirrorScatter
  (repeat' split) <;> simp [hm]

@[simp] theorem chanNext_frame (core : CoreId) (ch : Fin 16) (s : State) :
    (chanNext core ch s).pending = s.pending ∧ (chanNext core ch s).mem = s.mem ∧ (chanNext core ch s).flash = s.flash := by
  unfold chanNext
  (repeat' split) <;> simp

@[simp] theorem chanFault_frame (n : CtxId) (r : Run) (x : Nat × Word) (s : State) :
    (chanFault n r x s).pending = s.pending ∧ (chanFault n r x s).mem = s.mem ∧ (chanFault n r x s).flash = s.flash := by
  unfold chanFault
  (repeat' split) <;> simp

@[simp] theorem chanBanks_pending (n : CtxId) (r : Run) (rs : List (Nat × Nat)) (s : State) (f : State → State)
    (h : (f s).pending = s.pending) : (chanBanks n r rs s f).pending = s.pending := by
  unfold chanBanks
  (repeat' split) <;> simp [h]

@[simp] theorem chanBanks_mem (n : CtxId) (r : Run) (rs : List (Nat × Nat)) (s : State) (f : State → State)
    (h : (f s).mem = s.mem) : (chanBanks n r rs s f).mem = s.mem := by
  unfold chanBanks
  (repeat' split) <;> simp [h]

@[simp] theorem chanBanks_flash (n : CtxId) (r : Run) (rs : List (Nat × Nat)) (s : State) (f : State → State)
    (h : (f s).flash = s.flash) : (chanBanks n r rs s f).flash = s.flash := by
  unfold chanBanks
  (repeat' split) <;> simp [h]

@[simp] theorem chanBanks_memOk (n : CtxId) (r : Run) (rs : List (Nat × Nat)) (s : State) (f : State → State) (hm : MemOk s.mem)
    (h : MemOk (f s).mem) : MemOk (chanBanks n r rs s f).mem := by
  unfold chanBanks
  (repeat' split) <;> simp [h, hm]

@[simp] theorem chanBanks_flashOk (n : CtxId) (r : Run) (rs : List (Nat × Nat)) (s : State) (f : State → State) (hm : FlashOk s.flash)
    (h : FlashOk (f s).flash) : FlashOk (chanBanks n r rs s f).flash := by
  unfold chanBanks
  (repeat' split) <;> simp [h, hm]

@[simp] theorem chanRefuse_frame (n : CtxId) (r : Run) (x : Nat × Word) (s : State) :
    (chanRefuse n r x s).pending = s.pending ∧ (chanRefuse n r x s).mem = s.mem ∧ (chanRefuse n r x s).flash = s.flash := by
  unfold chanRefuse
  (repeat' split) <;> simp

@[simp] theorem noteNextWait_frame (n : CtxId) (thread cmd : Nat) (refs : List Ref) (s : State) :
    (noteNextWait n thread cmd refs s).pending = s.pending ∧ (noteNextWait n thread cmd refs s).mem = s.mem ∧ (noteNextWait n thread cmd refs s).flash = s.flash := by
  unfold noteNextWait
  (repeat' split) <;> simp

@[simp] theorem endCopy_frame (n : CtxId) (r : Run) (p : DmaPart) (held : List Byte) (xs : List DescS) (s : State) :
    (endCopy n r p held xs s).pending = s.pending ∧ (endCopy n r p held xs s).flash = s.flash := by
  unfold endCopy
  split <;> simp

@[simp] theorem endCopy_memOk (n : CtxId) (r : Run) (p : DmaPart) (held : List Byte) (xs : List DescS) (s : State) (hm : MemOk s.mem) : MemOk (endCopy n r p held xs s).mem := by
  have hm' := mirrorCopy_memOk (ecOf s n true r.thread r.cmd) r.body hm
  unfold endCopy
  split <;> simp [hm, hm']

@[simp] theorem partCopy_frame (n : CtxId) (r : Run) (p : DmaPart) (held : List Byte) (xs : List DescS) (u : CopyStop) (s : State) :
    (partCopy n r p held xs u s).pending = s.pending ∧ (partCopy n r p held xs u s).flash = s.flash := by
  unfold partCopy
  dsimp only
  (repeat' split) <;> simp

@[simp] theorem partCopy_memOk (n : CtxId) (r : Run) (p : DmaPart) (held : List Byte) (xs : List DescS) (u : CopyStop) (s : State) (hm : MemOk s.mem) : MemOk (partCopy n r p held xs u s).mem := by
  unfold partCopy
  dsimp only
  (repeat' split) <;> simp [hm]

@[simp] theorem copyParts_pending (n : CtxId) (r : Run) (src dst : List (Seg × Ref)) (s : State) (f : State → State)
    (h : (f s).pending = s.pending) : (copyParts n r src dst s f).pending = s.pending := by
  unfold copyParts
  (repeat' split) <;> simp [h]

@[simp] theorem copyParts_mem (n : CtxId) (r : Run) (src dst : List (Seg × Ref)) (s : State) (f : State → State)
    (h : (f s).mem = s.mem) : (copyParts n r src dst s f).mem = s.mem := by
  unfold copyParts
  (repeat' split) <;> simp [h]

@[simp] theorem copyParts_flash (n : CtxId) (r : Run) (src dst : List (Seg × Ref)) (s : State) (f : State → State)
    (h : (f s).flash = s.flash) : (copyParts n r src dst s f).flash = s.flash := by
  unfold copyParts
  (repeat' split) <;> simp [h]

@[simp] theorem copyParts_memOk (n : CtxId) (r : Run) (src dst : List (Seg × Ref)) (s : State) (f : State → State)
    (hm : MemOk s.mem) (h : MemOk (f s).mem) : MemOk (copyParts n r src dst s f).mem := by
  unfold copyParts
  (repeat' split) <;> simp [h, hm]

@[simp] theorem copyParts_flashOk (n : CtxId) (r : Run) (src dst : List (Seg × Ref)) (s : State) (f : State → State)
    (hm : FlashOk s.flash) (h : FlashOk (f s).flash) : FlashOk (copyParts n r src dst s f).flash := by
  unfold copyParts
  (repeat' split) <;> simp [h, hm]

@[simp] theorem runCopy_frame (n : CtxId) (r : Run) (xs : List DescS) (upTo : Option CopyStop) (s : State) :
    (runCopy n r xs upTo s).pending = s.pending ∧ (runCopy n r xs upTo s).flash = s.flash := by
  unfold runCopy
  dsimp only
  (repeat' split) <;> simp

@[simp] theorem runCopy_memOk (n : CtxId) (r : Run) (xs : List DescS) (upTo : Option CopyStop) (s : State) (hm : MemOk s.mem) : MemOk (runCopy n r xs upTo s).mem := by
  unfold runCopy
  dsimp only
  (repeat' split) <;> simp [hm]

@[simp] theorem dcopyRun_frame (n : CtxId) (thread : Nat) (cmd : Nat) (upTo : Option CopyStop) (s : State) :
    (dcopyRun n thread cmd upTo s).pending = s.pending ∧ (dcopyRun n thread cmd upTo s).flash = s.flash := by
  simp only [dcopyRun]
  refine ⟨withRun_pending _ _ _ _ _ _ fun r => ?_, withRun_flash _ _ _ _ _ _ fun r => ?_⟩ <;>
  · repeat' split
    all_goals first
      | (simp; done)
      | (rename_i xs t h; have k := dcopyCheck_kept _ _ _ _ h; simp [k, Run.ec, ecOf]; done)

@[simp] theorem dcopyRun_memOk (n : CtxId) (thread : Nat) (cmd : Nat) (upTo : Option CopyStop) (s : State) (hm : MemOk s.mem) : MemOk (dcopyRun n thread cmd upTo s).mem := by
  simp only [dcopyRun]
  refine withRun_memOk _ _ _ _ _ _ hm fun r => ?_
  repeat' split
  all_goals first
    | (simp [hm]; done)
    | (rename_i xs t h; have k := (dcopyCheck_kept _ _ _ _ h).2.2 hm; simp [k]; done)

@[simp] theorem execDcopy_frame (n : CtxId) (thread : Nat) (cmd : Nat) (upTo : Option CopyStop) (arb : List BankCycle) (s : State) :
    (outState (execDcopy n thread cmd upTo arb s)).pending = s.pending ∧ (outState (execDcopy n thread cmd upTo arb s)).flash = s.flash := by
  unfold execDcopy
  (repeat' split) <;> simp

@[simp] theorem execDcopy_memOk (n : CtxId) (thread : Nat) (cmd : Nat) (upTo : Option CopyStop) (arb : List BankCycle) (s : State) (hm : MemOk s.mem) : MemOk (outState (execDcopy n thread cmd upTo arb s)).mem := by
  unfold execDcopy
  (repeat' split) <;> simp [hm]

@[simp] theorem execDsettle_frame (n : CtxId) (thread : Nat) (cmd : Nat) (s : State) :
    (outState (execDsettle n thread cmd s)).pending = s.pending ∧ (outState (execDsettle n thread cmd s)).mem = s.mem ∧ (outState (execDsettle n thread cmd s)).flash = s.flash := by
  unfold execDsettle
  simp [apply_ite State.pending, apply_ite State.mem, apply_ite State.flash]

@[simp] theorem runScatter_frame (n : CtxId) (r : Run) (fmt : Nat) (sa : Nat) (da : Nat) (ixs : List Nat) (upTo : Option Nat) (s : State) :
    (runScatter n r fmt sa da ixs upTo s).pending = s.pending ∧ (runScatter n r fmt sa da ixs upTo s).flash = s.flash := by
  unfold runScatter
  dsimp only
  split
  · simp
  refine ⟨chanBanks_pending _ _ _ _ _ ?_, chanBanks_flash _ _ _ _ _ ?_⟩ <;>
  · (repeat' split) <;> simp

@[simp] theorem runScatter_memOk (n : CtxId) (r : Run) (fmt : Nat) (sa : Nat) (da : Nat) (ixs : List Nat) (upTo : Option Nat) (s : State) (hm : MemOk s.mem) : MemOk (runScatter n r fmt sa da ixs upTo s).mem := by
  unfold runScatter
  dsimp only
  have hm' := mirrorScatter_memOk (ecOf s n true r.thread r.cmd) r.body hm
  split
  · exact hm
  refine chanBanks_memOk _ _ _ _ _ hm ?_
  (repeat' split) <;> simp [hm, hm']

@[simp] theorem dscatRun_frame (n : CtxId) (thread : Nat) (cmd : Nat) (upTo : Option Nat) (s : State) :
    (dscatRun n thread cmd upTo s).pending = s.pending ∧ (dscatRun n thread cmd upTo s).flash = s.flash := by
  unfold dscatRun
  simp only [withRun, withBanks, orFault]
  (repeat' split) <;> simp

@[simp] theorem dscatRun_memOk (n : CtxId) (thread : Nat) (cmd : Nat) (upTo : Option Nat) (s : State) (hm : MemOk s.mem) : MemOk (dscatRun n thread cmd upTo s).mem := by
  unfold dscatRun
  simp only [withRun, withBanks, orFault]
  (repeat' split) <;> simp +contextual [hm]

@[simp] theorem execDscat_frame (n : CtxId) (thread : Nat) (cmd : Nat) (upTo : Option Nat) (arb : List BankCycle) (s : State) :
    (outState (execDscat n thread cmd upTo arb s)).pending = s.pending ∧ (outState (execDscat n thread cmd upTo arb s)).flash = s.flash := by
  unfold execDscat
  (repeat' split) <;> simp

@[simp] theorem execDscat_memOk (n : CtxId) (thread : Nat) (cmd : Nat) (upTo : Option Nat) (arb : List BankCycle) (s : State) (hm : MemOk s.mem) : MemOk (outState (execDscat n thread cmd upTo arb s)).mem := by
  unfold execDscat
  (repeat' split) <;> simp [hm]

/-! ### Machine/Xchg.lean -/

@[simp] theorem setBit_frame (a : Nat) (i : Nat) (b : Bool) (s : State) :
    (setBit a i b s).pending = s.pending ∧ (setBit a i b s).flash = s.flash := by
  unfold setBit
  (repeat' split) <;> simp

@[simp] theorem setBit_memOk (a : Nat) (i : Nat) (b : Bool) (s : State) (hm : MemOk s.mem) : MemOk (setBit a i b s).mem := by
  unfold setBit
  (repeat' split) <;> simp [hm]

theorem writeRef_kept (n : CtxId) (win : Nat) (r : Ref) (bs : List Byte) (s t : State) (h : writeRef n win r bs s = .ok t) :
    Kept s t := by
  unfold writeRef at h
  split at h
  · exact nomatch h
  obtain ⟨a, ha, h⟩ := bind_ok h
  split at h
  · split at h
    · exact nomatch h
    · cases h; exact ⟨by simp, by simp, fun hm => by simp [hm]⟩
  · exact nomatch h
  · simp only [landedFault] at h
    split at h <;> exact nomatch h

theorem landBit_kept (n : CtxId) (win : Nat) (r : Ref) (i : Nat) (b : Bool) (s t : State) (h : landBit n win r i b s = .ok t) :
    Kept s t := by
  unfold landBit at h
  split at h
  · exact nomatch h
  obtain ⟨a, ha, h⟩ := bind_ok h
  exact writeRef_kept _ _ _ _ _ _ h

theorem placeRow_kept (n : CtxId) (win : Nat) (flag : Bool) (info : FlowInfo) (x : FlowRow) (bs : List Byte) (s t : State)
    (h : placeRow n win flag info x bs s = .ok t) : Kept s t := by
  simp only [placeRow] at h
  split at h
  · split at h
    · obtain ⟨u, hu, h⟩ := bind_ok h
      exact (writeRef_kept _ _ _ _ _ _ hu).ofModCtx.trans (writeRef_kept _ _ _ _ _ _ h)
    · obtain ⟨u, hu, h⟩ := map_ok h
      subst h
      exact (writeRef_kept _ _ _ _ _ _ hu).ofModCtx.trans (.modCtx _ _ _)
  · obtain ⟨u, hu, h⟩ := bind_ok h
    exact (writeRef_kept _ _ _ _ _ _ hu).trans (writeRef_kept _ _ _ _ _ _ h)

theorem fillRows_kept (n : CtxId) (win : Nat) (flag : Bool) (info : FlowInfo) (rows : List FlowRow) (s t : State)
    (h : fillRows n win flag info rows s = .ok t) : Kept s t := by
  refine foldlM_kept _ (fun s x t h => ?_) _ s t h
  dsimp only at h
  split at h <;>
  · refine foldlM_kept _ (fun s i t h => ?_) _ s t h
    obtain ⟨u, hu, h⟩ := bind_ok h
    exact (writeRef_kept _ _ _ _ _ _ hu).trans (writeRef_kept _ _ _ _ _ _ h)

theorem placeReturn_kept (n : CtxId) (w : WinDecl) (info : FlowInfo) (i : Nat) (bs : List Byte) (s t : State)
    (h : placeReturn n w info i bs s = .ok t) : Kept s t := by
  unfold placeReturn at h
  obtain ⟨u, hu, h⟩ := bind_ok h
  refine (writeRef_kept _ _ _ _ _ _ hu).trans ?_
  split at h
  · exact landBit_kept _ _ _ _ _ _ _ h
  · cases h; exact .refl _

theorem landFlow_kept (n : CtxId) (w : WinDecl) (info : FlowInfo) (have_ : Nat → Nat → Bool) (last : Bool) (s t : State)
    (h : landFlow n w info have_ last s = .ok t) : Kept s t := by
  simp only [landFlow] at h
  split at h
  · split at h
    · obtain ⟨u, hu, h⟩ := bind_ok h
      refine (foldlM_kept _ (fun s x t h => ?_) _ _ _ hu).trans ?_
      · split at h
        · cases h; exact .refl _
        · exact (placeRow_kept _ _ _ _ _ _ _ _ h).ofModCtx
      · split at h
        · exact fillRows_kept _ _ _ _ _ _ _ h
        · cases h; exact .refl _
    · cases h; exact .refl _
  · refine foldlM_kept _ (fun s x t h => ?_) _ _ _ h
    split at h
    · split at h
      · cases h; exact .refl _
      · exact (placeReturn_kept _ _ _ _ _ _ _ h).ofModCtx
    · cases h; exact .refl _

theorem sendFlow_kept (e : EC) (w : WinDecl) (info : FlowInfo) (bs : List Byte) (s t : State)
    (h : sendFlow e w info bs s = .ok t) : Kept s t := by
  unfold sendFlow at h
  dsimp only at h
  repeat' split at h
  · exact writeRef_kept _ _ _ _ _ _ h
  · exact (writeRef_kept _ _ _ _ _ _ h).ofModCtx
  · exact (landFlow_kept _ _ _ _ _ _ _ h).ofModCtx
  · cases h; exact .modCtx _ _ _

@[simp] theorem addXeCnt_frame (n : CtxId) (d : DieId) (drops : Nat) (rows : Nat) (s : State) :
    (addXeCnt n d drops rows s).pending = s.pending ∧ (addXeCnt n d drops rows s).mem = s.mem ∧ (addXeCnt n d drops rows s).flash = s.flash := by
  unfold addXeCnt
  (repeat' split) <;> simp

@[simp] theorem XeDone.write_frame (n : CtxId) (o : XeOps) (x : XeDone) (s : State) :
    (XeDone.write n o x s).pending = s.pending ∧ (XeDone.write n o x s).flash = s.flash := by
  unfold XeDone.write
  (repeat' split) <;> simp

@[simp] theorem XeDone.write_memOk (n : CtxId) (o : XeOps) (x : XeDone) (s : State) (hm : MemOk s.mem) : MemOk (XeDone.write n o x s).mem := by
  unfold XeDone.write
  (repeat' split) <;> simp +contextual [hm]

theorem xeApply_kept (e : EC) (o : XeOps) (x : XeDone) (s t : State) (h : xeApply e o x s = .ok t) : Kept s t := by
  unfold xeApply at h
  obtain ⟨u, hu, h⟩ := map_ok h
  subst h
  have k : Kept s u := by
    have k := foldlM_kept _ (fun s y t h => sendFlow_kept _ _ _ _ _ _ h) _ _ _ hu
    split at k
    · exact k.ofModCtx
    · exact k
  exact k.trans ⟨by simp, by simp, fun hm => by simp [hm]⟩

@[simp] theorem mirrorXe_frame (e : EC) (body : List Word) :
    (mirrorXe e body).1.pending = e.s.pending ∧ (mirrorXe e body).1.flash = e.s.flash := by
  unfold mirrorXe
  dsimp only
  (repeat' split) <;> simp

@[simp] theorem mirrorXe_memOk (e : EC) (body : List Word) (hm : MemOk e.s.mem) : MemOk (mirrorXe e body).1.mem := by
  unfold mirrorXe
  dsimp only
  (repeat' split) <;> simp +contextual [hm]

/-- The run of a checked XE command leaves what its banks' answer leaves. -/
theorem runXeOps_kept (n : CtxId) (r : Run) (o : XeOps) (s : State) : Kept s (runXeOps n r o s) := by
  have m : Kept s (if r.mirror.isSome then mirrorXe (ecOf s n true r.thread r.cmd) r.body else (s, [])).1 := by
    split
    · exact ⟨by simp, by simp, mirrorXe_memOk (ecOf s n true r.thread r.cmd) r.body⟩
    · exact .refl s
  unfold runXeOps withBanks
  split
  rotate_left
  · exact .refl s
  · exact ⟨by simp, by simp, fun hm => by simp [hm]⟩
  dsimp only
  generalize (if r.mirror.isSome then mirrorXe (ecOf s n true r.thread r.cmd) r.body else (s, [])) = x at m ⊢
  repeat' split
  all_goals first
    | (refine ⟨?_, ?_, fun hm => ?_⟩ <;> (simp [*]; done))
    | (have k := m.trans (xeApply_kept _ _ _ _ _ ‹xeApply _ _ _ _ = .ok _›)
       exact ⟨by simp [k.1], by simp [k.2.1], fun hm => by simp [k.2.2 hm]⟩)

@[simp] theorem runXeOps_frame (n : CtxId) (r : Run) (o : XeOps) (s : State) :
    (runXeOps n r o s).pending = s.pending ∧ (runXeOps n r o s).flash = s.flash :=
  ⟨(runXeOps_kept n r o s).1, (runXeOps_kept n r o s).2.1⟩

@[simp] theorem runXeOps_memOk (n : CtxId) (r : Run) (o : XeOps) (s : State) (hm : MemOk s.mem) : MemOk (runXeOps n r o s).mem :=
  (runXeOps_kept n r o s).2.2 hm

@[simp] theorem runXe_frame (n : CtxId) (thread : Nat) (cmd : Nat) (op : Nat) (s : State) :
    (runXe n thread cmd op s).pending = s.pending ∧ (runXe n thread cmd op s).flash = s.flash := by
  unfold runXe
  simp only [withRun, withBanks, orFault]
  (repeat' split) <;> simp

@[simp] theorem runXe_memOk (n : CtxId) (thread : Nat) (cmd : Nat) (op : Nat) (s : State) (hm : MemOk s.mem) : MemOk (runXe n thread cmd op s).mem := by
  unfold runXe
  simp only [withRun, withBanks, orFault]
  (repeat' split) <;> simp +contextual [hm]

@[simp] theorem execXsend_frame (n : CtxId) (thread : Nat) (cmd : Nat) (arb : List BankCycle) (s : State) :
    (outState (execXsend n thread cmd arb s)).pending = s.pending ∧ (outState (execXsend n thread cmd arb s)).flash = s.flash := by
  unfold execXsend
  (repeat' split) <;> simp

@[simp] theorem execXsend_memOk (n : CtxId) (thread : Nat) (cmd : Nat) (arb : List BankCycle) (s : State) (hm : MemOk s.mem) : MemOk (outState (execXsend n thread cmd arb s)).mem := by
  unfold execXsend
  (repeat' split) <;> simp [hm]

@[simp] theorem execXret_frame (n : CtxId) (thread : Nat) (cmd : Nat) (arb : List BankCycle) (s : State) :
    (outState (execXret n thread cmd arb s)).pending = s.pending ∧ (outState (execXret n thread cmd arb s)).flash = s.flash := by
  unfold execXret
  (repeat' split) <;> simp

@[simp] theorem execXret_memOk (n : CtxId) (thread : Nat) (cmd : Nat) (arb : List BankCycle) (s : State) (hm : MemOk s.mem) : MemOk (outState (execXret n thread cmd arb s)).mem := by
  unfold execXret
  (repeat' split) <;> simp [hm]

@[simp] theorem execXblk_frame (n : CtxId) (thread : Nat) (cmd : Nat) (arb : List BankCycle) (s : State) :
    (outState (execXblk n thread cmd arb s)).pending = s.pending ∧ (outState (execXblk n thread cmd arb s)).flash = s.flash := by
  unfold execXblk
  (repeat' split) <;> simp

@[simp] theorem execXblk_memOk (n : CtxId) (thread : Nat) (cmd : Nat) (arb : List BankCycle) (s : State) (hm : MemOk s.mem) : MemOk (outState (execXblk n thread cmd arb s)).mem := by
  unfold execXblk
  (repeat' split) <;> simp [hm]

/-! ### Machine/Bind.lean -/

@[simp] theorem fillSlab_frame (j : Job) (b : SlabBind) (s : State) :
    (fillSlab j b s).pending = s.pending ∧ (fillSlab j b s).flash = s.flash := by
  unfold fillSlab
  simp [apply_ite State.pending, apply_ite State.mem, apply_ite State.flash]

@[simp] theorem fillSlab_memOk (j : Job) (b : SlabBind) (s : State) (hm : MemOk s.mem) : MemOk (fillSlab j b s).mem := by
  unfold fillSlab
  repeat' first
    | assumption
    | (simp [*]; done)
    | refine foldl_memOk _ (fun t x h => ?_) _ _ ?_
    | split
    | dsimp only

@[simp] theorem fillSlabs_frame (j : Job) (bs : List SlabBind) (s : State) :
    (fillSlabs j bs s).pending = s.pending ∧ (fillSlabs j bs s).flash = s.flash := by
  unfold fillSlabs
  (repeat' split) <;> simp

@[simp] theorem fillSlabs_memOk (j : Job) (bs : List SlabBind) (s : State) (hm : MemOk s.mem) : MemOk (fillSlabs j bs s).mem := by
  unfold fillSlabs
  (repeat' split) <;> simp +contextual [hm]

@[simp] theorem fillBuf_frame (j : Job) (b : Nat × Nat × Nat) (s : State) :
    (fillBuf j b s).pending = s.pending ∧ (fillBuf j b s).flash = s.flash := by
  unfold fillBuf
  simp [apply_ite State.pending, apply_ite State.mem, apply_ite State.flash]

@[simp] theorem fillBuf_memOk (j : Job) (b : Nat × Nat × Nat) (s : State) (hm : MemOk s.mem) : MemOk (fillBuf j b s).mem := by
  unfold fillBuf
  repeat' first
    | assumption
    | (simp [*]; done)
    | refine foldl_memOk _ (fun t x h => ?_) _ _ ?_
    | split
    | dsimp only

@[simp] theorem takeBanks_frame (n : CtxId) (core : CoreId) (s : State) :
    (takeBanks n core s).pending = s.pending ∧ (takeBanks n core s).mem = s.mem ∧ (takeBanks n core s).flash = s.flash := by
  unfold takeBanks
  simp [apply_ite State.pending, apply_ite State.mem, apply_ite State.flash]

@[simp] theorem rebind_frame (n : CtxId) (s : State) :
    (rebind n s).pending = s.pending ∧ (rebind n s).flash = s.flash := by
  unfold rebind
  dsimp only
  (repeat' split) <;> simp

@[simp] theorem rebind_memOk (n : CtxId) (s : State) (hm : MemOk s.mem) : MemOk (rebind n s).mem := by
  unfold rebind
  dsimp only
  (repeat' split) <;> simp [hm]

/-! ### Machine/Weights.lean -/

@[simp] theorem modShard_frame (n : CtxId) (shard : Nat) (f : ShardState → ShardState) (s : State) :
    (modShard n shard f s).pending = s.pending ∧ (modShard n shard f s).mem = s.mem ∧ (modShard n shard f s).flash = s.flash := by
  unfold modShard
  (repeat' split) <;> simp

@[simp] theorem dropScrubs_frame (n : CtxId) (s : State) :
    (dropScrubs n s).pending = s.pending ∧ (dropScrubs n s).mem = s.mem ∧ (dropScrubs n s).flash = s.flash := by
  unfold dropScrubs
  (repeat' split) <;> simp

@[simp] theorem chooseAlts_frame (n : CtxId) (s : State) :
    (chooseAlts n s).pending = s.pending ∧ (chooseAlts n s).mem = s.mem ∧ (chooseAlts n s).flash = s.flash := by
  unfold chooseAlts
  (repeat' split) <;> simp

@[simp] theorem fillAlts_frame (n : CtxId) (s : State) :
    (fillAlts n s).pending = s.pending ∧ (fillAlts n s).mem = s.mem ∧ (fillAlts n s).flash = s.flash := by
  simp [fillAlts]

@[simp] theorem freePins_frame (n : CtxId) (p : PinState → Bool) (s : State) :
    (freePins n p s).pending = s.pending ∧ (freePins n p s).mem = s.mem ∧ (freePins n p s).flash = s.flash := by
  unfold freePins
  dsimp only
  (repeat' split) <;> simp

@[simp] theorem afterReleases_frame (n : CtxId) (old : List PinState) (s : State) :
    (afterReleases n old s).pending = s.pending ∧ (afterReleases n old s).mem = s.mem ∧ (afterReleases n old s).flash = s.flash := by
  unfold afterReleases
  (repeat' split) <;> simp

@[simp] theorem releasePins_frame (n : CtxId) (p : PinState → Bool) (s : State) :
    (releasePins n p s).pending = s.pending ∧ (releasePins n p s).mem = s.mem ∧ (releasePins n p s).flash = s.flash := by
  simp [releasePins]

@[simp] theorem noteEnd_frame (n : CtxId) (s : State) :
    (noteEnd n s).pending = s.pending ∧ (noteEnd n s).mem = s.mem ∧ (noteEnd n s).flash = s.flash := by
  unfold noteEnd
  dsimp only
  (repeat' split) <;> simp

@[simp] theorem sealFails_frame (n : CtxId) (shard : Nat) (again : Bool) (s : State) :
    (sealFails n shard again s).pending = s.pending ∧ (sealFails n shard again s).mem = s.mem ∧ (sealFails n shard again s).flash = s.flash := by
  unfold sealFails
  (repeat' split) <;> simp

@[simp] theorem sealShard_frame (n : CtxId) (shard : Nat) (s : State) :
    (sealShard n shard s).pending = s.pending ∧ (sealShard n shard s).flash = s.flash := by
  unfold sealShard
  dsimp only
  (repeat' split) <;> simp

@[simp] theorem sealShard_memOk (n : CtxId) (shard : Nat) (s : State) (hm : MemOk s.mem) : MemOk (sealShard n shard s).mem := by
  unfold sealShard
  dsimp only
  (repeat' split) <;> simp [hm]

@[simp] theorem execSeal_frame (n : CtxId) (shard : Nat) (s : State) :
    (outState (execSeal n shard s)).pending = s.pending ∧ (outState (execSeal n shard s)).flash = s.flash := by
  unfold execSeal
  (repeat' split) <;> simp

@[simp] theorem execSeal_memOk (n : CtxId) (shard : Nat) (s : State) (hm : MemOk s.mem) : MemOk (outState (execSeal n shard s)).mem := by
  unfold execSeal
  (repeat' split) <;> simp [hm]

@[simp] theorem startScrub_frame (s : State) :
    (startScrub s).pending = s.pending ∧ (startScrub s).mem = s.mem ∧ (startScrub s).flash = s.flash := by
  unfold startScrub
  (repeat' split) <;> simp

@[simp] theorem scrubBuf_frame (n : CtxId) (d : ShardDesc) (s : State) (i : Nat) :
    (scrubBuf n d s i).pending = s.pending ∧ (scrubBuf n d s i).mem = s.mem ∧ (scrubBuf n d s i).flash = s.flash := by
  unfold scrubBuf
  dsimp only
  (repeat' split) <;> simp

@[simp] theorem execDigestScrubPass_frame (upsets : List (Nat × Byte)) (s : State) :
    (outState (execDigestScrubPass upsets s)).pending = s.pending ∧ (outState (execDigestScrubPass upsets s)).flash = s.flash := by
  unfold execDigestScrubPass
  repeat' first
    | rfl
    | (simp [*]; done)
    | refine And.intro ?_ ?_
    | refine (foldl_pending _ (fun t x => ?_) _ _).trans ?_
    | refine (foldl_mem _ (fun t x => ?_) _ _).trans ?_
    | refine (foldl_flash _ (fun t x => ?_) _ _).trans ?_
    | split
    | dsimp only

@[simp] theorem execDigestScrubPass_memOk (upsets : List (Nat × Byte)) (s : State) (hm : MemOk s.mem) : MemOk (outState (execDigestScrubPass upsets s)).mem := by
  have h : MemOk (upsets.foldl (fun s u => s.writeB u.1 [((s.readB u.1 1).getD 0 0) ^^^ u.2]) s).mem :=
    foldl_memOk _ (fun t x h => State.writeB_memOk _ _ _ h) _ _ hm
  unfold execDigestScrubPass
  dsimp only
  generalize upsets.foldl _ s = u at h ⊢
  repeat' split
  all_goals first
    | (simp [h]; done)
    | (refine foldl_memOk _ (fun t x h => ?_) _ _ (by simp [h])
       split <;> simp [h])

end Sys2Proof.Machine
end

