-- ==== Sys2Proof/Laws/FrameJob.lean ====
section
/-! SUPPORT. What records, attempts, plans, loading and issue leave of the queue, the memory and the flash: each keeps the queue; each keeps the memory and the
flash, or their canonical form. -/

namespace Sys2Proof.Machine

/-! ### Machine/Sepia.lean -/

@[simp] theorem clearStepCounters_frame (n : CtxId) (s : State) :
    (clearStepCounters n s).pending = s.pending ∧ (clearStepCounters n s).mem = s.mem ∧ (clearStepCounters n s).flash = s.flash := by
  unfold clearStepCounters
  (repeat' split) <;> simp

@[simp] theorem makeRoom_frame (len : Nat) (s : State) :
    (makeRoom len s).pending = s.pending ∧ (makeRoom len s).mem = s.mem ∧ (makeRoom len s).flash = s.flash := by
  unfold makeRoom
  (repeat' split) <;> simp

@[simp] theorem ringPut_frame (base : Nat) (size : Nat) (x : Nat) (bytes : List Byte) (s : State) :
    (ringPut base size x bytes s).pending = s.pending ∧ (ringPut base size x bytes s).flash = s.flash := by
  unfold ringPut
  refine ⟨foldl_fst_pending _ ?_ _ _, foldl_fst_flash _ ?_ _ _⟩ <;> intro a x <;> rfl

@[simp] theorem ringPut_memOk (base : Nat) (size : Nat) (x : Nat) (bytes : List Byte) (s : State) (hm : MemOk s.mem) : MemOk (ringPut base size x bytes s).mem := by
  unfold ringPut
  exact foldl_fst_memOk _ (fun a x h => State.writeB_memOk _ _ _ h) _ _ hm

@[simp] theorem ringWrite_frame (bytes : List Byte) (s : State) :
    (ringWrite bytes s).pending = s.pending ∧ (ringWrite bytes s).flash = s.flash := by
  unfold ringWrite
  (repeat' split) <;> simp

@[simp] theorem ringWrite_memOk (bytes : List Byte) (s : State) (hm : MemOk s.mem) : MemOk (ringWrite bytes s).mem := by
  unfold ringWrite
  (repeat' split) <;> simp [hm]

@[simp] theorem fixAnchor_frame (n : CtxId) (a : BitVec 256) (s : State) :
    (fixAnchor n a s).pending = s.pending ∧ (fixAnchor n a s).mem = s.mem ∧ (fixAnchor n a s).flash = s.flash := by
  unfold fixAnchor
  (repeat' split) <;> simp

@[simp] theorem fixAnchors_frame (n : CtxId) (k : Nat) (s : State) :
    (fixAnchors n k s).pending = s.pending ∧ (fixAnchors n k s).mem = s.mem ∧ (fixAnchors n k s).flash = s.flash := by
  induction k generalizing s with
  | zero => exact ⟨rfl, rfl, rfl⟩
  | succ k ih =>
    unfold fixAnchors
    (repeat' split) <;> simp [ih]

@[simp] theorem writeShut_frame (n : CtxId) (k : Nat) (s : State) :
    (writeShut n k s).pending = s.pending ∧ (writeShut n k s).flash = s.flash := by
  induction k generalizing s with
  | zero => exact ⟨rfl, rfl⟩
  | succ k ih =>
    unfold writeShut
    (repeat' split) <;> simp [ih]

@[simp] theorem writeShut_memOk (n : CtxId) (k : Nat) (s : State) (hm : MemOk s.mem) : MemOk (writeShut n k s).mem := by
  induction k generalizing s with
  | zero => exact hm
  | succ k ih =>
    unfold writeShut
    split
    · split
      · exact ih _ (ringWrite_memOk _ _ (by simp [hm]))
      · exact hm
    · exact hm

@[simp] theorem settleShut_frame (n : CtxId) (s : State) :
    (settleShut n s).pending = s.pending ∧ (settleShut n s).flash = s.flash := by
  unfold settleShut
  (repeat' split) <;> simp

@[simp] theorem settleShut_memOk (n : CtxId) (s : State) (hm : MemOk s.mem) : MemOk (settleShut n s).mem := by
  unfold settleShut
  (repeat' split) <;> simp [hm]

@[simp] theorem publishWaiting_frame (s : State) :
    (publishWaiting s).pending = s.pending ∧ (publishWaiting s).flash = s.flash := by
  unfold publishWaiting
  exact ⟨foldl_pending _ (fun t x => by simp) _ _, foldl_flash _ (fun t x => by simp) _ _⟩

@[simp] theorem publishWaiting_memOk (s : State) (hm : MemOk s.mem) : MemOk (publishWaiting s).mem := by
  unfold publishWaiting
  exact foldl_memOk _ (fun t x h => by simp [h]) _ _ hm

@[simp] theorem checkTdc_frame (n : CtxId) (s : State) :
    (checkTdc n s).pending = s.pending ∧ (checkTdc n s).mem = s.mem ∧ (checkTdc n s).flash = s.flash := by
  unfold checkTdc
  dsimp only
  (repeat' split) <;> simp

@[simp] theorem countAnchor_frame (n : CtxId) (e : BitVec 256 × BitVec 256) (s : State) :
    (countAnchor n e s).pending = s.pending ∧ (countAnchor n e s).mem = s.mem ∧ (countAnchor n e s).flash = s.flash := by
  unfold countAnchor
  (repeat' split) <;> simp

@[simp] theorem closeRecord_frame (n : CtxId) (err0 : BitVec 256) (err1 : BitVec 256) (s : State) :
    (closeRecord n err0 err1 s).pending = s.pending ∧ (closeRecord n err0 err1 s).flash = s.flash := by
  unfold closeRecord
  dsimp only
  (repeat' split) <;> simp

@[simp] theorem closeRecord_memOk (n : CtxId) (err0 : BitVec 256) (err1 : BitVec 256) (s : State) (hm : MemOk s.mem) : MemOk (closeRecord n err0 err1 s).mem := by
  unfold closeRecord
  dsimp only
  (repeat' split) <;> simp [hm]

@[simp] theorem reportVerdict_frame (n : CtxId) (e : VerdictEnt) (sig : Option CmdSig) (s : State) :
    (reportVerdict n e sig s).pending = s.pending ∧ (reportVerdict n e sig s).mem = s.mem ∧ (reportVerdict n e sig s).flash = s.flash := by
  unfold reportVerdict
  (repeat' split) <;> simp

@[simp] theorem decideAnchor_frame (n : CtxId) (third : Option (BitVec 256)) (s : State) :
    (decideAnchor n third s).pending = s.pending ∧ (decideAnchor n third s).flash = s.flash := by
  unfold decideAnchor
  dsimp only
  (repeat' split) <;> simp

@[simp] theorem decideAnchor_memOk (n : CtxId) (third : Option (BitVec 256)) (s : State) (hm : MemOk s.mem) : MemOk (decideAnchor n third s).mem := by
  unfold decideAnchor
  dsimp only
  (repeat' split) <;> simp [hm]

@[simp] theorem execAnchorThird_frame (n : CtxId) (err : BitVec 256) (s : State) :
    (outState (execAnchorThird n err s)).pending = s.pending ∧ (outState (execAnchorThird n err s)).flash = s.flash := by
  unfold execAnchorThird
  (repeat' split) <;> simp

@[simp] theorem execAnchorThird_memOk (n : CtxId) (err : BitVec 256) (s : State) (hm : MemOk s.mem) : MemOk (outState (execAnchorThird n err s)).mem := by
  unfold execAnchorThird
  (repeat' split) <;> simp [hm]

/-! ### Machine/Attempt.lean -/

@[simp] theorem modV_frame (n : CtxId) (f : AttemptSt → AttemptSt) (s : State) :
    (modV n f s).pending = s.pending ∧ (modV n f s).mem = s.mem ∧ (modV n f s).flash = s.flash := by
  unfold modV
  (repeat' split) <;> simp

@[simp] theorem rampTrigger_frame (n : CtxId) (s : State) :
    (rampTrigger n s).pending = s.pending ∧ (rampTrigger n s).mem = s.mem ∧ (rampTrigger n s).flash = s.flash := by
  unfold rampTrigger
  (repeat' split) <;> simp

@[simp] theorem execWaveRelease_frame (n : CtxId) (w : Fin 8) (s : State) :
    (outState (execWaveRelease n w s)).pending = s.pending ∧ (outState (execWaveRelease n w s)).mem = s.mem ∧ (outState (execWaveRelease n w s)).flash = s.flash := by
  unfold execWaveRelease
  (repeat' split) <;> simp

@[simp] theorem execFullRate_frame (n : CtxId) (w : Fin 8) (s : State) :
    (outState (execFullRate n w s)).pending = s.pending ∧ (outState (execFullRate n w s)).mem = s.mem ∧ (outState (execFullRate n w s)).flash = s.flash := by
  unfold execFullRate
  (repeat' split) <;> simp

@[simp] theorem fillResident_frame (n : CtxId) (s : State) :
    (fillResident n s).pending = s.pending ∧ (fillResident n s).mem = s.mem ∧ (fillResident n s).flash = s.flash := by
  unfold fillResident
  (repeat' split) <;> simp

@[simp] theorem checkpoint_frame (n : CtxId) (s : State) :
    (checkpoint n s).pending = s.pending ∧ (checkpoint n s).mem = s.mem ∧ (checkpoint n s).flash = s.flash := by
  unfold checkpoint
  dsimp only
  (repeat' split) <;> simp

@[simp] theorem checkLists_frame (n : CtxId) (s : State) :
    (checkLists n s).pending = s.pending ∧ (checkLists n s).mem = s.mem ∧ (checkLists n s).flash = s.flash := by
  unfold checkLists
  repeat' first
    | rfl
    | (simp [*]; done)
    | refine And.intro ?_ ?_
    | refine (foldl_pending _ (fun t x => ?_) _ _).trans ?_
    | refine (foldl_mem _ (fun t x => ?_) _ _).trans ?_
    | refine (foldl_flash _ (fun t x => ?_) _ _).trans ?_
    | split
    | dsimp only

@[simp] theorem beginAttempt_frame (n : CtxId) (j : Job) (s : State) :
    (beginAttempt n j s).pending = s.pending ∧ (beginAttempt n j s).mem = s.mem ∧ (beginAttempt n j s).flash = s.flash := by
  unfold beginAttempt
  (repeat' split) <;> simp

@[simp] theorem execStepStart_frame (n : CtxId) (err0 : BitVec 256) (err1 : BitVec 256) (s : State) :
    (outState (execStepStart n err0 err1 s)).pending = s.pending ∧ (outState (execStepStart n err0 err1 s)).flash = s.flash := by
  unfold execStepStart
  (repeat' split) <;> simp

@[simp] theorem execStepStart_memOk (n : CtxId) (err0 : BitVec 256) (err1 : BitVec 256) (s : State) (hm : MemOk s.mem) : MemOk (outState (execStepStart n err0 err1 s)).mem := by
  unfold execStepStart
  (repeat' split) <;> simp [hm]

@[simp] theorem execDeadlineMiss_frame (n : CtxId) (s : State) :
    (outState (execDeadlineMiss n s)).pending = s.pending ∧ (outState (execDeadlineMiss n s)).mem = s.mem ∧ (outState (execDeadlineMiss n s)).flash = s.flash := by
  unfold execDeadlineMiss
  dsimp only
  (repeat' split) <;> simp

@[simp] theorem abandonChecks_frame (n : CtxId) (s : State) :
    (abandonChecks n s).pending = s.pending ∧ (abandonChecks n s).mem = s.mem ∧ (abandonChecks n s).flash = s.flash := by
  unfold abandonChecks
  simp [apply_ite State.pending, apply_ite State.mem, apply_ite State.flash]

@[simp] theorem stopChans_frame (n : CtxId) (cause : Nat) (s : State) :
    (stopChans n cause s).pending = s.pending ∧ (stopChans n cause s).mem = s.mem ∧ (stopChans n cause s).flash = s.flash := by
  unfold stopChans
  simp [apply_ite State.pending, apply_ite State.mem, apply_ite State.flash]

@[simp] theorem dropAttempt_frame (n : CtxId) (s : State) :
    (dropAttempt n s).pending = s.pending ∧ (dropAttempt n s).mem = s.mem ∧ (dropAttempt n s).flash = s.flash := by
  unfold dropAttempt
  (repeat' split) <;> simp

@[simp] theorem dropWrites_frame (n : CtxId) (s : State) :
    (dropWrites n s).pending = s.pending ∧ (dropWrites n s).mem = s.mem ∧ (dropWrites n s).flash = s.flash := by
  unfold dropWrites
  (repeat' split) <;> simp

@[simp] theorem judgeReplay_frame (n : CtxId) (committed : Bool) (s : State) :
    (judgeReplay n committed s).pending = s.pending ∧ (judgeReplay n committed s).mem = s.mem ∧ (judgeReplay n committed s).flash = s.flash := by
  unfold judgeReplay
  dsimp only
  (repeat' split) <;> simp

@[simp] theorem judgeEnded_frame (s : State) (n : CtxId) :
    (judgeEnded s n).pending = s.pending ∧ (judgeEnded s n).mem = s.mem ∧ (judgeEnded s n).flash = s.flash := by
  unfold judgeEnded
  dsimp only
  (repeat' split) <;> simp

@[simp] theorem transitTo_frame (n : CtxId) (g : FrameNo) (s : State) :
    (transitTo n g s).pending = s.pending ∧ (transitTo n g s).mem = s.mem ∧ (transitTo n g s).flash = s.flash := by
  unfold transitTo
  (repeat' split) <;> simp

@[simp] theorem recordUnstarted_frame (n : CtxId) (j : Job) (err0 err1 : BitVec 256) (s : State) :
    (recordUnstarted n j err0 err1 s).pending = s.pending ∧ (recordUnstarted n j err0 err1 s).flash = s.flash := by
  unfold recordUnstarted
  dsimp only
  (repeat' split) <;> simp

@[simp] theorem recordUnstarted_memOk (n : CtxId) (j : Job) (err0 err1 : BitVec 256) (s : State) (hm : MemOk s.mem) : MemOk (recordUnstarted n j err0 err1 s).mem := by
  unfold recordUnstarted
  dsimp only
  (repeat' split) <;> simp [hm]

@[simp] theorem execCondemnationInstant_frame (n : CtxId) (err0 : BitVec 256) (err1 : BitVec 256) (s : State) :
    (outState (execCondemnationInstant n err0 err1 s)).pending = s.pending ∧ (outState (execCondemnationInstant n err0 err1 s)).flash = s.flash := by
  unfold execCondemnationInstant
  dsimp only
  (repeat' split) <;> simp

@[simp] theorem execCondemnationInstant_memOk (n : CtxId) (err0 : BitVec 256) (err1 : BitVec 256) (s : State) (hm : MemOk s.mem) : MemOk (outState (execCondemnationInstant n err0 err1 s)).mem := by
  unfold execCondemnationInstant
  dsimp only
  (repeat' split) <;> simp [hm]

@[simp] theorem execCondemnLate_frame (n : CtxId) (cause : Nat) (s : State) :
    (outState (execCondemnLate n cause s)).pending = s.pending ∧ (outState (execCondemnLate n cause s)).mem = s.mem ∧ (outState (execCondemnLate n cause s)).flash = s.flash := by
  unfold execCondemnLate
  (repeat' split) <;> simp

@[simp] theorem switchShards_frame (n : CtxId) (s : State) :
    (switchShards n s).pending = s.pending ∧ (switchShards n s).mem = s.mem ∧ (switchShards n s).flash = s.flash := by
  unfold switchShards
  (repeat' split) <;> simp

@[simp] theorem publishWindows_frame (n : CtxId) (s : State) :
    (publishWindows n s).pending = s.pending ∧ (publishWindows n s).mem = s.mem ∧ (publishWindows n s).flash = s.flash := by
  unfold publishWindows
  (repeat' split) <;> simp

@[simp] theorem commitJob_frame (n : CtxId) (j : Job) (cf : FrameNo) (err0 : BitVec 256) (err1 : BitVec 256) (s : State) :
    (commitJob n j cf err0 err1 s).pending = s.pending ∧ (commitJob n j cf err0 err1 s).flash = s.flash := by
  unfold commitJob
  dsimp only
  (repeat' split) <;> simp

@[simp] theorem commitJob_memOk (n : CtxId) (j : Job) (cf : FrameNo) (err0 : BitVec 256) (err1 : BitVec 256) (s : State) (hm : MemOk s.mem) : MemOk (commitJob n j cf err0 err1 s).mem := by
  unfold commitJob
  dsimp only
  (repeat' split) <;> simp [hm]

@[simp] theorem execCommit_frame (n : CtxId) (err0 : BitVec 256) (err1 : BitVec 256) (s : State) :
    (outState (execCommit n err0 err1 s)).pending = s.pending ∧ (outState (execCommit n err0 err1 s)).flash = s.flash := by
  unfold execCommit
  dsimp only
  (repeat' split) <;> simp

@[simp] theorem execCommit_memOk (n : CtxId) (err0 : BitVec 256) (err1 : BitVec 256) (s : State) (hm : MemOk s.mem) : MemOk (outState (execCommit n err0 err1 s)).mem := by
  unfold execCommit
  dsimp only
  (repeat' split) <;> simp [hm]

@[simp] theorem execResumeEffect_frame (n : CtxId) (s : State) :
    (outState (execResumeEffect n s)).pending = s.pending ∧ (outState (execResumeEffect n s)).mem = s.mem ∧ (outState (execResumeEffect n s)).flash = s.flash := by
  unfold execResumeEffect
  dsimp only
  (repeat' split) <;> simp

/-! ### Machine/Plan.lean -/

@[simp] theorem setPlan_frame (n : CtxId) (s : State) :
    (setPlan n s).pending = s.pending ∧ (setPlan n s).mem = s.mem ∧ (setPlan n s).flash = s.flash := by
  unfold setPlan
  (repeat' split) <;> simp

/-! ### Machine/Load.lean -/

@[simp] theorem loadJob_frame (n : CtxId) (win : Nat) (seed : Nat) (first : Nat) (s : State) :
    (loadJob n win seed first s).2.pending = s.pending ∧ (loadJob n win seed first s).2.flash = s.flash := by
  unfold loadJob
  refine iteInduction (motive := fun w : Wrote => w.2.pending = s.pending ∧ w.2.flash = s.flash) (fun _ => ⟨rfl, rfl⟩) (fun _ => ?_)
  refine iteInduction (motive := fun w : Wrote => w.2.pending = s.pending ∧ w.2.flash = s.flash) (fun _ => ⟨rfl, rfl⟩) (fun _ => ?_)
  split
  · exact ⟨rfl, rfl⟩
  split
  · exact ⟨rfl, rfl⟩
  extract_lets j
  refine iteInduction (motive := fun w : Wrote => w.2.pending = s.pending ∧ w.2.flash = s.flash) (fun _ => ⟨rfl, rfl⟩) (fun _ => ?_)
  split
  · exact ⟨rfl, rfl⟩
  refine iteInduction (motive := fun w : Wrote => w.2.pending = s.pending ∧ w.2.flash = s.flash) (fun _ => ⟨rfl, rfl⟩) (fun _ => ?_)
  extract_lets s1 s2 s3 c1 j2 idle s4 s5
  refine iteInduction (motive := fun w : Wrote => w.2.pending = s.pending ∧ w.2.flash = s.flash) (fun _ => ⟨rfl, rfl⟩) (fun _ => ?_)
  refine iteInduction (motive := fun w : Wrote => w.2.pending = s.pending ∧ w.2.flash = s.flash) (fun _ => ⟨rfl, rfl⟩) (fun _ => ?_)
  refine iteInduction (motive := fun w : Wrote => w.2.pending = s.pending ∧ w.2.flash = s.flash) (fun _ => ⟨rfl, rfl⟩) (fun _ => ?_)
  simp +zetaDelta

@[simp] theorem loadJob_memOk (n : CtxId) (win : Nat) (seed : Nat) (first : Nat) (s : State) (hm : MemOk s.mem) : MemOk (loadJob n win seed first s).2.mem := by
  unfold loadJob
  refine iteInduction (motive := fun w : Wrote => MemOk w.2.mem) (fun _ => hm) (fun _ => ?_)
  refine iteInduction (motive := fun w : Wrote => MemOk w.2.mem) (fun _ => hm) (fun _ => ?_)
  split
  · exact hm
  split
  · exact hm
  extract_lets j
  refine iteInduction (motive := fun w : Wrote => MemOk w.2.mem) (fun _ => hm) (fun _ => ?_)
  split
  · exact hm
  refine iteInduction (motive := fun w : Wrote => MemOk w.2.mem) (fun _ => hm) (fun _ => ?_)
  extract_lets s1 s2 s3 c1 j2 idle s4 s5
  refine iteInduction (motive := fun w : Wrote => MemOk w.2.mem) (fun _ => hm) (fun _ => ?_)
  refine iteInduction (motive := fun w : Wrote => MemOk w.2.mem) (fun _ => hm) (fun _ => ?_)
  refine iteInduction (motive := fun w : Wrote => MemOk w.2.mem) (fun _ => hm) (fun _ => ?_)
  have h3 : MemOk s3.mem := foldl_memOk _ (fun t x h => by simp [h]) _ _ (by simp +zetaDelta [hm])
  simpa +zetaDelta using h3

@[simp] theorem transitLoad_frame (n : CtxId) (win : Nat) (s : State) :
    (transitLoad n win s).2.pending = s.pending ∧ (transitLoad n win s).2.mem = s.mem ∧ (transitLoad n win s).2.flash = s.flash := by
  unfold transitLoad
  (repeat' split) <;> simp

@[simp] theorem startJob_frame (n : CtxId) (epoch : Nat) (restore : Bool) (gen : BitVec 32) (s0 : State) :
    (startJob n epoch restore gen s0).2.pending = s0.pending ∧ (startJob n epoch restore gen s0).2.mem = s0.mem ∧ (startJob n epoch restore gen s0).2.flash = s0.flash := by
  unfold startJob
  split
  · exact ⟨rfl, rfl, rfl⟩
  extract_lets s c
  have hs : s.pending = s0.pending ∧ s.mem = s0.mem ∧ s.flash = s0.flash := by
    simp only [s]
    split <;> simp
  iterate 9
    refine iteInduction (motive := fun w : Wrote => w.2.pending = s0.pending ∧ w.2.mem = s0.mem ∧ w.2.flash = s0.flash)
      (fun _ => ⟨rfl, rfl, rfl⟩) (fun _ => ?_)
  extract_lets
  rename_i s1 s2 _ _ _ _ _ _ _ _ _
  have h1 : s1.pending = s.pending ∧ s1.mem = s.mem ∧ s1.flash = s.flash := by
    simp only [s1]
    split <;> simp
  simp [s2, h1, hs]

@[simp] theorem haltOrder_frame (n : CtxId) (s : State) :
    (haltOrder n s).2.pending = s.pending ∧ (haltOrder n s).2.mem = s.mem ∧ (haltOrder n s).2.flash = s.flash := by
  unfold haltOrder
  (repeat' split) <;> simp

@[simp] theorem orderResume_frame (n : CtxId) (s : State) :
    (orderResume n s).pending = s.pending ∧ (orderResume n s).mem = s.mem ∧ (orderResume n s).flash = s.flash := by
  unfold orderResume
  (repeat' split) <;> simp

@[simp] theorem resumeOrder_frame (n : CtxId) (s : State) :
    (resumeOrder n s).2.pending = s.pending ∧ (resumeOrder n s).2.mem = s.mem ∧ (resumeOrder n s).2.flash = s.flash := by
  unfold resumeOrder
  dsimp only
  (repeat' split) <;> simp

@[simp] theorem replayOrder_frame (n : CtxId) (s : State) :
    (replayOrder n s).2.pending = s.pending ∧ (replayOrder n s).2.mem = s.mem ∧ (replayOrder n s).2.flash = s.flash := by
  unfold replayOrder
  dsimp only
  (repeat' split) <;> simp

@[simp] theorem unloadCtx_frame (n : CtxId) (cause : Nat) (err0 : BitVec 256) (err1 : BitVec 256) (s : State) :
    (unloadCtx n cause err0 err1 s).pending = s.pending ∧ (unloadCtx n cause err0 err1 s).flash = s.flash := by
  unfold unloadCtx
  dsimp only
  (repeat' split) <;> simp

@[simp] theorem unloadCtx_memOk (n : CtxId) (cause : Nat) (err0 : BitVec 256) (err1 : BitVec 256) (s : State) (hm : MemOk s.mem) : MemOk (unloadCtx n cause err0 err1 s).mem := by
  unfold unloadCtx
  dsimp only
  (repeat' split) <;> simp [hm]

@[simp] theorem unloadOrder_frame (n : CtxId) (err0 : BitVec 256) (err1 : BitVec 256) (s : State) :
    (unloadOrder n err0 err1 s).2.pending = s.pending ∧ (unloadOrder n err0 err1 s).2.flash = s.flash := by
  unfold unloadOrder
  dsimp only
  (repeat' split) <;> simp

@[simp] theorem unloadOrder_memOk (n : CtxId) (err0 : BitVec 256) (err1 : BitVec 256) (s : State) (hm : MemOk s.mem) : MemOk (unloadOrder n err0 err1 s).2.mem := by
  unfold unloadOrder
  dsimp only
  (repeat' split) <;> simp [hm]

@[simp] theorem restoreShard_frame (n : CtxId) (shard : Nat) (win : Nat) (s : State) :
    (restoreShard n shard win s).2.pending = s.pending ∧ (restoreShard n shard win s).2.flash = s.flash := by
  unfold restoreShard
  dsimp only
  (repeat' split) <;> simp

@[simp] theorem restoreShard_memOk (n : CtxId) (shard : Nat) (win : Nat) (s : State) (hm : MemOk s.mem) : MemOk (restoreShard n shard win s).2.mem := by
  unfold restoreShard
  dsimp only
  (repeat' split) <;> simp [hm]

@[simp] theorem ckptRead_frame (n : CtxId) (shard : Nat) (win : Nat) (s : State) :
    (ckptRead n shard win s).2.pending = s.pending ∧ (ckptRead n shard win s).2.flash = s.flash := by
  unfold ckptRead
  dsimp only
  (repeat' split) <;> simp

@[simp] theorem ckptRead_memOk (n : CtxId) (shard : Nat) (win : Nat) (s : State) (hm : MemOk s.mem) : MemOk (ckptRead n shard win s).2.mem := by
  unfold ckptRead
  dsimp only
  (repeat' split) <;> simp [hm]

/-! ### Machine/Issue.lean -/

@[simp] theorem countShd_frame (n : CtxId) (core : Nat) (f : ShdCnt → ShdCnt) (s : State) :
    (countShd n core f s).pending = s.pending ∧ (countShd n core f s).mem = s.mem ∧ (countShd n core f s).flash = s.flash := by
  unfold countShd
  (repeat' split) <;> simp

@[simp] theorem addChecks_frame (n : CtxId) (r : Run) (s : State) :
    (addChecks n r s).1.pending = s.pending ∧ (addChecks n r s).1.mem = s.mem ∧ (addChecks n r s).1.flash = s.flash := by
  unfold addChecks
  dsimp only
  (repeat' split) <;> simp

@[simp] theorem enterEngine_frame (n : CtxId) (r : Run) (s : State) :
    (enterEngine n r s).pending = s.pending ∧ (enterEngine n r s).mem = s.mem ∧ (enterEngine n r s).flash = s.flash := by
  unfold enterEngine
  dsimp only
  (repeat' split) <;> simp

@[simp] theorem advanceThread_frame (n : CtxId) (thread : Nat) (s : State) :
    (advanceThread n thread s).pending = s.pending ∧ (advanceThread n thread s).mem = s.mem ∧ (advanceThread n thread s).flash = s.flash := by
  unfold advanceThread
  (repeat' split) <;> simp

@[simp] theorem issueHead_frame (n : CtxId) (h : Head) (lent : Bool) (s : State) :
    (issueHead n h lent s).pending = s.pending ∧ (issueHead n h lent s).mem = s.mem ∧ (issueHead n h lent s).flash = s.flash := by
  unfold issueHead
  extract_lets c fault eng r0 r1 x
  refine iteInduction (motive := fun t : State => t.pending = s.pending ∧ t.mem = s.mem ∧ t.flash = s.flash)
    (fun _ => by simp [fault]) (fun _ => ?_)
  clear_value x
  cases x <;> dsimp only <;> (try split) <;> simp [fault]

@[simp] theorem lendSlot_frame (n : CtxId) (core : CoreId) (p i : Nat) (s : State) :
    (lendSlot n core p i s).pending = s.pending ∧ (lendSlot n core p i s).mem = s.mem ∧ (lendSlot n core p i s).flash = s.flash := by
  unfold lendSlot
  (repeat' split) <;> simp

@[simp] theorem execCommandIssue_frame (n : CtxId) (core : CoreId) (eng : Nat) (slot : Nat) (s : State) :
    (outState (execCommandIssue n core eng slot s)).pending = s.pending ∧ (outState (execCommandIssue n core eng slot s)).mem = s.mem ∧ (outState (execCommandIssue n core eng slot s)).flash = s.flash := by
  unfold execCommandIssue
  dsimp only
  (repeat' split) <;> simp

@[simp] theorem execJoin_frame (n : CtxId) (thread : Nat) (cmd : Nat) (s : State) :
    (outState (execJoin n thread cmd s)).pending = s.pending ∧ (outState (execJoin n thread cmd s)).mem = s.mem ∧ (outState (execJoin n thread cmd s)).flash = s.flash := by
  unfold execJoin
  (repeat' split) <;> simp

@[simp] theorem counterFell_frame (n : CtxId) (ctr : Nat) (old : Nat) (new : Nat) (s : State) :
    (counterFell n ctr old new s).pending = s.pending ∧ (counterFell n ctr old new s).mem = s.mem ∧ (counterFell n ctr old new s).flash = s.flash := by
  unfold counterFell
  dsimp only
  (repeat' split) <;> simp [apply_ite State.pending]

@[simp] theorem applySig_frame (n : CtxId) (acc : State × List Nat) (g : SigReq) :
    (applySig n acc g).1.pending = acc.1.pending ∧ (applySig n acc g).1.mem = acc.1.mem ∧
    (applySig n acc g).1.flash = acc.1.flash := by
  unfold applySig
  dsimp only
  (repeat' split) <;> simp

@[simp] theorem applySigs_frame (n : CtxId) (gs : List SigReq) (s : State) :
    (applySigs n gs s).pending = s.pending ∧ (applySigs n gs s).mem = s.mem ∧ (applySigs n gs s).flash = s.flash := by
  unfold applySigs
  have h1 := foldl_fst_pending (applySig n) (fun a x => (applySig_frame n a x).1) gs (s, [])
  have h2 := foldl_fst_mem (applySig n) (fun a x => (applySig_frame n a x).2.1) gs (s, [])
  have h3 := foldl_fst_flash (applySig n) (fun a x => (applySig_frame n a x).2.2) gs (s, [])
  simp [h1, h2, h3]

@[simp] theorem execCommandComplete_frame (n : CtxId) (done : List (Nat × Nat)) (s : State) :
    (outState (execCommandComplete n done s)).pending = s.pending ∧ (outState (execCommandComplete n done s)).mem = s.mem ∧ (outState (execCommandComplete n done s)).flash = s.flash := by
  unfold execCommandComplete
  dsimp only
  (repeat' split) <;> simp

@[simp] theorem countWaits_frame (n : CtxId) (s : State) :
    (countWaits n s).pending = s.pending ∧ (countWaits n s).mem = s.mem ∧ (countWaits n s).flash = s.flash := by
  unfold countWaits
  dsimp only
  (repeat' split) <;> simp

@[simp] theorem countTimeout_frame (n : CtxId) (s : State) :
    (countTimeout n s).pending = s.pending ∧ (countTimeout n s).mem = s.mem ∧ (countTimeout n s).flash = s.flash := by
  unfold countTimeout
  (repeat' split) <;> simp

@[simp] theorem execWaitTimeout_frame (n : CtxId) (thread : Nat) (s : State) :
    (outState (execWaitTimeout n thread s)).pending = s.pending ∧ (outState (execWaitTimeout n thread s)).mem = s.mem ∧ (outState (execWaitTimeout n thread s)).flash = s.flash := by
  unfold execWaitTimeout
  dsimp only
  (repeat' split) <;> simp

end Sys2Proof.Machine
end

