-- ==== Sys2Proof/Laws/FrameEngines.lean ====
section
/-! SUPPORT. What the engines and the checks of Shade leave of the queue, the memory and the flash: each keeps the queue; each keeps the memory and the
flash, or their canonical form. -/

namespace Sys2Proof.Machine

/-! ### Machine/Engines.lean -/

@[simp] theorem countFinal_frame (n : CtxId) (core : CoreId) (s : State) :
    (countFinal n core s).pending = s.pending ∧ (countFinal n core s).mem = s.mem ∧ (countFinal n core s).flash = s.flash := by
  unfold countFinal
  (repeat' split) <;> simp

@[simp] theorem releaseOut_frame (n : CtxId) (r : Run) (eff : Effects) (s : State) :
    (releaseOut n r eff s).pending = s.pending ∧ (releaseOut n r eff s).flash = s.flash := by
  unfold releaseOut
  simp only [withRun, withBanks, orFault]
  (repeat' split) <;> simp

@[simp] theorem releaseOut_memOk (n : CtxId) (r : Run) (eff : Effects) (s : State) (hm : MemOk s.mem) : MemOk (releaseOut n r eff s).mem := by
  unfold releaseOut
  simp only [withRun, withBanks, orFault]
  (repeat' split) <;> simp +contextual [hm]

@[simp] theorem repeatAt_frame (n : CtxId) (r : Run) (sv : Int) (s : State) :
    (repeatAt n r sv s).pending = s.pending ∧ (repeatAt n r sv s).mem = s.mem ∧ (repeatAt n r sv s).flash = s.flash := by
  unfold repeatAt
  dsimp only
  (repeat' split) <;> simp

@[simp] theorem afterJudge_frame (n : CtxId) (r : Run) (j : Judgement) (eff : Effects) (s : State) :
    (afterJudge n r j eff s).pending = s.pending ∧ (afterJudge n r j eff s).flash = s.flash := by
  unfold afterJudge
  dsimp only
  (repeat' split) <;> simp

@[simp] theorem afterJudge_memOk (n : CtxId) (r : Run) (j : Judgement) (eff : Effects) (s : State) (hm : MemOk s.mem) : MemOk (afterJudge n r j eff s).mem := by
  unfold afterJudge
  dsimp only
  (repeat' split) <;> simp [hm]

@[simp] theorem handOver_frame (n : CtxId) (thread : Nat) (cmd : Nat) (s : State) :
    (handOver n thread cmd s).pending = s.pending ∧ (handOver n thread cmd s).mem = s.mem ∧ (handOver n thread cmd s).flash = s.flash := by
  unfold handOver
  dsimp only
  (repeat' split) <;> simp

@[simp] theorem ownPartial_frame (n : CtxId) (r : Run) (p : Partials) (s : State) :
    (ownPartial n r p s).pending = s.pending ∧ (ownPartial n r p s).mem = s.mem ∧ (ownPartial n r p s).flash = s.flash := by
  unfold ownPartial
  (repeat' split) <;> simp

@[simp] theorem products_frame (n : CtxId) (thread : Nat) (cmd : Nat) (op : Nat) (s : State) :
    (products n thread cmd op s).pending = s.pending ∧ (products n thread cmd op s).mem = s.mem ∧ (products n thread cmd op s).flash = s.flash := by
  unfold products
  simp only [withRun, withBanks, orFault]
  (repeat' split) <;> simp

@[simp] theorem execMm_frame (n : CtxId) (thread : Nat) (cmd : Nat) (arb : List BankCycle) (s : State) :
    (outState (execMm n thread cmd arb s)).pending = s.pending ∧ (outState (execMm n thread cmd arb s)).mem = s.mem ∧ (outState (execMm n thread cmd arb s)).flash = s.flash := by
  unfold execMm
  (repeat' split) <;> simp

@[simp] theorem execMmd_frame (n : CtxId) (thread : Nat) (cmd : Nat) (arb : List BankCycle) (s : State) :
    (outState (execMmd n thread cmd arb s)).pending = s.pending ∧ (outState (execMmd n thread cmd arb s)).mem = s.mem ∧ (outState (execMmd n thread cmd arb s)).flash = s.flash := by
  unfold execMmd
  (repeat' split) <;> simp

@[simp] theorem drainTile_frame (n : CtxId) (thread : Nat) (cmd : Nat) (s : State) :
    (drainTile n thread cmd s).pending = s.pending ∧ (drainTile n thread cmd s).flash = s.flash := by
  unfold drainTile
  simp only [withRun, withBanks, orFault]
  (repeat' split) <;> simp

@[simp] theorem drainTile_memOk (n : CtxId) (thread : Nat) (cmd : Nat) (s : State) (hm : MemOk s.mem) : MemOk (drainTile n thread cmd s).mem := by
  unfold drainTile
  simp only [withRun, withBanks, orFault]
  (repeat' split) <;> simp +contextual [hm]

@[simp] theorem execDrain_frame (n : CtxId) (thread : Nat) (cmd : Nat) (arb : List BankCycle) (s : State) :
    (outState (execDrain n thread cmd arb s)).pending = s.pending ∧ (outState (execDrain n thread cmd arb s)).flash = s.flash := by
  unfold execDrain
  (repeat' split) <;> simp

@[simp] theorem execDrain_memOk (n : CtxId) (thread : Nat) (cmd : Nat) (arb : List BankCycle) (s : State) (hm : MemOk s.mem) : MemOk (outState (execDrain n thread cmd arb s)).mem := by
  unfold execDrain
  (repeat' split) <;> simp [hm]

@[simp] theorem execRepeatPass_frame (n : CtxId) (thread : Nat) (cmd : Nat) (s : State) :
    (outState (execRepeatPass n thread cmd s)).pending = s.pending ∧ (outState (execRepeatPass n thread cmd s)).mem = s.mem ∧ (outState (execRepeatPass n thread cmd s)).flash = s.flash := by
  unfold execRepeatPass
  (repeat' split) <;> simp

@[simp] theorem execConvertPass_frame (n : CtxId) (thread : Nat) (cmd : Nat) (s : State) :
    (outState (execConvertPass n thread cmd s)).pending = s.pending ∧ (outState (execConvertPass n thread cmd s)).flash = s.flash := by
  unfold execConvertPass
  simp only [withRun, withBanks, orFault]
  (repeat' split) <;> simp

@[simp] theorem execConvertPass_memOk (n : CtxId) (thread : Nat) (cmd : Nat) (s : State) (hm : MemOk s.mem) : MemOk (outState (execConvertPass n thread cmd s)).mem := by
  unfold execConvertPass
  simp only [withRun, withBanks, orFault]
  (repeat' split) <;> simp +contextual [hm]

@[simp] theorem runEe_frame (n : CtxId) (thread : Nat) (cmd : Nat) (chunks : Option Nat) (s : State) :
    (runEe n thread cmd chunks s).pending = s.pending ∧ (runEe n thread cmd chunks s).flash = s.flash := by
  unfold runEe
  simp only [withRun, withBanks, orFault]
  (repeat' split) <;> simp

@[simp] theorem runEe_memOk (n : CtxId) (thread : Nat) (cmd : Nat) (chunks : Option Nat) (s : State) (hm : MemOk s.mem) : MemOk (runEe n thread cmd chunks s).mem := by
  unfold runEe
  simp only [withRun, withBanks, orFault]
  (repeat' split) <;> simp +contextual [hm]

@[simp] theorem execEp_frame (n : CtxId) (thread : Nat) (cmd : Nat) (chunks : Option Nat) (arb : List BankCycle) (s : State) :
    (outState (execEp n thread cmd chunks arb s)).pending = s.pending ∧ (outState (execEp n thread cmd chunks arb s)).flash = s.flash := by
  unfold execEp
  (repeat' split) <;> simp

@[simp] theorem execEp_memOk (n : CtxId) (thread : Nat) (cmd : Nat) (chunks : Option Nat) (arb : List BankCycle) (s : State) (hm : MemOk s.mem) : MemOk (outState (execEp n thread cmd chunks arb s)).mem := by
  unfold execEp
  (repeat' split) <;> simp [hm]

@[simp] theorem runLe_frame (n : CtxId) (thread : Nat) (cmd : Nat) (op : Nat) (rows : Option Nat) (s : State) :
    (runLe n thread cmd op rows s).pending = s.pending ∧ (runLe n thread cmd op rows s).flash = s.flash := by
  unfold runLe
  simp only [withRun, withBanks, orFault]
  (repeat' split) <;> simp

@[simp] theorem runLe_memOk (n : CtxId) (thread : Nat) (cmd : Nat) (op : Nat) (rows : Option Nat) (s : State) (hm : MemOk s.mem) : MemOk (runLe n thread cmd op rows s).mem := by
  unfold runLe
  simp only [withRun, withBanks, orFault]
  (repeat' split) <;> simp +contextual [hm]

@[simp] theorem execLxpose_frame (n : CtxId) (thread : Nat) (cmd : Nat) (rows : Option Nat) (arb : List BankCycle) (s : State) :
    (outState (execLxpose n thread cmd rows arb s)).pending = s.pending ∧ (outState (execLxpose n thread cmd rows arb s)).flash = s.flash := by
  unfold execLxpose
  (repeat' split) <;> simp

@[simp] theorem execLxpose_memOk (n : CtxId) (thread : Nat) (cmd : Nat) (rows : Option Nat) (arb : List BankCycle) (s : State) (hm : MemOk s.mem) : MemOk (outState (execLxpose n thread cmd rows arb s)).mem := by
  unfold execLxpose
  (repeat' split) <;> simp [hm]

@[simp] theorem execLgather_frame (n : CtxId) (thread : Nat) (cmd : Nat) (rows : Option Nat) (arb : List BankCycle) (s : State) :
    (outState (execLgather n thread cmd rows arb s)).pending = s.pending ∧ (outState (execLgather n thread cmd rows arb s)).flash = s.flash := by
  unfold execLgather
  (repeat' split) <;> simp

@[simp] theorem execLgather_memOk (n : CtxId) (thread : Nat) (cmd : Nat) (rows : Option Nat) (arb : List BankCycle) (s : State) (hm : MemOk s.mem) : MemOk (outState (execLgather n thread cmd rows arb s)).mem := by
  unfold execLgather
  (repeat' split) <;> simp [hm]

@[simp] theorem execLconv_frame (n : CtxId) (thread : Nat) (cmd : Nat) (rows : Option Nat) (arb : List BankCycle) (s : State) :
    (outState (execLconv n thread cmd rows arb s)).pending = s.pending ∧ (outState (execLconv n thread cmd rows arb s)).flash = s.flash := by
  unfold execLconv
  (repeat' split) <;> simp

@[simp] theorem execLconv_memOk (n : CtxId) (thread : Nat) (cmd : Nat) (rows : Option Nat) (arb : List BankCycle) (s : State) (hm : MemOk s.mem) : MemOk (outState (execLconv n thread cmd rows arb s)).mem := by
  unfold execLconv
  (repeat' split) <;> simp [hm]

@[simp] theorem execLseal_frame (n : CtxId) (thread : Nat) (cmd : Nat) (arb : List BankCycle) (s : State) :
    (outState (execLseal n thread cmd arb s)).pending = s.pending ∧ (outState (execLseal n thread cmd arb s)).flash = s.flash := by
  unfold execLseal
  (repeat' split) <;> simp

@[simp] theorem execLseal_memOk (n : CtxId) (thread : Nat) (cmd : Nat) (arb : List BankCycle) (s : State) (hm : MemOk s.mem) : MemOk (outState (execLseal n thread cmd arb s)).mem := by
  unfold execLseal
  (repeat' split) <;> simp [hm]

@[simp] theorem writeCtr_frame (n : CtxId) (r : Run) (isSettled : Bool) (s : State) :
    (writeCtr n r isSettled s).pending = s.pending ∧ (writeCtr n r isSettled s).flash = s.flash := by
  unfold writeCtr
  (repeat' split) <;> simp

@[simp] theorem writeCtr_memOk (n : CtxId) (r : Run) (isSettled : Bool) (s : State) (hm : MemOk s.mem) : MemOk (writeCtr n r isSettled s).mem := by
  unfold writeCtr
  (repeat' split) <;> simp [hm]

@[simp] theorem runLctr_frame (n : CtxId) (thread : Nat) (cmd : Nat) (lentToo : Bool) (s : State) :
    (runLctr n thread cmd lentToo s).pending = s.pending ∧ (runLctr n thread cmd lentToo s).flash = s.flash := by
  unfold runLctr
  simp [apply_ite State.pending, apply_ite State.mem, apply_ite State.flash]

@[simp] theorem runLctr_memOk (n : CtxId) (thread : Nat) (cmd : Nat) (lentToo : Bool) (s : State) (hm : MemOk s.mem) : MemOk (runLctr n thread cmd lentToo s).mem := by
  unfold runLctr
  simp only [withRun, withBanks, orFault]
  (repeat' split) <;> simp +contextual [hm]

@[simp] theorem execLctr_frame (n : CtxId) (thread : Nat) (cmd : Nat) (arb : List BankCycle) (s : State) :
    (outState (execLctr n thread cmd arb s)).pending = s.pending ∧ (outState (execLctr n thread cmd arb s)).flash = s.flash := by
  unfold execLctr
  (repeat' split) <;> simp

@[simp] theorem execLctr_memOk (n : CtxId) (thread : Nat) (cmd : Nat) (arb : List BankCycle) (s : State) (hm : MemOk s.mem) : MemOk (outState (execLctr n thread cmd arb s)).mem := by
  unfold execLctr
  (repeat' split) <;> simp [hm]

@[simp] theorem execCounterSettled_frame (n : CtxId) (thread : Nat) (cmd : Nat) (s : State) :
    (outState (execCounterSettled n thread cmd s)).pending = s.pending ∧ (outState (execCounterSettled n thread cmd s)).flash = s.flash := by
  unfold execCounterSettled
  (repeat' split) <;> simp

@[simp] theorem execCounterSettled_memOk (n : CtxId) (thread : Nat) (cmd : Nat) (s : State) (hm : MemOk s.mem) : MemOk (outState (execCounterSettled n thread cmd s)).mem := by
  unfold execCounterSettled
  (repeat' split) <;> simp [hm]

@[simp] theorem reSolo_frame (n : CtxId) (r : Run) (o : ReOps) (tap : Sq) (s : State) :
    (reSolo n r o tap s).pending = s.pending ∧ (reSolo n r o tap s).flash = s.flash := by
  unfold reSolo
  dsimp only
  (repeat' split) <;> simp

@[simp] theorem reSolo_memOk (n : CtxId) (r : Run) (o : ReOps) (tap : Sq) (s : State) (hm : MemOk s.mem) : MemOk (reSolo n r o tap s).mem := by
  unfold reSolo
  dsimp only
  (repeat' split) <;> simp [hm]

@[simp] theorem reLast_frame (n : CtxId) (r : Run) (o : ReOps) (s : State) :
    (reLast n r o s).pending = s.pending ∧ (reLast n r o s).flash = s.flash := by
  unfold reLast
  (repeat' split) <;> simp

@[simp] theorem reLast_memOk (n : CtxId) (r : Run) (o : ReOps) (s : State) (hm : MemOk s.mem) : MemOk (reLast n r o s).mem := by
  unfold reLast
  (repeat' split) <;> simp [hm]

@[simp] theorem runRe_frame (n : CtxId) (thread : Nat) (cmd : Nat) (op : Nat) (s : State) :
    (runRe n thread cmd op s).pending = s.pending ∧ (runRe n thread cmd op s).flash = s.flash := by
  unfold runRe
  simp only [withRun, withBanks, orFault]
  (repeat' split) <;> simp

@[simp] theorem runRe_memOk (n : CtxId) (thread : Nat) (cmd : Nat) (op : Nat) (s : State) (hm : MemOk s.mem) : MemOk (runRe n thread cmd op s).mem := by
  unfold runRe
  simp only [withRun, withBanks, orFault]
  (repeat' split) <;> simp +contextual [hm]

@[simp] theorem execRsum_frame (n : CtxId) (thread : Nat) (cmd : Nat) (arb : List BankCycle) (s : State) :
    (outState (execRsum n thread cmd arb s)).pending = s.pending ∧ (outState (execRsum n thread cmd arb s)).flash = s.flash := by
  unfold execRsum
  (repeat' split) <;> simp

@[simp] theorem execRsum_memOk (n : CtxId) (thread : Nat) (cmd : Nat) (arb : List BankCycle) (s : State) (hm : MemOk s.mem) : MemOk (outState (execRsum n thread cmd arb s)).mem := by
  unfold execRsum
  (repeat' split) <;> simp [hm]

@[simp] theorem execRssq_frame (n : CtxId) (thread : Nat) (cmd : Nat) (arb : List BankCycle) (s : State) :
    (outState (execRssq n thread cmd arb s)).pending = s.pending ∧ (outState (execRssq n thread cmd arb s)).flash = s.flash := by
  unfold execRssq
  (repeat' split) <;> simp

@[simp] theorem execRssq_memOk (n : CtxId) (thread : Nat) (cmd : Nat) (arb : List BankCycle) (s : State) (hm : MemOk s.mem) : MemOk (outState (execRssq n thread cmd arb s)).mem := by
  unfold execRssq
  (repeat' split) <;> simp [hm]

@[simp] theorem execTopk_frame (n : CtxId) (thread : Nat) (cmd : Nat) (arb : List BankCycle) (s : State) :
    (outState (execTopk n thread cmd arb s)).pending = s.pending ∧ (outState (execTopk n thread cmd arb s)).flash = s.flash := by
  unfold execTopk
  (repeat' split) <;> simp

@[simp] theorem execTopk_memOk (n : CtxId) (thread : Nat) (cmd : Nat) (arb : List BankCycle) (s : State) (hm : MemOk s.mem) : MemOk (outState (execTopk n thread cmd arb s)).mem := by
  unfold execTopk
  (repeat' split) <;> simp [hm]

@[simp] theorem execTopkm_frame (n : CtxId) (thread : Nat) (cmd : Nat) (arb : List BankCycle) (s : State) :
    (outState (execTopkm n thread cmd arb s)).pending = s.pending ∧ (outState (execTopkm n thread cmd arb s)).flash = s.flash := by
  unfold execTopkm
  (repeat' split) <;> simp

@[simp] theorem execTopkm_memOk (n : CtxId) (thread : Nat) (cmd : Nat) (arb : List BankCycle) (s : State) (hm : MemOk s.mem) : MemOk (outState (execTopkm n thread cmd arb s)).mem := by
  unfold execTopkm
  (repeat' split) <;> simp [hm]

@[simp] theorem execXidx_frame (n : CtxId) (thread : Nat) (cmd : Nat) (arb : List BankCycle) (s : State) :
    (outState (execXidx n thread cmd arb s)).pending = s.pending ∧ (outState (execXidx n thread cmd arb s)).flash = s.flash := by
  unfold execXidx
  (repeat' split) <;> simp

@[simp] theorem execXidx_memOk (n : CtxId) (thread : Nat) (cmd : Nat) (arb : List BankCycle) (s : State) (hm : MemOk s.mem) : MemOk (outState (execXidx n thread cmd arb s)).mem := by
  unfold execXidx
  (repeat' split) <;> simp [hm]

@[simp] theorem execCnt_frame (n : CtxId) (thread : Nat) (cmd : Nat) (arb : List BankCycle) (s : State) :
    (outState (execCnt n thread cmd arb s)).pending = s.pending ∧ (outState (execCnt n thread cmd arb s)).flash = s.flash := by
  unfold execCnt
  (repeat' split) <;> simp

@[simp] theorem execCnt_memOk (n : CtxId) (thread : Nat) (cmd : Nat) (arb : List BankCycle) (s : State) (hm : MemOk s.mem) : MemOk (outState (execCnt n thread cmd arb s)).mem := by
  unfold execCnt
  (repeat' split) <;> simp [hm]

@[simp] theorem execBand_frame (n : CtxId) (thread : Nat) (cmd : Nat) (arb : List BankCycle) (s : State) :
    (outState (execBand n thread cmd arb s)).pending = s.pending ∧ (outState (execBand n thread cmd arb s)).flash = s.flash := by
  unfold execBand
  (repeat' split) <;> simp

@[simp] theorem execBand_memOk (n : CtxId) (thread : Nat) (cmd : Nat) (arb : List BankCycle) (s : State) (hm : MemOk s.mem) : MemOk (outState (execBand n thread cmd arb s)).mem := by
  unfold execBand
  (repeat' split) <;> simp [hm]

@[simp] theorem execBor_frame (n : CtxId) (thread : Nat) (cmd : Nat) (arb : List BankCycle) (s : State) :
    (outState (execBor n thread cmd arb s)).pending = s.pending ∧ (outState (execBor n thread cmd arb s)).flash = s.flash := by
  unfold execBor
  (repeat' split) <;> simp

@[simp] theorem execBor_memOk (n : CtxId) (thread : Nat) (cmd : Nat) (arb : List BankCycle) (s : State) (hm : MemOk s.mem) : MemOk (outState (execBor n thread cmd arb s)).mem := by
  unfold execBor
  (repeat' split) <;> simp [hm]

@[simp] theorem execBxor_frame (n : CtxId) (thread : Nat) (cmd : Nat) (arb : List BankCycle) (s : State) :
    (outState (execBxor n thread cmd arb s)).pending = s.pending ∧ (outState (execBxor n thread cmd arb s)).flash = s.flash := by
  unfold execBxor
  (repeat' split) <;> simp

@[simp] theorem execBxor_memOk (n : CtxId) (thread : Nat) (cmd : Nat) (arb : List BankCycle) (s : State) (hm : MemOk s.mem) : MemOk (outState (execBxor n thread cmd arb s)).mem := by
  unfold execBxor
  (repeat' split) <;> simp [hm]

@[simp] theorem execTapx_frame (n : CtxId) (thread : Nat) (cmd : Nat) (arb : List BankCycle) (s : State) :
    (outState (execTapx n thread cmd arb s)).pending = s.pending ∧ (outState (execTapx n thread cmd arb s)).flash = s.flash := by
  unfold execTapx
  (repeat' split) <;> simp

@[simp] theorem execTapx_memOk (n : CtxId) (thread : Nat) (cmd : Nat) (arb : List BankCycle) (s : State) (hm : MemOk s.mem) : MemOk (outState (execTapx n thread cmd arb s)).mem := by
  unfold execTapx
  (repeat' split) <;> simp [hm]

@[simp] theorem takeRow_frame (n : CtxId) (e : ChainEnt) (r : Run) (row : Nat) (q : Partials) (sIn : List Int) (s : State) :
    (takeRow n e r row q sIn s).pending = s.pending ∧ (takeRow n e r row q sIn s).mem = s.mem ∧ (takeRow n e r row q sIn s).flash = s.flash := by
  unfold takeRow
  (repeat' split) <;> simp

@[simp] theorem strayRow_frame (n : CtxId) (g : RowTags) (s : State) :
    (strayRow n g s).pending = s.pending ∧ (strayRow n g s).mem = s.mem ∧ (strayRow n g s).flash = s.flash := by
  unfold strayRow
  (repeat' split) <;> simp

@[simp] theorem rowsTaken_frame (n : CtxId) (p : Run) (r : Run) (s : State) :
    (rowsTaken n p r s).pending = s.pending ∧ (rowsTaken n p r s).mem = s.mem ∧ (rowsTaken n p r s).flash = s.flash := by
  unfold rowsTaken
  dsimp only
  (repeat' split) <;> simp

@[simp] theorem execPartialRow_frame (n : CtxId) (g : RowTags) (ue : Bool) (s : State) :
    (outState (execPartialRow n g ue s)).pending = s.pending ∧ (outState (execPartialRow n g ue s)).mem = s.mem ∧ (outState (execPartialRow n g ue s)).flash = s.flash := by
  unfold execPartialRow
  dsimp only
  (repeat' split) <;> simp

@[simp] theorem execHeaderWord_frame (n : CtxId) (chain : Nat) (stage : Nat) (s : State) :
    (outState (execHeaderWord n chain stage s)).pending = s.pending ∧ (outState (execHeaderWord n chain stage s)).mem = s.mem ∧ (outState (execHeaderWord n chain stage s)).flash = s.flash := by
  unfold execHeaderWord
  simp only [withRun, withBanks, orFault]
  (repeat' split) <;> simp

@[simp] theorem execReturnWord_frame (n : CtxId) (chain : Nat) (stage : Nat) (s : State) :
    (outState (execReturnWord n chain stage s)).pending = s.pending ∧ (outState (execReturnWord n chain stage s)).flash = s.flash := by
  unfold execReturnWord
  simp only [withRun, withBanks, orFault]
  (repeat' split) <;> simp

@[simp] theorem execReturnWord_memOk (n : CtxId) (chain : Nat) (stage : Nat) (s : State) (hm : MemOk s.mem) : MemOk (outState (execReturnWord n chain stage s)).mem := by
  unfold execReturnWord
  simp only [withRun, withBanks, orFault]
  (repeat' split) <;> simp +contextual [hm]

/-! ### Machine/Shade.lean -/

@[simp] theorem countMism_frame (n : CtxId) (r : Run) (k : Check) (s : State) :
    (countMism n r k s).pending = s.pending ∧ (countMism n r k s).mem = s.mem ∧ (countMism n r k s).flash = s.flash := by
  unfold countMism
  (repeat' split) <;> simp

@[simp] theorem execShadeCompare_frame (n : CtxId) (thread : Nat) (cmd : Nat) (err : BitVec 128) (errS : Int) (s : State) :
    (outState (execShadeCompare n thread cmd err errS s)).pending = s.pending ∧ (outState (execShadeCompare n thread cmd err errS s)).mem = s.mem ∧ (outState (execShadeCompare n thread cmd err errS s)).flash = s.flash := by
  unfold execShadeCompare
  simp only [withRun, withBanks, orFault]
  (repeat' split) <;> simp

@[simp] theorem mirrorExec_frame (s : State) (n : CtxId) (r : Run) (k : Check) :
    (mirrorExec s n r k).1.pending = s.pending ∧ (mirrorExec s n r k).1.flash = s.flash := by
  unfold mirrorExec
  dsimp only
  (repeat' split) <;> simp

@[simp] theorem mirrorExec_memOk (s : State) (n : CtxId) (r : Run) (k : Check) (hm : MemOk s.mem) : MemOk (mirrorExec s n r k).1.mem := by
  unfold mirrorExec
  split
  · exact hm
  · dsimp only
    (repeat' split) <;> simp [hm]

@[simp] theorem execMirrorCompare_frame (n : CtxId) (thread : Nat) (cmd : Nat) (err : BitVec 128) (s : State) :
    (outState (execMirrorCompare n thread cmd err s)).pending = s.pending ∧ (outState (execMirrorCompare n thread cmd err s)).flash = s.flash := by
  unfold execMirrorCompare
  simp only [withRun, withBanks, orFault]
  (repeat' split) <;> simp

@[simp] theorem execMirrorCompare_memOk (n : CtxId) (thread : Nat) (cmd : Nat) (err : BitVec 128) (s : State) (hm : MemOk s.mem) : MemOk (outState (execMirrorCompare n thread cmd err s)).mem := by
  unfold execMirrorCompare
  simp only [withRun, withBanks, orFault]
  (repeat' split) <;> simp +contextual [hm]

@[simp] theorem releaseHeld_frame (n : CtxId) (r : Run) (s : State) :
    (releaseHeld n r s).pending = s.pending ∧ (releaseHeld n r s).flash = s.flash := by
  unfold releaseHeld
  (repeat' split) <;> simp

@[simp] theorem releaseHeld_memOk (n : CtxId) (r : Run) (s : State) (hm : MemOk s.mem) : MemOk (releaseHeld n r s).mem := by
  unfold releaseHeld
  (repeat' split) <;> simp [hm]

@[simp] theorem execFinalStageCheck_frame (n : CtxId) (thread : Nat) (cmd : Nat) (err : BitVec 128) (errS : Int) (s : State) :
    (outState (execFinalStageCheck n thread cmd err errS s)).pending = s.pending ∧ (outState (execFinalStageCheck n thread cmd err errS s)).flash = s.flash := by
  unfold execFinalStageCheck
  simp only [withRun, withBanks, orFault]
  (repeat' split) <;> simp

@[simp] theorem execFinalStageCheck_memOk (n : CtxId) (thread : Nat) (cmd : Nat) (err : BitVec 128) (errS : Int) (s : State) (hm : MemOk s.mem) : MemOk (outState (execFinalStageCheck n thread cmd err errS s)).mem := by
  unfold execFinalStageCheck
  simp only [withRun, withBanks, orFault]
  (repeat' split) <;> simp +contextual [hm]

@[simp] theorem quarantineCore_frame (core : CoreId) (cause : Nat) (s : State) :
    (quarantineCore core cause s).pending = s.pending ∧ (quarantineCore core cause s).flash = s.flash := by
  unfold quarantineCore
  simp [apply_ite State.pending, apply_ite State.mem, apply_ite State.flash]

@[simp] theorem quarantineCore_memOk (core : CoreId) (cause : Nat) (s : State) (hm : MemOk s.mem) : MemOk (quarantineCore core cause s).mem := by
  unfold quarantineCore
  dsimp only
  (repeat' split) <;> simp +contextual [hm, apply_ite MemOk, apply_ite FlashOk, apply_ite State.mem, apply_ite State.flash]

@[simp] theorem cmdVerdict_frame (n : CtxId) (cause : Nat) (r : Run) (k : Check) (third : Option (BitVec 128)) (s : State) :
    (cmdVerdict n cause r k third s).pending = s.pending ∧ (cmdVerdict n cause r k third s).flash = s.flash := by
  unfold cmdVerdict
  dsimp only
  (repeat' split) <;> simp

@[simp] theorem cmdVerdict_memOk (n : CtxId) (cause : Nat) (r : Run) (k : Check) (third : Option (BitVec 128)) (s : State) (hm : MemOk s.mem) : MemOk (cmdVerdict n cause r k third s).mem := by
  unfold cmdVerdict
  dsimp only
  (repeat' split) <;> simp [hm]

@[simp] theorem execVerdict_frame (n : CtxId) (subject : Subject) (third : Option (BitVec 128)) (s : State) :
    (outState (execVerdict n subject third s)).pending = s.pending ∧ (outState (execVerdict n subject third s)).flash = s.flash := by
  unfold execVerdict
  (repeat' split) <;> simp

@[simp] theorem execVerdict_memOk (n : CtxId) (subject : Subject) (third : Option (BitVec 128)) (s : State) (hm : MemOk s.mem) : MemOk (outState (execVerdict n subject third s)).mem := by
  unfold execVerdict
  (repeat' split) <;> simp [hm]

end Sys2Proof.Machine
end

