-- ==== Sys2Proof/Laws/FrameClock.lean ====
section
/-! SUPPORT. What Indigo time and the fabric leave of the queue, the memory and the flash: each keeps the queue; each keeps the memory and the
flash, or their canonical form. -/

namespace Sys2Proof.Machine

/-! ### Machine/Indigo.lean -/

@[simp] theorem advanceTo_frame (t : Nat) (s : State) :
    (advanceTo t s).pending = s.pending ∧ (advanceTo t s).mem = s.mem ∧ (advanceTo t s).flash = s.flash := by
  unfold advanceTo
  (repeat' split) <;> simp

@[simp] theorem requestStretch_frame (g : FrameNo) (late : Nat) (cause : Nat) (s : State) :
    (requestStretch g late cause s).pending = s.pending ∧ (requestStretch g late cause s).mem = s.mem ∧ (requestStretch g late cause s).flash = s.flash := by
  unfold requestStretch
  (repeat' split) <;> simp

@[simp] theorem execStretchRequest_frame (frame : Nat) (lateness : Nat) (cause : BitVec 5) (s : State) :
    (outState (execStretchRequest frame lateness cause s)).pending = s.pending ∧ (outState (execStretchRequest frame lateness cause s)).mem = s.mem ∧ (outState (execStretchRequest frame lateness cause s)).flash = s.flash := by
  unfold execStretchRequest
  (repeat' split) <;> simp

@[simp] theorem freezeFrame_frame (g : FrameNo) (s : State) :
    (freezeFrame g s).pending = s.pending ∧ (freezeFrame g s).mem = s.mem ∧ (freezeFrame g s).flash = s.flash := by
  unfold freezeFrame
  (repeat' split) <;> simp

@[simp] theorem execStretchFreeze_frame (frame : Nat) (s : State) :
    (outState (execStretchFreeze frame s)).pending = s.pending ∧ (outState (execStretchFreeze frame s)).mem = s.mem ∧ (outState (execStretchFreeze frame s)).flash = s.flash := by
  unfold execStretchFreeze
  (repeat' split) <;> simp

@[simp] theorem setParent_frame (p : Option PortId) (s : State) :
    (setParent p s).pending = s.pending ∧ (setParent p s).mem = s.mem ∧ (setParent p s).flash = s.flash := by
  unfold setParent
  (repeat' split) <;> simp

@[simp] theorem horizonCtx_frame (s : State) (n : CtxId) :
    (horizonCtx s n).pending = s.pending ∧ (horizonCtx s n).mem = s.mem ∧ (horizonCtx s n).flash = s.flash := by
  unfold horizonCtx
  (repeat' split) <;> simp

@[simp] theorem execVerdictHorizon_frame (n : CtxId) (s : State) :
    (outState (execVerdictHorizon n s)).pending = s.pending ∧ (outState (execVerdictHorizon n s)).mem = s.mem ∧ (outState (execVerdictHorizon n s)).flash = s.flash := by
  unfold execVerdictHorizon
  (repeat' split) <;> simp

@[simp] theorem voteCtx_frame (s : State) (n : CtxId) :
    (voteCtx s n).pending = s.pending ∧ (voteCtx s n).mem = s.mem ∧ (voteCtx s n).flash = s.flash := by
  unfold voteCtx
  dsimp only
  (repeat' split) <;> simp

@[simp] theorem forceSlower_frame (s : State) :
    (forceSlower s).pending = s.pending ∧ (forceSlower s).mem = s.mem ∧ (forceSlower s).flash = s.flash := by
  unfold forceSlower
  (repeat' split) <;> simp

@[simp] theorem rootCondemn_frame (s : State) (n : CtxId) :
    (rootCondemn s n).pending = s.pending ∧ (rootCondemn s n).mem = s.mem ∧ (rootCondemn s n).flash = s.flash := by
  unfold rootCondemn
  dsimp only
  (repeat' split) <;> simp

@[simp] theorem followRoot_frame (dev : Nat) (s : State) :
    (followRoot dev s).pending = s.pending ∧ (followRoot dev s).mem = s.mem ∧ (followRoot dev s).flash = s.flash := by
  unfold followRoot
  dsimp only
  (repeat' split) <;> simp

@[simp] theorem takeAnnounced_frame (s : State) :
    (takeAnnounced s).pending = s.pending ∧ (takeAnnounced s).mem = s.mem ∧ (takeAnnounced s).flash = s.flash := by
  unfold takeAnnounced
  dsimp only
  (repeat' split) <;> simp

@[simp] theorem execRootLost_frame (s : State) :
    (outState (execRootLost s)).pending = s.pending ∧ (outState (execRootLost s)).mem = s.mem ∧ (outState (execRootLost s)).flash = s.flash := by
  unfold execRootLost
  (repeat' split) <;> simp

@[simp] theorem execRootTakeover_frame (s : State) :
    (outState (execRootTakeover s)).pending = s.pending ∧ (outState (execRootTakeover s)).mem = s.mem ∧ (outState (execRootTakeover s)).flash = s.flash := by
  unfold execRootTakeover
  dsimp only
  (repeat' split) <;> simp

@[simp] theorem servo_frame (s : State) :
    (servo s).pending = s.pending ∧ (servo s).mem = s.mem ∧ (servo s).flash = s.flash := by
  unfold servo
  extract_lets
  refine iteInduction (motive := fun t : State => t.pending = s.pending ∧ t.mem = s.mem ∧ t.flash = s.flash)
    (fun _ => ?_) (fun _ => ⟨rfl, rfl, rfl⟩)
  rw [(setParent_frame _ _).1, (setParent_frame _ _).2.1, (setParent_frame _ _).2.2]
  exact ⟨rfl, rfl, rfl⟩

@[simp] theorem finishExit_frame (s : State) :
    (finishExit s).pending = s.pending ∧ (finishExit s).mem = s.mem ∧ (finishExit s).flash = s.flash := by
  unfold finishExit
  (repeat' split) <;> simp

@[simp] theorem execFrameStart_frame (hbm : List Int) (ddr : List Int) (refA : BitVec 16) (refB : BitVec 16) (s : State) :
    (outState (execFrameStart hbm ddr refA refB s)).pending = s.pending ∧ (outState (execFrameStart hbm ddr refA refB s)).mem = s.mem ∧ (outState (execFrameStart hbm ddr refA refB s)).flash = s.flash := by
  unfold execFrameStart
  dsimp only
  (repeat' split) <;> simp

@[simp] theorem execEpochStart_frame (s : State) :
    (outState (execEpochStart s)).pending = s.pending ∧ (outState (execEpochStart s)).mem = s.mem ∧ (outState (execEpochStart s)).flash = s.flash := by
  unfold execEpochStart
  dsimp only
  (repeat' split) <;> simp

@[simp] theorem execCadenceDecision_frame (s : State) :
    (outState (execCadenceDecision s)).pending = s.pending ∧ (outState (execCadenceDecision s)).mem = s.mem ∧ (outState (execCadenceDecision s)).flash = s.flash := by
  unfold execCadenceDecision
  (repeat' split) <;> simp

@[simp] theorem execCadNextFix_frame (s : State) :
    (outState (execCadNextFix s)).pending = s.pending ∧ (outState (execCadNextFix s)).mem = s.mem ∧ (outState (execCadNextFix s)).flash = s.flash := by
  unfold execCadNextFix
  (repeat' split) <;> simp

@[simp] theorem execCadNextDefault_frame (s : State) :
    (outState (execCadNextDefault s)).pending = s.pending ∧ (outState (execCadNextDefault s)).mem = s.mem ∧ (outState (execCadNextDefault s)).flash = s.flash := by
  unfold execCadNextDefault
  dsimp only
  (repeat' split) <;> simp

@[simp] theorem execEnterLocked_frame (s : State) :
    (outState (execEnterLocked s)).pending = s.pending ∧ (outState (execEnterLocked s)).mem = s.mem ∧ (outState (execEnterLocked s)).flash = s.flash := by
  unfold execEnterLocked
  (repeat' split) <;> simp

@[simp] theorem execReparent_frame (s : State) :
    (outState (execReparent s)).pending = s.pending ∧ (outState (execReparent s)).mem = s.mem ∧ (outState (execReparent s)).flash = s.flash := by
  unfold execReparent
  dsimp only
  (repeat' split) <;> simp

@[simp] theorem enterLost_frame (s : State) :
    (enterLost s).pending = s.pending ∧ (enterLost s).mem = s.mem ∧ (enterLost s).flash = s.flash := by
  unfold enterLost
  (repeat' split) <;> simp

@[simp] theorem execEnterLost_frame (s : State) :
    (outState (execEnterLost s)).pending = s.pending ∧ (outState (execEnterLost s)).mem = s.mem ∧ (outState (execEnterLost s)).flash = s.flash := by
  unfold execEnterLost
  dsimp only
  (repeat' split) <;> simp

@[simp] theorem execRefFault_frame (f : RefFault) (s : State) :
    (outState (execRefFault f s)).pending = s.pending ∧ (outState (execRefFault f s)).mem = s.mem ∧ (outState (execRefFault f s)).flash = s.flash := by
  unfold execRefFault
  dsimp only
  (repeat' split) <;> simp

@[simp] theorem execPtpMessage_frame (offset : Word) (valid : Bool) (s : State) :
    (outState (execPtpMessage offset valid s)).pending = s.pending ∧ (outState (execPtpMessage offset valid s)).mem = s.mem ∧ (outState (execPtpMessage offset valid s)).flash = s.flash := by
  unfold execPtpMessage
  (repeat' split) <;> simp

@[simp] theorem execAlarm_frame (s : State) :
    (outState (execAlarm s)).pending = s.pending ∧ (outState (execAlarm s)).mem = s.mem ∧ (outState (execAlarm s)).flash = s.flash := by
  unfold execAlarm
  (repeat' split) <;> simp

/-! ### Machine/Fabric.lean -/

@[simp] theorem putCell_frame (p : PortId) (dst : Nat × Nat) (slotZero : Bool) (ws : List Word) (s : State) :
    (putCell p dst slotZero ws s).pending = s.pending ∧ (putCell p dst slotZero ws s).mem = s.mem ∧ (putCell p dst slotZero ws s).flash = s.flash := by
  unfold putCell
  (repeat' split) <;> simp

@[simp] theorem sendFiller_frame (p : PortId) (t : Nat) (slotZero : Bool) (s : State) :
    (sendFiller p t slotZero s).pending = s.pending ∧ (sendFiller p t slotZero s).mem = s.mem ∧ (sendFiller p t slotZero s).flash = s.flash := by
  unfold sendFiller
  (repeat' split) <;> simp

@[simp] theorem sendData_frame (p : PortId) (t : Nat) (k : Nat) (ref : CellRef) (body : List Word) (origin : Option (Nat × FrameNo × Nat)) (fails : Nat) (s : State) :
    (sendData p t k ref body origin fails s).pending = s.pending ∧ (sendData p t k ref body origin fails s).mem = s.mem ∧ (sendData p t k ref body origin fails s).flash = s.flash := by
  unfold sendData
  (repeat' split) <;> simp

@[simp] theorem sendReady_frame (p : PortId) (t : Nat) (k : Nat) (x : Ready) (s : State) :
    (sendReady p t k x s).pending = s.pending ∧ (sendReady p t k x s).mem = s.mem ∧ (sendReady p t k x s).flash = s.flash := by
  unfold sendReady
  dsimp only
  (repeat' split) <;> simp

@[simp] theorem resendCell_frame (p : PortId) (t : Nat) (k : Nat) (x : SentCell) (s : State) :
    (resendCell p t k x s).pending = s.pending ∧ (resendCell p t k x s).mem = s.mem ∧ (resendCell p t k x s).flash = s.flash := by
  unfold resendCell
  (repeat' split) <;> simp

@[simp] theorem carryRequest_frame (p : PortId) (k : Nat) (s : State) :
    (carryRequest p k s).pending = s.pending ∧ (carryRequest p k s).mem = s.mem ∧ (carryRequest p k s).flash = s.flash := by
  unfold carryRequest
  dsimp only
  (repeat' split) <;> simp

@[simp] theorem sendSlot_frame (p : PortId) (t : Nat) (k : Nat) (s : State) :
    (sendSlot p t k s).pending = s.pending ∧ (sendSlot p t k s).mem = s.mem ∧ (sendSlot p t k s).flash = s.flash := by
  unfold sendSlot
  dsimp only
  (repeat' split) <;> simp

@[simp] theorem checkServes_frame (p : PortId) (at_ : Nat) (s : State) :
    (checkServes p at_ s).pending = s.pending ∧ (checkServes p at_ s).mem = s.mem ∧ (checkServes p at_ s).flash = s.flash := by
  unfold checkServes
  (repeat' split) <;> simp

@[simp] theorem execCellSend_frame (p : PortId) (s : State) :
    (outState (execCellSend p s)).pending = s.pending ∧ (outState (execCellSend p s)).mem = s.mem ∧ (outState (execCellSend p s)).flash = s.flash := by
  unfold execCellSend
  dsimp only
  (repeat' split) <;> simp

@[simp] theorem execResend_frame (p : PortId) (frame : Nat) (slot : Nat) (s : State) :
    (outState (execResend p frame slot s)).pending = s.pending ∧ (outState (execResend p frame slot s)).mem = s.mem ∧ (outState (execResend p frame slot s)).flash = s.flash := by
  unfold execResend
  dsimp only
  (repeat' split) <;> simp

@[simp] theorem failHalt_frame (s : State) (n : CtxId) :
    (failHalt s n).pending = s.pending ∧ (failHalt s n).mem = s.mem ∧ (failHalt s n).flash = s.flash := by
  unfold failHalt
  (repeat' split) <;> simp

@[simp] theorem execLinkFail_frame (p : PortId) (frame : Nat) (slot : Nat) (s : State) :
    (outState (execLinkFail p frame slot s)).pending = s.pending ∧ (outState (execLinkFail p frame slot s)).mem = s.mem ∧ (outState (execLinkFail p frame slot s)).flash = s.flash := by
  unfold execLinkFail
  (repeat' split) <;> simp [apply_ite State.pending, apply_ite State.mem, apply_ite State.flash]

@[simp] theorem execLinkUp_frame (p : PortId) (mode : BitVec 2) (delay : Nat) (s : State) :
    (outState (execLinkUp p mode delay s)).pending = s.pending ∧ (outState (execLinkUp p mode delay s)).mem = s.mem ∧ (outState (execLinkUp p mode delay s)).flash = s.flash := by
  unfold execLinkUp
  dsimp only
  (repeat' split) <;> simp

@[simp] theorem execLinkDown_frame (p : PortId) (s : State) :
    (outState (execLinkDown p s)).pending = s.pending ∧ (outState (execLinkDown p s)).mem = s.mem ∧ (outState (execLinkDown p s)).flash = s.flash := by
  unfold execLinkDown
  (repeat' split) <;> simp

theorem serveBytes_kept (n : CtxId) (w : WinDecl) (s t : State) (h : serveBytes n w s = .ok t) : Kept s t := by
  obtain ⟨a, ha, h⟩ := bind_ok h
  exact writeRef_kept _ _ _ _ _ _ h

@[simp] theorem execServeLocal_frame (n : CtxId) (win : Nat) (s : State) :
    (outState (execServeLocal n win s)).pending = s.pending ∧ (outState (execServeLocal n win s)).flash = s.flash := by
  unfold execServeLocal
  dsimp only
  repeat' split
  all_goals first
    | (simp; done)
    | (have k := serveBytes_kept _ _ _ _ ‹serveBytes _ _ _ = .ok _›; simp [k.1, k.2.1]; done)

@[simp] theorem execServeLocal_memOk (n : CtxId) (win : Nat) (s : State) (hm : MemOk s.mem) : MemOk (outState (execServeLocal n win s)).mem := by
  unfold execServeLocal
  dsimp only
  repeat' split
  all_goals first
    | (simp [hm]; done)
    | (have k := serveBytes_kept _ _ _ _ ‹serveBytes _ _ _ = .ok _›; simp [k.2.2 hm]; done)

@[simp] theorem execPlanCompute_frame (n : CtxId) (err0 : BitVec 256) (err1 : BitVec 256) (third : Option (BitVec 256 × Nat)) (s : State) :
    (outState (execPlanCompute n err0 err1 third s)).pending = s.pending ∧ (outState (execPlanCompute n err0 err1 third s)).mem = s.mem ∧ (outState (execPlanCompute n err0 err1 third s)).flash = s.flash := by
  unfold execPlanCompute
  dsimp only
  (repeat' split) <;> simp

/-! ### Machine/Receive.lean -/

@[simp] theorem oweNak_frame (p : PortId) (rx : RxCell) (s : State) :
    (oweNak p rx s).pending = s.pending ∧ (oweNak p rx s).mem = s.mem ∧ (oweNak p rx s).flash = s.flash := by
  unfold oweNak
  (repeat' split) <;> simp

@[simp] theorem takeStretch_frame (field : Nat) (s : State) :
    (takeStretch field s).pending = s.pending ∧ (takeStretch field s).mem = s.mem ∧ (takeStretch field s).flash = s.flash := by
  unfold takeStretch
  dsimp only
  (repeat' split) <;> simp

@[simp] theorem takeCadence_frame (w0 : Word) (w1 : Word) (s : State) :
    (takeCadence w0 w1 s).pending = s.pending ∧ (takeCadence w0 w1 s).mem = s.mem ∧ (takeCadence w0 w1 s).flash = s.flash := by
  unfold takeCadence
  (repeat' split) <;> simp

@[simp] theorem takeRoot_frame (p : PortId) (w0 : Word) (s : State) :
    (takeRoot p w0 s).pending = s.pending ∧ (takeRoot p w0 s).mem = s.mem ∧ (takeRoot p w0 s).flash = s.flash := by
  unfold takeRoot
  extract_lets r mine lower ahead fromParent lost seq stale i1 s1 a i2 s2
  have h1 : s1.pending = s.pending ∧ s1.mem = s.mem ∧ s1.flash = s.flash := ⟨rfl, rfl, rfl⟩
  clear_value s1
  refine iteInduction (motive := fun t : State => t.pending = s.pending ∧ t.mem = s.mem ∧ t.flash = s.flash)
    (fun _ => h1) (fun _ => ?_)
  have h2 : s2.pending = s.pending ∧ s2.mem = s.mem ∧ s2.flash = s.flash := by
    simp only [s2]
    (repeat' split) <;> simp [h1]
  clear_value s2
  split <;> simp [h2]

@[simp] theorem acquire_frame (rx : RxCell) (ws : List Word) (theta : Int) (s : State) :
    (acquire rx ws theta s).pending = s.pending ∧ (acquire rx ws theta s).mem = s.mem ∧ (acquire rx ws theta s).flash = s.flash := by
  unfold acquire
  (repeat' split) <;> simp

@[simp] theorem takeIndigo_frame (p : PortId) (rx : RxCell) (ws : List Word) (s : State) :
    (takeIndigo p rx ws s).pending = s.pending ∧ (takeIndigo p rx ws s).mem = s.mem ∧ (takeIndigo p rx ws s).flash = s.flash := by
  unfold takeIndigo
  dsimp only
  (repeat' split) <;> simp

@[simp] theorem takeMarks_frame (f : FrameNo) (ws : List Word) (s : State) (n : CtxId) :
    (takeMarks f ws s n).pending = s.pending ∧ (takeMarks f ws s n).mem = s.mem ∧ (takeMarks f ws s n).flash = s.flash := by
  unfold takeMarks
  dsimp only
  (repeat' split) <;> simp

@[simp] theorem takePlanDigest_frame (rx : RxCell) (ws : List Word) (s : State) (n : CtxId) :
    (takePlanDigest rx ws s n).pending = s.pending ∧ (takePlanDigest rx ws s n).mem = s.mem ∧ (takePlanDigest rx ws s n).flash = s.flash := by
  unfold takePlanDigest
  dsimp only
  (repeat' split) <;> simp

@[simp] theorem takeVote_frame (p : PortId) (ws : List Word) (s : State) (n : CtxId) :
    (takeVote p ws s n).pending = s.pending ∧ (takeVote p ws s n).mem = s.mem ∧ (takeVote p ws s n).flash = s.flash := by
  unfold takeVote
  dsimp only
  (repeat' split) <;> simp

@[simp] theorem takeWake_frame (ws : List Word) (s : State) :
    (takeWake ws s).pending = s.pending ∧ (takeWake ws s).mem = s.mem ∧ (takeWake ws s).flash = s.flash := by
  unfold takeWake
  dsimp only
  (repeat' split) <;> simp

@[simp] theorem takeFiller_frame (p : PortId) (rx : RxCell) (ws : List Word) (s : State) :
    (takeFiller p rx ws s).pending = s.pending ∧ (takeFiller p rx ws s).mem = s.mem ∧ (takeFiller p rx ws s).flash = s.flash := by
  unfold takeFiller
  (repeat' split) <;> simp

@[simp] theorem ackCell_frame (x : SentCell) (s : State) :
    (ackCell x s).pending = s.pending ∧ (ackCell x s).mem = s.mem ∧ (ackCell x s).flash = s.flash := by
  unfold ackCell
  (repeat' split) <;> simp

@[simp] theorem takeAcks_frame (p : PortId) (w3 : Word) (s : State) :
    (takeAcks p w3 s).pending = s.pending ∧ (takeAcks p w3 s).mem = s.mem ∧ (takeAcks p w3 s).flash = s.flash := by
  unfold takeAcks
  dsimp only
  (repeat' split) <;> simp

@[simp] theorem againTransit_frame (n : CtxId) (p : PortId) (rx : RxCell) (key : Nat × Nat × Nat) (s : State) :
    (againTransit n p rx key s).pending = s.pending ∧ (againTransit n p rx key s).mem = s.mem ∧ (againTransit n p rx key s).flash = s.flash := by
  unfold againTransit
  dsimp only
  (repeat' split) <;> simp

@[simp] theorem learnStep_frame (n : CtxId) (rx : RxCell) (r : PlanRec) (s : State) :
    (learnStep n rx r s).pending = s.pending ∧ (learnStep n rx r s).mem = s.mem ∧ (learnStep n rx r s).flash = s.flash := by
  unfold learnStep
  (repeat' split) <;> simp

@[simp] theorem holdTransit_frame (n : CtxId) (p : PortId) (rx : RxCell) (r : PlanRec) (x : PlanRec) (ws : List Word) (s : State) :
    (holdTransit n p rx r x ws s).pending = s.pending ∧ (holdTransit n p rx r x ws s).mem = s.mem ∧ (holdTransit n p rx r x ws s).flash = s.flash := by
  unfold holdTransit
  dsimp only
  (repeat' split) <;> simp

@[simp] theorem landSignals_frame (n : CtxId) (w : WinDecl) (s : State) :
    (landSignals n w s).pending = s.pending ∧ (landSignals n w s).mem = s.mem ∧ (landSignals n w s).flash = s.flash := by
  unfold landSignals
  (repeat' split) <;> simp

theorem landChain_kept (n : CtxId) (w : WinDecl) (i pass : Nat) (body : List Word) (s t : State)
    (h : landChain n w i pass body s = .ok t) : Kept s t := by
  simp only [landChain] at h
  split at h
  · exact writeRef_kept _ _ _ _ _ _ h
  · split at h
    · exact (writeRef_kept _ _ _ _ _ _ h).ofModCtx
    · cases h; exact .modCtx _ _ _

theorem landXe_kept (n : CtxId) (w : WinDecl) (i : Nat) (flow : Option FlowInfo) (body : List Word) (s t : State)
    (h : landXe n w i flow body s = .ok t) : Kept s t := by
  unfold landXe at h
  extract_lets c bs s1 at h
  refine Kept.ofModCtx (n := n) (f := fun c => { c with x := { c.x with
    inFlow := assocSet w.win (memWrite 0 ((assocGet w.win c.x.inFlow).getD []) (608 * i) bs) c.x.inFlow } }) ?_
  change Kept s1 t
  clear_value s1
  split at h
  · split at h
    · exact writeRef_kept _ _ _ _ _ _ h
    · exact landFlow_kept _ _ _ _ _ _ _ h
  · cases h; exact .refl _

theorem landBytes_kept (n : CtxId) (w : WinDecl) (i pass : Nat) (flow : Option FlowInfo) (body : List Word) (s t : State)
    (h : landBytes n w i pass flow body s = .ok t) : Kept s t := by
  unfold landBytes at h
  split at h
  · exact writeRef_kept _ _ _ _ _ _ h
  · split at h
    · exact landChain_kept _ _ _ _ _ _ _ h
    · exact landXe_kept _ _ _ _ _ _ _ h

theorem landCell_kept (n : CtxId) (w : WinDecl) (h : HeldCell) (s t : State) (e : landCell n w h s = .ok t) : Kept s t := by
  obtain ⟨u, hu, e⟩ := map_ok e
  subst e
  exact (landBytes_kept _ _ _ _ _ _ _ _ hu).ofModCtx.trans ⟨by simp, by simp, fun hm => by simp [hm]⟩

@[simp] theorem takeLast_frame (n : CtxId) (w : WinDecl) (h : HeldCell) (s : State) :
    (takeLast n w h s).pending = s.pending ∧ (takeLast n w h s).flash = s.flash := by
  unfold takeLast
  dsimp only
  repeat' split
  all_goals first
    | (simp; done)
    | (have k := landCell_kept _ _ _ _ _ ‹landCell _ _ _ _ = .ok _›; simp [k.1, k.2.1]; done)

@[simp] theorem takeLast_memOk (n : CtxId) (w : WinDecl) (h : HeldCell) (s : State) (hm : MemOk s.mem) : MemOk (takeLast n w h s).mem := by
  unfold takeLast
  dsimp only
  repeat' split
  all_goals first
    | (simp [hm]; done)
    | (have k := landCell_kept _ _ _ _ _ ‹landCell _ _ _ _ = .ok _›; simp [k.2.2 hm]; done)

@[simp] theorem landOnce_frame (n : CtxId) (s : State) :
    (landOnce n s).pending = s.pending ∧ (landOnce n s).flash = s.flash := by
  unfold landOnce
  repeat' first
    | rfl
    | (simp [*]; done)
    | refine And.intro ?_ ?_
    | refine (foldl_pending _ (fun t x => ?_) _ _).trans ?_
    | refine (foldl_mem _ (fun t x => ?_) _ _).trans ?_
    | refine (foldl_flash _ (fun t x => ?_) _ _).trans ?_
    | split
    | dsimp only

@[simp] theorem landOnce_memOk (n : CtxId) (s : State) (hm : MemOk s.mem) : MemOk (landOnce n s).mem := by
  unfold landOnce
  repeat' first
    | assumption
    | (simp [*]; done)
    | refine foldl_memOk _ (fun t x h => ?_) _ _ ?_
    | split
    | dsimp only

@[simp] theorem landHeld_frame (s : State) (n : CtxId) :
    (landHeld s n).pending = s.pending ∧ (landHeld s n).flash = s.flash := by
  unfold landHeld
  (repeat' split) <;> simp

@[simp] theorem landHeld_memOk (s : State) (n : CtxId) (hm : MemOk s.mem) : MemOk (landHeld s n).mem := by
  unfold landHeld
  (repeat' split) <;> simp +contextual [hm]

@[simp] theorem takeData_frame (p : PortId) (rx : RxCell) (ws : List Word) (s : State) :
    (takeData p rx ws s).pending = s.pending ∧ (takeData p rx ws s).flash = s.flash := by
  unfold takeData
  dsimp only
  (repeat' split) <;> simp

@[simp] theorem takeData_memOk (p : PortId) (rx : RxCell) (ws : List Word) (s : State) (hm : MemOk s.mem) : MemOk (takeData p rx ws s).mem := by
  unfold takeData
  dsimp only
  (repeat' split) <;> simp [hm]

@[simp] theorem takeCell_frame (p : PortId) (rx : RxCell) (ws : List Word) (s : State) :
    (takeCell p rx ws s).pending = s.pending ∧ (takeCell p rx ws s).flash = s.flash := by
  unfold takeCell
  extract_lets s1 s2 s2' s3
  have h1 : s1.pending = s.pending ∧ s1.flash = s.flash := by simp [s1]
  have h2 : s2.pending = s1.pending ∧ s2.flash = s1.flash := by
    refine iteInduction (motive := fun t : State => t.pending = s1.pending ∧ t.flash = s1.flash)
      (fun _ => by simp) (fun _ => ⟨rfl, rfl⟩)
  have h2' : s2'.pending = s2.pending ∧ s2'.flash = s2.flash := by simp [s2']
  have h3 : s3.pending = s2'.pending ∧ s3.flash = s2'.flash := by
    refine iteInduction (motive := fun t : State => t.pending = s2'.pending ∧ t.flash = s2'.flash)
      (fun _ => ⟨rfl, rfl⟩) (fun _ => by simp)
  clear_value s1 s2 s2' s3
  (repeat' split) <;> simp [h1, h2, h2', h3]

@[simp] theorem takeCell_memOk (p : PortId) (rx : RxCell) (ws : List Word) (s : State) (hm : MemOk s.mem) : MemOk (takeCell p rx ws s).mem := by
  unfold takeCell
  extract_lets s1 s2 s2' s3
  have h1 : MemOk s1.mem := foldl_memOk _ (fun t x h => by simp [h]) _ _ hm
  have h2 : MemOk s2.mem :=
    iteInduction (motive := fun t : State => MemOk t.mem) (fun _ => by simpa using h1) (fun _ => h1)
  have h2' : MemOk s2'.mem := by simpa [s2'] using h2
  have h3 : MemOk s3.mem :=
    iteInduction (motive := fun t : State => MemOk t.mem) (fun _ => h2') (fun _ => by simpa using h2')
  clear_value s1 s2 s2' s3
  (repeat' split) <;> simp [h3]

@[simp] theorem execCellReceive_frame (p : PortId) (rx : RxCell) (s : State) :
    (outState (execCellReceive p rx s)).pending = s.pending ∧ (outState (execCellReceive p rx s)).flash = s.flash := by
  unfold execCellReceive
  dsimp only
  (repeat' split) <;> simp

@[simp] theorem execCellReceive_memOk (p : PortId) (rx : RxCell) (s : State) (hm : MemOk s.mem) : MemOk (outState (execCellReceive p rx s)).mem := by
  unfold execCellReceive
  dsimp only
  (repeat' split) <;> simp [hm]

end Sys2Proof.Machine
end

