-- ==== Sys2Proof/Laws/FrameUpkeep.lean ====
section
/-! SUPPORT. What memory upkeep, power, supplies, boot and Rust leave of the queue, the memory and the flash: each keeps the queue; each keeps the memory and the
flash, or their canonical form. -/

namespace Sys2Proof.Machine

/-! ### Machine/Upkeep.lean -/

@[simp] theorem retireCopy_frame (i : Nat) (e : RetireEnt) (second : Bool) (s : State) :
    (retireCopy i e second s).pending = s.pending ∧ (retireCopy i e second s).mem = s.mem := by
  unfold retireCopy
  (repeat' split) <;> simp

@[simp] theorem retireCopy_flashOk (i : Nat) (e : RetireEnt) (second : Bool) (s : State) (hm : FlashOk s.flash) : FlashOk (retireCopy i e second s).flash := by
  exact memWrite_wf _ _ _ _ hm

@[simp] theorem retireFlash_frame (i : Nat) (e : RetireEnt) (s : State) :
    (retireFlash i e s).pending = s.pending ∧ (retireFlash i e s).mem = s.mem := by
  unfold retireFlash
  (repeat' split) <;> simp

@[simp] theorem retireFlash_flashOk (i : Nat) (e : RetireEnt) (s : State) (hm : FlashOk s.flash) : FlashOk (retireFlash i e s).flash := by
  exact retireCopy_flashOk _ _ _ _ (retireCopy_flashOk _ _ _ _ hm)

@[simp] theorem readList_frame (s : State) :
    (readList s).pending = s.pending ∧ (readList s).mem = s.mem ∧ (readList s).flash = s.flash := by
  unfold readList
  (repeat' split) <;> simp

@[simp] theorem retire_frame (kind : Nat) (cause : Nat) (addr : Nat) (column : Nat) (m : Medium) (s : State) :
    (retire kind cause addr column m s).pending = s.pending ∧ (retire kind cause addr column m s).mem = s.mem := by
  unfold retire
  dsimp only
  (repeat' split) <;> simp

@[simp] theorem retire_flashOk (kind : Nat) (cause : Nat) (addr : Nat) (column : Nat) (m : Medium) (s : State) (hm : FlashOk s.flash) : FlashOk (retire kind cause addr column m s).flash := by
  unfold retire
  dsimp only
  (repeat' split) <;> simp [hm]

@[simp] theorem noteHour_frame (ch : Nat) (k : Nat) (s : State) :
    (noteHour ch k s).pending = s.pending ∧ (noteHour ch k s).mem = s.mem ∧ (noteHour ch k s).flash = s.flash := by
  unfold noteHour
  extract_lets
  refine iteInduction (motive := fun t : State => t.pending = s.pending ∧ t.mem = s.mem ∧ t.flash = s.flash)
    (fun _ => ⟨rfl, rfl, rfl⟩) (fun _ => iteInduction (motive := fun t : State => t.pending = s.pending ∧ t.mem = s.mem ∧ t.flash = s.flash)
    (fun _ => ⟨rfl, rfl, rfl⟩) (fun _ => ?_))
  rw [(raiseEvent_frame _ _ _ _).1, (raiseEvent_frame _ _ _ _).2.1, (raiseEvent_frame _ _ _ _).2.2]
  exact ⟨rfl, rfl, rfl⟩

@[simp] theorem noteCorrected_frame (addr : Nat) (x : BitVec 80) (s : State) :
    (noteCorrected addr x s).pending = s.pending ∧ (noteCorrected addr x s).mem = s.mem := by
  unfold noteCorrected
  dsimp only
  (repeat' split) <;> simp [apply_ite State.pending, apply_ite State.mem, apply_ite State.flash]

@[simp] theorem noteCorrected_flashOk (addr : Nat) (x : BitVec 80) (s : State) (hm : FlashOk s.flash) : FlashOk (noteCorrected addr x s).flash := by
  unfold noteCorrected
  dsimp only
  (repeat' split) <;> simp +contextual [hm, apply_ite MemOk, apply_ite FlashOk, apply_ite State.mem, apply_ite State.flash]

@[simp] theorem retireUe_frame (addr : Nat) (s : State) :
    (retireUe addr s).pending = s.pending ∧ (retireUe addr s).mem = s.mem := by
  unfold retireUe
  extract_lets line
  split
  · exact ⟨foldl_pending _ (fun t x => (retire_frame _ _ _ _ _ _).1) _ _, foldl_mem _ (fun t x => (retire_frame _ _ _ _ _ _).2) _ _⟩
  · exact retire_frame _ _ _ _ _ _
  · exact retire_frame _ _ _ _ _ _
  · exact ⟨rfl, rfl⟩

@[simp] theorem retireUe_flashOk (addr : Nat) (s : State) (hm : FlashOk s.flash) : FlashOk (retireUe addr s).flash := by
  unfold retireUe
  extract_lets line
  split
  · exact foldl_flashOk _ (fun t x h => retire_flashOk _ _ _ _ _ _ h) _ _ hm
  · exact retire_flashOk _ _ _ _ _ _ hm
  · exact retire_flashOk _ _ _ _ _ _ hm
  · exact hm

@[simp] theorem dataLoss_frame (addr : Nat) (m : Medium) (ns : List CtxId) (s : State) :
    (dataLoss addr m ns s).pending = s.pending ∧ (dataLoss addr m ns s).mem = s.mem ∧ (dataLoss addr m ns s).flash = s.flash := by
  unfold dataLoss
  (repeat' split) <;> simp

@[simp] theorem foundUe_frame (addr : Nat) (m : Medium) (d : DieId) (n : Option CtxId) (s : State) :
    (foundUe addr m d n s).pending = s.pending ∧ (foundUe addr m d n s).mem = s.mem := by
  unfold foundUe
  (repeat' split) <;> simp

@[simp] theorem foundUe_flashOk (addr : Nat) (m : Medium) (d : DieId) (n : Option CtxId) (s : State) (hm : FlashOk s.flash) : FlashOk (foundUe addr m d n s).flash := by
  unfold foundUe
  (repeat' split) <;> simp [hm]

@[simp] theorem foundCe_frame (addr : Nat) (m : Medium) (d : DieId) (x : BitVec 80) (s : State) :
    (foundCe addr m d x s).pending = s.pending ∧ (foundCe addr m d x s).mem = s.mem := by
  unfold foundCe
  (repeat' split) <;> simp

@[simp] theorem foundCe_flashOk (addr : Nat) (m : Medium) (d : DieId) (x : BitVec 80) (s : State) (hm : FlashOk s.flash) : FlashOk (foundCe addr m d x s).flash := by
  unfold foundCe
  (repeat' split) <;> simp [hm]

@[simp] theorem engineUe_frame (n : CtxId) (r : Run) (addr : Nat) (err : BitVec 80) (m : Medium) (d : DieId) (s : State) :
    (engineUe n r addr err m d s).pending = s.pending ∧ (engineUe n r addr err m d s).mem = s.mem := by
  unfold engineUe
  dsimp only
  (repeat' split) <;> simp

@[simp] theorem engineUe_flashOk (n : CtxId) (r : Run) (addr : Nat) (err : BitVec 80) (m : Medium) (d : DieId) (s : State) (hm : FlashOk s.flash) : FlashOk (engineUe n r addr err m d s).flash := by
  unfold engineUe
  dsimp only
  (repeat' split) <;> simp [hm]

@[simp] theorem agentUe_frame (addr : Nat) (err : BitVec 80) (m : Medium) (d : DieId) (s : State) :
    (agentUe addr err m d s).pending = s.pending ∧ (agentUe addr err m d s).mem = s.mem := by
  unfold agentUe
  dsimp only
  (repeat' split) <;> simp

@[simp] theorem agentUe_flashOk (addr : Nat) (err : BitVec 80) (m : Medium) (d : DieId) (s : State) (hm : FlashOk s.flash) : FlashOk (agentUe addr err m d s).flash := by
  unfold agentUe
  dsimp only
  (repeat' split) <;> simp [hm]

@[simp] theorem execMemUe_frame (n : CtxId) (reader : Option (Nat × Nat)) (addr : Nat) (err : BitVec 80) (medium : Medium) (die : DieId) (s : State) :
    (outState (execMemUe n reader addr err medium die s)).pending = s.pending ∧ (outState (execMemUe n reader addr err medium die s)).mem = s.mem := by
  unfold execMemUe
  dsimp only
  (repeat' split) <;> simp

@[simp] theorem execMemUe_flashOk (n : CtxId) (reader : Option (Nat × Nat)) (addr : Nat) (err : BitVec 80) (medium : Medium) (die : DieId) (s : State) (hm : FlashOk s.flash) : FlashOk (outState (execMemUe n reader addr err medium die s)).flash := by
  unfold execMemUe
  dsimp only
  (repeat' split) <;> simp [hm]

@[simp] theorem scrubWord_frame (sram : Bool) (arb : List BankCycle) (s : State) (x : ScrubHit) :
    (scrubWord sram arb s x).pending = s.pending := by
  unfold scrubWord
  dsimp only
  (repeat' split) <;> simp

@[simp] theorem scrubWord_memOk (sram : Bool) (arb : List BankCycle) (s : State) (x : ScrubHit) (hm : MemOk s.mem) : MemOk (scrubWord sram arb s x).mem := by
  unfold scrubWord
  dsimp only
  (repeat' split) <;> simp [hm]

@[simp] theorem scrubWord_flashOk (sram : Bool) (arb : List BankCycle) (s : State) (x : ScrubHit) (hm : FlashOk s.flash) : FlashOk (scrubWord sram arb s x).flash := by
  unfold scrubWord
  dsimp only
  (repeat' split) <;> simp [hm]

@[simp] theorem nextPass_frame (sram : Bool) (s : State) :
    (nextPass sram s).pending = s.pending ∧ (nextPass sram s).mem = s.mem ∧ (nextPass sram s).flash = s.flash := by
  exact ⟨rfl, rfl, rfl⟩

@[simp] theorem execScrubPass_frame (sram : Bool) (hits : List ScrubHit) (arb : List BankCycle) (s : State) :
    (outState (execScrubPass sram hits arb s)).pending = s.pending := by
  unfold execScrubPass
  (repeat' split) <;> simp

@[simp] theorem execScrubPass_memOk (sram : Bool) (hits : List ScrubHit) (arb : List BankCycle) (s : State) (hm : MemOk s.mem) : MemOk (outState (execScrubPass sram hits arb s)).mem := by
  unfold execScrubPass
  (repeat' split) <;> simp +contextual [hm]

@[simp] theorem execScrubPass_flashOk (sram : Bool) (hits : List ScrubHit) (arb : List BankCycle) (s : State) (hm : FlashOk s.flash) : FlashOk (outState (execScrubPass sram hits arb s)).flash := by
  unfold execScrubPass
  (repeat' split) <;> simp +contextual [hm]

@[simp] theorem execDdrCeRate_frame (channel : Fin 16) (corrected : Nat) (s : State) :
    (outState (execDdrCeRate channel corrected s)).pending = s.pending ∧ (outState (execDdrCeRate channel corrected s)).mem = s.mem ∧ (outState (execDdrCeRate channel corrected s)).flash = s.flash := by
  unfold execDdrCeRate
  dsimp only
  (repeat' split) <;> simp

@[simp] theorem execRefreshCommand_frame (medium : Medium) (channel : Nat) (bank : Nat) (hits : List ScrubHit) (s : State) :
    (outState (execRefreshCommand medium channel bank hits s)).pending = s.pending := by
  unfold execRefreshCommand
  dsimp only
  (repeat' split) <;> simp

@[simp] theorem execRefreshCommand_memOk (medium : Medium) (channel : Nat) (bank : Nat) (hits : List ScrubHit) (s : State) (hm : MemOk s.mem) : MemOk (outState (execRefreshCommand medium channel bank hits s)).mem := by
  unfold execRefreshCommand
  dsimp only
  (repeat' split) <;> simp +contextual [hm]

@[simp] theorem execRefreshCommand_flashOk (medium : Medium) (channel : Nat) (bank : Nat) (hits : List ScrubHit) (s : State) (hm : FlashOk s.flash) : FlashOk (outState (execRefreshCommand medium channel bank hits s)).flash := by
  unfold execRefreshCommand
  dsimp only
  (repeat' split) <;> simp +contextual [hm]

@[simp] theorem execClearDone_frame (bank : Nat) (s : State) :
    (outState (execClearDone bank s)).pending = s.pending ∧ (outState (execClearDone bank s)).flash = s.flash := by
  unfold execClearDone
  dsimp only
  (repeat' split) <;> simp

@[simp] theorem execClearDone_memOk (bank : Nat) (s : State) (hm : MemOk s.mem) : MemOk (outState (execClearDone bank s)).mem := by
  unfold execClearDone
  dsimp only
  (repeat' split) <;> simp [hm]

@[simp] theorem execOwnershipChange_frame (bank : Nat) (s : State) :
    (outState (execOwnershipChange bank s)).pending = s.pending ∧ (outState (execOwnershipChange bank s)).mem = s.mem ∧ (outState (execOwnershipChange bank s)).flash = s.flash := by
  unfold execOwnershipChange
  (repeat' split) <;> simp

/-! ### Machine/Power.lean -/

@[simp] theorem startRamp_frame (bitNo : Nat) (s : State) :
    (startRamp bitNo s).pending = s.pending ∧ (startRamp bitNo s).mem = s.mem ∧ (startRamp bitNo s).flash = s.flash := by
  unfold startRamp
  (repeat' split) <;> simp

@[simp] theorem deviceReset_frame (s : State) :
    (deviceReset s).pending = s.pending ∧ (deviceReset s).flash = s.flash := by
  unfold deviceReset
  (repeat' split) <;> simp

@[simp] theorem deviceReset_memOk (s : State) (hm : MemOk s.mem) : MemOk (deviceReset s).mem := by
  exact memWf_nil _

@[simp] theorem execRampDownWave_frame (w : Fin 8) (low : BitVec 2) (s : State) :
    (outState (execRampDownWave w low s)).pending = s.pending ∧ (outState (execRampDownWave w low s)).flash = s.flash := by
  unfold execRampDownWave
  dsimp only
  (repeat' split) <;> simp

@[simp] theorem execRampDownWave_memOk (w : Fin 8) (low : BitVec 2) (s : State) (hm : MemOk s.mem) : MemOk (outState (execRampDownWave w low s)).mem := by
  unfold execRampDownWave
  dsimp only
  (repeat' split) <;> simp [hm]

@[simp] theorem thermalTrip_frame (s : State) :
    (thermalTrip s).pending = s.pending ∧ (thermalTrip s).mem = s.mem ∧ (thermalTrip s).flash = s.flash := by
  unfold thermalTrip
  (repeat' split) <;> simp

@[simp] theorem execEstimateInterval_frame (r : Interval) (s : State) :
    (outState (execEstimateInterval r s)).pending = s.pending ∧ (outState (execEstimateInterval r s)).mem = s.mem ∧ (outState (execEstimateInterval r s)).flash = s.flash := by
  unfold execEstimateInterval
  dsimp only
  (repeat' split) <;> simp

@[simp] theorem execDroop_frame (island : Fin 16) (s : State) :
    (outState (execDroop island s)).pending = s.pending ∧ (outState (execDroop island s)).mem = s.mem ∧ (outState (execDroop island s)).flash = s.flash := by
  unfold execDroop
  (repeat' split) <;> simp

@[simp] theorem execDroopEnd_frame (island : Fin 16) (lost : Nat) (s : State) :
    (outState (execDroopEnd island lost s)).pending = s.pending ∧ (outState (execDroopEnd island lost s)).mem = s.mem ∧ (outState (execDroopEnd island lost s)).flash = s.flash := by
  unfold execDroopEnd
  (repeat' split) <;> simp

@[simp] theorem execDroopLong_frame (island : Fin 16) (lost : Nat) (s : State) :
    (outState (execDroopLong island lost s)).pending = s.pending ∧ (outState (execDroopLong island lost s)).mem = s.mem ∧ (outState (execDroopLong island lost s)).flash = s.flash := by
  unfold execDroopLong
  (repeat' split) <;> simp

@[simp] theorem execVfApply_frame (railsReady : Bool) (s : State) :
    (outState (execVfApply railsReady s)).pending = s.pending ∧ (outState (execVfApply railsReady s)).mem = s.mem ∧ (outState (execVfApply railsReady s)).flash = s.flash := by
  unfold execVfApply
  (repeat' split) <;> simp

@[simp] theorem execVfExpired_frame (s : State) :
    (outState (execVfExpired s)).pending = s.pending ∧ (outState (execVfExpired s)).mem = s.mem ∧ (outState (execVfExpired s)).flash = s.flash := by
  unfold execVfExpired
  dsimp only
  (repeat' split) <;> simp

@[simp] theorem execDimTransition_frame (s : State) :
    (outState (execDimTransition s)).pending = s.pending ∧ (outState (execDimTransition s)).mem = s.mem ∧ (outState (execDimTransition s)).flash = s.flash := by
  unfold execDimTransition
  (repeat' split) <;> simp

@[simp] theorem execSignalDetected_frame (h1 : Bool) (s : State) :
    (outState (execSignalDetected h1 s)).pending = s.pending ∧ (outState (execSignalDetected h1 s)).mem = s.mem ∧ (outState (execSignalDetected h1 s)).flash = s.flash := by
  unfold execSignalDetected
  (repeat' split) <;> simp

@[simp] theorem execGreyEntry_frame (clamps : Bool) (s : State) :
    (outState (execGreyEntry clamps s)).pending = s.pending ∧ (outState (execGreyEntry clamps s)).mem = s.mem ∧ (outState (execGreyEntry clamps s)).flash = s.flash := by
  unfold execGreyEntry
  dsimp only
  (repeat' split) <;> simp

@[simp] theorem clearBanks_frame (s : State) :
    (clearBanks s).pending = s.pending ∧ (clearBanks s).flash = s.flash := by
  unfold clearBanks
  (repeat' split) <;> simp

@[simp] theorem clearBanks_memOk (s : State) (hm : MemOk s.mem) : MemOk (clearBanks s).mem := by
  exact memWf_filter _ _ _ hm

@[simp] theorem refill_frame (s : State) (n : CtxId) :
    (refill s n).pending = s.pending ∧ (refill s n).flash = s.flash := by
  unfold refill
  dsimp only
  (repeat' split) <;> simp

@[simp] theorem refill_memOk (s : State) (n : CtxId) (hm : MemOk s.mem) : MemOk (refill s n).mem := by
  unfold refill
  dsimp only
  (repeat' split) <;> simp [hm]

@[simp] theorem execGreyExit_frame (s : State) :
    (outState (execGreyExit s)).pending = s.pending ∧ (outState (execGreyExit s)).flash = s.flash := by
  unfold execGreyExit
  (repeat' split) <;> simp

@[simp] theorem execGreyExit_memOk (s : State) (hm : MemOk s.mem) : MemOk (outState (execGreyExit s)).mem := by
  unfold execGreyExit
  (repeat' split) <;> simp +contextual [hm]

@[simp] theorem blackCtx_frame (s : State) (n : CtxId) :
    (blackCtx s n).pending = s.pending ∧ (blackCtx s n).mem = s.mem ∧ (blackCtx s n).flash = s.flash := by
  unfold blackCtx
  (repeat' split) <;> simp

@[simp] theorem blackState_frame (s : State) :
    (blackState s).pending = s.pending ∧ (blackState s).flash = s.flash := by
  unfold blackState
  (repeat' split) <;> simp

@[simp] theorem blackState_memOk (s : State) (hm : MemOk s.mem) : MemOk (blackState s).mem := by
  exact memWf_nil _

@[simp] theorem execBlackEntry_frame (s : State) :
    (outState (execBlackEntry s)).pending = s.pending ∧ (outState (execBlackEntry s)).flash = s.flash := by
  unfold execBlackEntry
  dsimp only
  (repeat' split) <;> simp

@[simp] theorem execBlackEntry_memOk (s : State) (hm : MemOk s.mem) : MemOk (outState (execBlackEntry s)).mem := by
  unfold execBlackEntry
  dsimp only
  (repeat' split) <;> simp [hm]

@[simp] theorem execWatchdog_frame (s : State) :
    (outState (execWatchdog s)).pending = s.pending ∧ (outState (execWatchdog s)).mem = s.mem ∧ (outState (execWatchdog s)).flash = s.flash := by
  unfold execWatchdog
  by_cases h : s.rust.watchdog + 100000000 ≤ (nsNow s : Int)
  · rw [if_pos h]; dsimp only [outState, ok]; exact haltAll_frame s
  · rw [if_neg h]; exact ⟨rfl, rfl, rfl⟩

@[simp] theorem execWatchdogRestart_frame (s : State) :
    (outState (execWatchdogRestart s)).pending = s.pending ∧ (outState (execWatchdogRestart s)).mem = s.mem ∧ (outState (execWatchdogRestart s)).flash = s.flash := by
  unfold execWatchdogRestart
  dsimp only
  (repeat' split) <;> simp

/-! ### Machine/Supply.lean -/

@[simp] theorem sequenceFault_frame (rail : Nat) (s : State) :
    (sequenceFault rail s).pending = s.pending ∧ (sequenceFault rail s).mem = s.mem ∧ (sequenceFault rail s).flash = s.flash := by
  simp [sequenceFault, apply_ite State.pending, apply_ite State.mem, apply_ite State.flash]

@[simp] theorem execRailInWindow_frame (rail : Fin 12) (uv : Nat) (s : State) :
    (outState (execRailInWindow rail uv s)).pending = s.pending ∧ (outState (execRailInWindow rail uv s)).mem = s.mem ∧ (outState (execRailInWindow rail uv s)).flash = s.flash := by
  unfold execRailInWindow
  dsimp only
  (repeat' split) <;> simp

@[simp] theorem execRailExcursion_frame (rail : Fin 12) (uv : Nat) (s : State) :
    (outState (execRailExcursion rail uv s)).pending = s.pending ∧ (outState (execRailExcursion rail uv s)).mem = s.mem ∧ (outState (execRailExcursion rail uv s)).flash = s.flash := by
  unfold execRailExcursion
  dsimp only
  (repeat' split) <;> simp

@[simp] theorem execRailOutOfWindow_frame (rail : Fin 12) (uv : Nat) (s : State) :
    (outState (execRailOutOfWindow rail uv s)).pending = s.pending ∧ (outState (execRailOutOfWindow rail uv s)).mem = s.mem ∧ (outState (execRailOutOfWindow rail uv s)).flash = s.flash := by
  unfold execRailOutOfWindow
  dsimp only
  (repeat' split) <;> simp

@[simp] theorem execSequenceRetry_frame (s : State) :
    (outState (execSequenceRetry s)).pending = s.pending ∧ (outState (execSequenceRetry s)).mem = s.mem ∧ (outState (execSequenceRetry s)).flash = s.flash := by
  unfold execSequenceRetry
  (repeat' split) <;> simp

@[simp] theorem switchTo_frame (backup : Bool) (s : State) :
    (switchTo backup s).pending = s.pending ∧ (switchTo backup s).mem = s.mem ∧ (switchTo backup s).flash = s.flash := by
  unfold switchTo
  (repeat' split) <;> simp

@[simp] theorem execAonSwitch_frame (s : State) :
    (outState (execAonSwitch s)).pending = s.pending ∧ (outState (execAonSwitch s)).mem = s.mem ∧ (outState (execAonSwitch s)).flash = s.flash := by
  unfold execAonSwitch
  dsimp only
  (repeat' split) <;> simp

@[simp] theorem execAonBackupOutOfWindow_frame (s : State) :
    (outState (execAonBackupOutOfWindow s)).pending = s.pending ∧ (outState (execAonBackupOutOfWindow s)).mem = s.mem ∧ (outState (execAonBackupOutOfWindow s)).flash = s.flash := by
  unfold execAonBackupOutOfWindow
  dsimp only
  (repeat' split) <;> simp

@[simp] theorem execAonFeedInWindow_frame (backup : Bool) (s : State) :
    (outState (execAonFeedInWindow backup s)).pending = s.pending ∧ (outState (execAonFeedInWindow backup s)).mem = s.mem ∧ (outState (execAonFeedInWindow backup s)).flash = s.flash := by
  unfold execAonFeedInWindow
  dsimp only
  (repeat' split) <;> simp

@[simp] theorem execAonReturn_frame (s : State) :
    (outState (execAonReturn s)).pending = s.pending ∧ (outState (execAonReturn s)).mem = s.mem ∧ (outState (execAonReturn s)).flash = s.flash := by
  unfold execAonReturn
  (repeat' split) <;> simp

@[simp] theorem execAonHoldupExpiry_frame (s : State) :
    (outState (execAonHoldupExpiry s)).pending = s.pending ∧ (outState (execAonHoldupExpiry s)).flash = s.flash := by
  unfold execAonHoldupExpiry
  (repeat' split) <;> simp

@[simp] theorem execAonHoldupExpiry_memOk (s : State) (hm : MemOk s.mem) : MemOk (outState (execAonHoldupExpiry s)).mem := by
  unfold execAonHoldupExpiry
  split
  · split
    · exact hm
    · exact memWf_nil _
  · exact hm

@[simp] theorem execResetN_frame (low : Bool) (held : Nat) (s : State) :
    (outState (execResetN low held s)).pending = s.pending ∧ (outState (execResetN low held s)).flash = s.flash := by
  unfold execResetN
  dsimp only
  (repeat' split) <;> simp

@[simp] theorem execResetN_memOk (low : Bool) (held : Nat) (s : State) (hm : MemOk s.mem) : MemOk (outState (execResetN low held s)).mem := by
  unfold execResetN
  dsimp only
  (repeat' split) <;> simp [hm]

@[simp] theorem execPowerFailN_frame (low : Bool) (held : Nat) (s : State) :
    (outState (execPowerFailN low held s)).pending = s.pending ∧ (outState (execPowerFailN low held s)).mem = s.mem ∧ (outState (execPowerFailN low held s)).flash = s.flash := by
  unfold execPowerFailN
  (repeat' split) <;> simp

@[simp] theorem execCoolantFaultN_frame (low : Bool) (held : Nat) (s : State) :
    (outState (execCoolantFaultN low held s)).pending = s.pending ∧ (outState (execCoolantFaultN low held s)).mem = s.mem ∧ (outState (execCoolantFaultN low held s)).flash = s.flash := by
  unfold execCoolantFaultN
  (repeat' split) <;> simp

/-! ### Machine/Boot.lean -/

@[simp] theorem logCopy_frame (n : BitVec 32) (second : Bool) (s : State) :
    (logCopy n second s).pending = s.pending ∧ (logCopy n second s).mem = s.mem := ⟨rfl, rfl⟩

@[simp] theorem logCopy_flashOk (n : BitVec 32) (second : Bool) (s : State) (hm : FlashOk s.flash) : FlashOk (logCopy n second s).flash :=
  memWrite_wf _ _ _ _ hm

@[simp] theorem logWrite_frame (n : BitVec 32) (s : State) :
    (logWrite n s).pending = s.pending ∧ (logWrite n s).mem = s.mem := by
  simp [logWrite]

@[simp] theorem logWrite_flashOk (n : BitVec 32) (s : State) (hm : FlashOk s.flash) : FlashOk (logWrite n s).flash :=
  logCopy_flashOk _ _ _ (logCopy_flashOk _ _ _ hm)

@[simp] theorem execResetRelease_frame (refA refB : Option Nat) (s : State) :
    (outState (execResetRelease refA refB s)).pending = s.pending ∧ (outState (execResetRelease refA refB s)).mem = s.mem := by
  unfold execResetRelease
  split <;> simp

@[simp] theorem execResetRelease_flashOk (refA refB : Option Nat) (s : State) (hm : FlashOk s.flash) :
    FlashOk (outState (execResetRelease refA refB s)).flash := by
  unfold execResetRelease
  split <;> simp [hm]

@[simp] theorem applyConfig_frame (m : Img) (s : State) :
    (applyConfig m s).pending = s.pending ∧ (applyConfig m s).mem = s.mem ∧ (applyConfig m s).flash = s.flash := by
  unfold applyConfig
  dsimp only
  (repeat' split) <;> simp

@[simp] theorem badImage_frame (code : Nat) (s : State) :
    (badImage code s).pending = s.pending ∧ (badImage code s).mem = s.mem ∧ (badImage code s).flash = s.flash := by
  unfold badImage
  (repeat' split) <;> simp

@[simp] theorem loadImage_frame (m : Option Img) (s : State) :
    (loadImage m s).pending = s.pending ∧ (loadImage m s).flash = s.flash := by
  unfold loadImage
  split
  · simp
  · exact ⟨foldl_pending _ (fun t x => by simp) _ _, foldl_flash _ (fun t x => by simp) _ _⟩

@[simp] theorem loadImage_memOk (m : Option Img) (s : State) (hm : MemOk s.mem) : MemOk (loadImage m s).mem := by
  unfold loadImage
  split
  · simp [hm]
  · exact foldl_memOk _ (fun t x h => by simp [h]) _ _ hm

@[simp] theorem execImageCheck_frame (flashOk : Bool) (s : State) :
    (outState (execImageCheck flashOk s)).pending = s.pending ∧ (outState (execImageCheck flashOk s)).flash = s.flash := by
  unfold execImageCheck
  dsimp only
  (repeat' split) <;> simp

@[simp] theorem execImageCheck_memOk (flashOk : Bool) (s : State) (hm : MemOk s.mem) :
    MemOk (outState (execImageCheck flashOk s)).mem := by
  unfold execImageCheck
  dsimp only
  (repeat' split) <;> simp [hm]

@[simp] theorem setRepair_frame (s : State) (p : Place) (v : BitVec 48) :
    (setRepair s p v).pending = s.pending ∧ (setRepair s p v).mem = s.mem ∧ (setRepair s p v).flash = s.flash := by
  unfold setRepair
  (repeat' split) <;> simp

@[simp] theorem disableBank_frame (p : Place) (addr : Nat) (s : State) :
    (disableBank p addr s).pending = s.pending ∧ (disableBank p addr s).mem = s.mem ∧ (disableBank p addr s).flash = s.flash := by
  unfold disableBank
  (repeat' split) <;> simp

@[simp] theorem bootEntry_frame (acc : State × List RetireEnt) (e : RetireEnt) :
    (bootEntry acc e).1.pending = acc.1.pending ∧ (bootEntry acc e).1.mem = acc.1.mem ∧
    (bootEntry acc e).1.flash = acc.1.flash := by
  unfold bootEntry
  dsimp only
  (repeat' split) <;> simp [State.takeFree]

@[simp] theorem actOnList_frame (s : State) :
    (actOnList s).pending = s.pending ∧ (actOnList s).mem = s.mem := by
  unfold actOnList
  have h1 := foldl_fst_pending bootEntry (fun a x => (bootEntry_frame a x).1) s.scrub.list (s, [])
  have h2 := foldl_fst_mem bootEntry (fun a x => (bootEntry_frame a x).2.1) s.scrub.list (s, [])
  have h3 := foldl_fst_flash bootEntry (fun a x => (bootEntry_frame a x).2.2) s.scrub.list (s, [])
  simp [h1, h2]

@[simp] theorem actOnList_flashOk (s : State) (hm : FlashOk s.flash) : FlashOk (actOnList s).flash := by
  unfold actOnList
  have h1 := foldl_fst_pending bootEntry (fun a x => (bootEntry_frame a x).1) s.scrub.list (s, [])
  have h2 := foldl_fst_mem bootEntry (fun a x => (bootEntry_frame a x).2.1) s.scrub.list (s, [])
  have h3 := foldl_fst_flash bootEntry (fun a x => (bootEntry_frame a x).2.2) s.scrub.list (s, [])
  refine foldl_flashOk _ (fun t x h => retireFlash_flashOk _ _ _ h) _ _ ?_
  simpa [h3] using hm

@[simp] theorem placeRing_frame (s : State) :
    (placeRing s).pending = s.pending ∧ (placeRing s).mem = s.mem ∧ (placeRing s).flash = s.flash := by
  unfold placeRing
  (repeat' split) <;> simp

@[simp] theorem trained_frame (hbms : List Bool) (channels : List DdrFound) (s : State) :
    (trained hbms channels s).pending = s.pending ∧ (trained hbms channels s).mem = s.mem ∧ (trained hbms channels s).flash = s.flash := by
  unfold trained
  (repeat' split) <;> simp

@[simp] theorem clearOnChip_frame (s : State) :
    (clearOnChip s).pending = s.pending ∧ (clearOnChip s).flash = s.flash := by
  unfold clearOnChip
  (repeat' split) <;> simp

@[simp] theorem clearOnChip_memOk (s : State) (hm : MemOk s.mem) : MemOk (clearOnChip s).mem := by
  exact memWf_filter _ _ _ hm

@[simp] theorem actAsRoot_frame (absent : List Nat) (s : State) :
    (actAsRoot absent s).pending = s.pending ∧ (actAsRoot absent s).mem = s.mem ∧ (actAsRoot absent s).flash = s.flash := by
  unfold actAsRoot
  (repeat' split) <;> simp

@[simp] theorem execMemoryTrainingDone_frame (hbms : List Bool) (channels : List DdrFound) (absent : List Nat) (s : State) :
    (outState (execMemoryTrainingDone hbms channels absent s)).pending = s.pending := by
  unfold execMemoryTrainingDone
  (repeat' split) <;> simp

@[simp] theorem execMemoryTrainingDone_memOk (hbms : List Bool) (channels : List DdrFound) (absent : List Nat) (s : State) (hm : MemOk s.mem) : MemOk (outState (execMemoryTrainingDone hbms channels absent s)).mem := by
  unfold execMemoryTrainingDone
  (repeat' split) <;> simp [hm]

@[simp] theorem execMemoryTrainingDone_flashOk (hbms : List Bool) (channels : List DdrFound) (absent : List Nat) (s : State) (hm : FlashOk s.flash) : FlashOk (outState (execMemoryTrainingDone hbms channels absent s)).flash := by
  unfold execMemoryTrainingDone
  (repeat' split) <;> simp [hm]

@[simp] theorem execReady_frame (ms : BitVec 16) (s : State) :
    (outState (execReady ms s)).pending = s.pending ∧ (outState (execReady ms s)).mem = s.mem ∧ (outState (execReady ms s)).flash = s.flash := by
  unfold execReady
  dsimp only
  (repeat' split) <;> simp

@[simp] theorem execBootAnnounce_frame (s : State) :
    (outState (execBootAnnounce s)).pending = s.pending ∧ (outState (execBootAnnounce s)).mem = s.mem ∧ (outState (execBootAnnounce s)).flash = s.flash := by
  unfold execBootAnnounce
  dsimp only
  (repeat' split) <;> simp

@[simp] theorem progBegin_frame (s : State) :
    (progBegin s).2.pending = s.pending ∧ (progBegin s).2.mem = s.mem := by
  unfold progBegin
  (repeat' split) <;> simp

@[simp] theorem progBegin_flashOk (s : State) (hm : FlashOk s.flash) : FlashOk (progBegin s).2.flash := by
  exact memErase_wf _ _ _ _ hm

@[simp] theorem progWrite_frame (offset : Nat) (data : List Byte) (s : State) :
    (progWrite offset data s).2.pending = s.pending ∧ (progWrite offset data s).2.mem = s.mem := by
  unfold progWrite
  dsimp only
  (repeat' split) <;> simp

@[simp] theorem progWrite_flashOk (offset : Nat) (data : List Byte) (s : State) (hm : FlashOk s.flash) : FlashOk (progWrite offset data s).2.flash := by
  unfold progWrite
  dsimp only
  split
  · exact hm
  · exact memWrite_wf _ _ _ _ hm

@[simp] theorem progEnd_frame (s : State) :
    (progEnd s).2.pending = s.pending ∧ (progEnd s).2.mem = s.mem ∧ (progEnd s).2.flash = s.flash := by
  unfold progEnd
  dsimp only
  (repeat' split) <;> simp

@[simp] theorem rebootOrder_frame (s : State) :
    (rebootOrder s).2.pending = s.pending ∧ (rebootOrder s).2.mem = s.mem ∧ (rebootOrder s).2.flash = s.flash := by
  unfold rebootOrder
  (repeat' split) <;> simp

/-! ### Machine/Rust.lean -/

@[simp] theorem sendRust_frame (r : RustRec) (s : State) :
    (sendRust r s).pending = s.pending ∧ (sendRust r s).mem = s.mem ∧ (sendRust r s).flash = s.flash := by
  unfold sendRust
  (repeat' split) <;> simp

@[simp] theorem modRust_frame (seq : Nat) (f : RustRec → RustRec) (s : State) :
    (modRust seq f s).pending = s.pending ∧ (modRust seq f s).mem = s.mem ∧ (modRust seq f s).flash = s.flash := by
  unfold modRust
  (repeat' split) <;> simp

@[simp] theorem execRustRecord_frame (s : State) :
    (outState (execRustRecord s)).pending = s.pending ∧ (outState (execRustRecord s)).mem = s.mem ∧ (outState (execRustRecord s)).flash = s.flash := by
  unfold execRustRecord
  (repeat' split) <;> simp

@[simp] theorem execRustResend_frame (s : State) :
    (outState (execRustResend s)).pending = s.pending ∧ (outState (execRustResend s)).mem = s.mem ∧ (outState (execRustResend s)).flash = s.flash := by
  unfold execRustResend
  dsimp only
  (repeat' split) <;> simp

@[simp] theorem execRustAck_frame (receiver : Nat) (seq : Nat) (digest : List Word) (s : State) :
    (outState (execRustAck receiver seq digest s)).pending = s.pending ∧ (outState (execRustAck receiver seq digest s)).mem = s.mem ∧ (outState (execRustAck receiver seq digest s)).flash = s.flash := by
  unfold execRustAck
  (repeat' split) <;> simp

end Sys2Proof.Machine
end

