-- ==== Sys2Proof/Laws/FrameHost.lean ====
section
/-! SUPPORT. What the message processor and the orders leave of the queue, the memory and the flash: each keeps the queue; each keeps the memory and the
flash, or their canonical form. -/

namespace Sys2Proof.Machine

/-! ### Machine/Host.lean -/

@[simp] theorem modSession_frame (st : StationId) (f : Session → Session) (s : State) :
    (modSession st f s).pending = s.pending ∧ (modSession st f s).mem = s.mem ∧ (modSession st f s).flash = s.flash := by
  unfold modSession
  (repeat' split) <;> simp

@[simp] theorem sendIn_frame (v : Via) (x : Session) (header : List Word) (body : List Word) (s : State) :
    (sendIn v x header body s).pending = s.pending ∧ (sendIn v x header body s).mem = s.mem ∧ (sendIn v x header body s).flash = s.flash := by
  unfold sendIn
  (repeat' split) <;> simp

@[simp] theorem discard_frame (s : State) :
    (discard s).pending = s.pending ∧ (discard s).mem = s.mem ∧ (discard s).flash = s.flash := by
  unfold discard
  (repeat' split) <;> simp

@[simp] theorem reply_frame (h : Hdr) (type : Nat) (status : Nat) (body : List Word) (s : State) :
    (reply h type status body s).pending = s.pending ∧ (reply h type status body s).mem = s.mem ∧ (reply h type status body s).flash = s.flash := by
  unfold reply
  (repeat' split) <;> simp

@[simp] theorem replyKept_frame (h : Hdr) (type : Nat) (status : Nat) (body : List Word) (s : State) :
    (replyKept h type status body s).pending = s.pending ∧ (replyKept h type status body s).mem = s.mem ∧ (replyKept h type status body s).flash = s.flash := by
  unfold replyKept
  (repeat' split) <;> simp

@[simp] theorem resendReply_frame (v : Via) (x : Session) (ws : List Word) (s : State) :
    (resendReply v x ws s).pending = s.pending ∧ (resendReply v x ws s).mem = s.mem ∧ (resendReply v x ws s).flash = s.flash := by
  unfold resendReply
  (repeat' split) <;> simp

@[simp] theorem extendLease_frame (st : StationId) (arrival : Nat) (s : State) :
    (extendLease st arrival s).pending = s.pending ∧ (extendLease st arrival s).mem = s.mem ∧ (extendLease st arrival s).flash = s.flash := by
  unfold extendLease
  (repeat' split) <;> simp

@[simp] theorem withLease_pending (st : StationId) (arrival : Nat) (f : State → Answer) (s : State)
    (hf : ∀ t, (f t).2.2.pending = t.pending) : (withLease st arrival f s).2.2.pending = s.pending := by
  unfold withLease
  dsimp only
  split <;> simp [hf]

@[simp] theorem withLease_mem (st : StationId) (arrival : Nat) (f : State → Answer) (s : State)
    (hf : ∀ t, (f t).2.2.mem = t.mem) : (withLease st arrival f s).2.2.mem = s.mem := by
  unfold withLease
  dsimp only
  split <;> simp [hf]

@[simp] theorem withLease_flash (st : StationId) (arrival : Nat) (f : State → Answer) (s : State)
    (hf : ∀ t, (f t).2.2.flash = t.flash) : (withLease st arrival f s).2.2.flash = s.flash := by
  unfold withLease
  dsimp only
  split <;> simp [hf]

@[simp] theorem withLease_memOk (st : StationId) (arrival : Nat) (f : State → Answer) (s : State) (hm : MemOk s.mem)
    (hf : ∀ t, MemOk t.mem → MemOk (f t).2.2.mem) : MemOk (withLease st arrival f s).2.2.mem := by
  unfold withLease
  dsimp only
  split <;> exact hf _ (by simp [hm])

@[simp] theorem withLease_flashOk (st : StationId) (arrival : Nat) (f : State → Answer) (s : State) (hm : FlashOk s.flash)
    (hf : ∀ t, FlashOk t.flash → FlashOk (f t).2.2.flash) : FlashOk (withLease st arrival f s).2.2.flash := by
  unfold withLease
  dsimp only
  split <;> exact hf _ (by simp [hm])

@[simp] theorem notedAny_frame (h : Hdr) (s : State) :
    (notedAny h s).pending = s.pending ∧ (notedAny h s).mem = s.mem ∧ (notedAny h s).flash = s.flash := by
  unfold notedAny
  (repeat' split) <;> simp

@[simp] theorem serveAt_pending (arrival : Nat) (h : Hdr) (type : Nat) (dark : Bool) (f : State → Answer) (s : State)
    (hf : ∀ t, (f t).2.2.pending = t.pending) : (serveAt arrival h type dark f s).pending = s.pending := by
  unfold serveAt
  dsimp only
  repeat' split
  all_goals first
    | rfl
    | (simp [hf]; done)

@[simp] theorem serveAt_mem (arrival : Nat) (h : Hdr) (type : Nat) (dark : Bool) (f : State → Answer) (s : State)
    (hf : ∀ t, (f t).2.2.mem = t.mem) : (serveAt arrival h type dark f s).mem = s.mem := by
  unfold serveAt
  dsimp only
  repeat' split
  all_goals first
    | rfl
    | (simp [hf]; done)

@[simp] theorem serveAt_flash (arrival : Nat) (h : Hdr) (type : Nat) (dark : Bool) (f : State → Answer) (s : State)
    (hf : ∀ t, (f t).2.2.flash = t.flash) : (serveAt arrival h type dark f s).flash = s.flash := by
  unfold serveAt
  dsimp only
  repeat' split
  all_goals first
    | rfl
    | (simp [hf]; done)

@[simp] theorem serveAny_pending (h : Hdr) (type : Nat) (dark : Bool) (f : State → Answer) (s : State)
    (hf : ∀ t, (f t).2.2.pending = t.pending) : (serveAny h type dark f s).pending = s.pending := by
  exact serveAt_pending _ _ _ _ f s hf

@[simp] theorem serveAny_mem (h : Hdr) (type : Nat) (dark : Bool) (f : State → Answer) (s : State)
    (hf : ∀ t, (f t).2.2.mem = t.mem) : (serveAny h type dark f s).mem = s.mem := by
  exact serveAt_mem _ _ _ _ f s hf

@[simp] theorem serveAny_flash (h : Hdr) (type : Nat) (dark : Bool) (f : State → Answer) (s : State)
    (hf : ∀ t, (f t).2.2.flash = t.flash) : (serveAny h type dark f s).flash = s.flash := by
  exact serveAt_flash _ _ _ _ f s hf

@[simp] theorem sessionBad_frame (v : Via) (st : StationId) (seq : Nat) (s : State) :
    (sessionBad v st seq s).pending = s.pending ∧ (sessionBad v st seq s).mem = s.mem ∧ (sessionBad v st seq s).flash = s.flash := by
  unfold sessionBad
  (repeat' split) <;> simp

@[simp] theorem execSession_frame (v : Via) (st : StationId) (pk : List Byte) (ek : List Byte) (sig : List Byte) (s : State) :
    (outState (execSession v st pk ek sig s)).pending = s.pending ∧ (outState (execSession v st pk ek sig s)).mem = s.mem ∧ (outState (execSession v st pk ek sig s)).flash = s.flash := by
  unfold execSession
  dsimp only
  (repeat' split) <;> simp

@[simp] theorem execDiscardedDatagram_frame (v : Via) (bs : List Byte) (s : State) :
    (outState (execDiscardedDatagram v bs s)).pending = s.pending ∧ (outState (execDiscardedDatagram v bs s)).mem = s.mem ∧ (outState (execDiscardedDatagram v bs s)).flash = s.flash := by
  unfold execDiscardedDatagram
  (repeat' split) <;> simp

@[simp] theorem changeOwner_frame (new : Option StationId) (cause : Nat) (s : State) :
    (changeOwner new cause s).pending = s.pending ∧ (changeOwner new cause s).mem = s.mem ∧ (changeOwner new cause s).flash = s.flash := by
  unfold changeOwner
  (repeat' split) <;> simp

@[simp] theorem claimEffect_frame (st : StationId) (prio : Nat) (s : State) :
    (claimEffect st prio s).2.2.pending = s.pending ∧ (claimEffect st prio s).2.2.mem = s.mem ∧ (claimEffect st prio s).2.2.flash = s.flash := by
  unfold claimEffect
  dsimp only
  (repeat' split) <;> simp

@[simp] theorem applyClaim_frame (arrival : Nat) (h : Hdr) (prio : Nat) (s : State) :
    (applyClaim arrival h prio s).pending = s.pending ∧ (applyClaim arrival h prio s).mem = s.mem ∧ (applyClaim arrival h prio s).flash = s.flash := by
  unfold applyClaim
  (repeat' split) <;> simp

@[simp] theorem execClaim_frame (h : Hdr) (prio : Nat) (s : State) :
    (outState (execClaim h prio s)).pending = s.pending ∧ (outState (execClaim h prio s)).mem = s.mem ∧ (outState (execClaim h prio s)).flash = s.flash := by
  unfold execClaim
  (repeat' split) <;> simp

@[simp] theorem execElectionWindowEnd_frame (s : State) :
    (outState (execElectionWindowEnd s)).pending = s.pending ∧ (outState (execElectionWindowEnd s)).mem = s.mem ∧ (outState (execElectionWindowEnd s)).flash = s.flash := by
  unfold execElectionWindowEnd
  dsimp only
  (repeat' split) <;> simp

@[simp] theorem execClaimExpiry_frame (st : StationId) (s : State) :
    (outState (execClaimExpiry st s)).pending = s.pending ∧ (outState (execClaimExpiry st s)).mem = s.mem ∧ (outState (execClaimExpiry st s)).flash = s.flash := by
  unfold execClaimExpiry
  (repeat' split) <;> simp

@[simp] theorem execLeaseLapse_frame (s : State) :
    (outState (execLeaseLapse s)).pending = s.pending ∧ (outState (execLeaseLapse s)).mem = s.mem ∧ (outState (execLeaseLapse s)).flash = s.flash := by
  unfold execLeaseLapse
  (repeat' split) <;> simp

@[simp] theorem sendEvent_frame (e : Ev) (s : State) :
    (sendEvent e s).pending = s.pending ∧ (sendEvent e s).mem = s.mem ∧ (sendEvent e s).flash = s.flash := by
  unfold sendEvent
  (repeat' split) <;> simp

@[simp] theorem execEvent_frame (s : State) :
    (outState (execEvent s)).pending = s.pending ∧ (outState (execEvent s)).mem = s.mem ∧ (outState (execEvent s)).flash = s.flash := by
  unfold execEvent
  (repeat' split) <;> simp

@[simp] theorem execEventResend_frame (s : State) :
    (outState (execEventResend s)).pending = s.pending ∧ (outState (execEventResend s)).mem = s.mem ∧ (outState (execEventResend s)).flash = s.flash := by
  unfold execEventResend
  dsimp only
  (repeat' split) <;> simp

theorem takeQp_frame (h1 : Bool) (qp : Nat) (s t : State) (h : takeQp h1 qp s = some t) :
    t.pending = s.pending ∧ t.mem = s.mem ∧ t.flash = s.flash := by
  unfold takeQp at h
  split at h
  · cases h; exact ⟨rfl, rfl, rfl⟩
  · split at h
    · exact nomatch h
    · cases h; exact ⟨rfl, rfl, rfl⟩

@[simp] theorem rdmaSend_frame (h1 : Bool) (qp win : Nat) (data : List Byte) (s : State) :
    (rdmaSend h1 qp win data s).pending = s.pending ∧ (rdmaSend h1 qp win data s).mem = s.mem ∧ (rdmaSend h1 qp win data s).flash = s.flash :=
  ⟨foldl_pending _ (fun t x => by simp) _ _, foldl_mem _ (fun t x => by simp) _ _, foldl_flash _ (fun t x => by simp) _ _⟩

@[simp] theorem rdmaDeny_frame (h1 : Bool) (qp win : Nat) (s : State) :
    (rdmaDeny h1 qp win s).pending = s.pending ∧ (rdmaDeny h1 qp win s).mem = s.mem ∧ (rdmaDeny h1 qp win s).flash = s.flash := by
  simp [rdmaDeny]

theorem execRdmaWrite_kept (h1 : Bool) (qp win offset : Nat) (data : List Byte) (s : State) :
    Kept s (outState (execRdmaWrite h1 qp win offset data s)) := by
  unfold execRdmaWrite
  split
  · have k := takeQp_frame _ _ _ _ ‹takeQp h1 qp s = some _›
    (repeat' split) <;> exact ⟨by simp [k], by simp [k], fun hm => by simp [k, hm]⟩
  · exact .refl s

@[simp] theorem execRdmaWrite_frame (h1 : Bool) (qp win offset : Nat) (data : List Byte) (s : State) :
    (outState (execRdmaWrite h1 qp win offset data s)).pending = s.pending ∧ (outState (execRdmaWrite h1 qp win offset data s)).flash = s.flash :=
  ⟨(execRdmaWrite_kept h1 qp win offset data s).1, (execRdmaWrite_kept h1 qp win offset data s).2.1⟩

@[simp] theorem execRdmaWrite_memOk (h1 : Bool) (qp win offset : Nat) (data : List Byte) (s : State) (hm : MemOk s.mem) :
    MemOk (outState (execRdmaWrite h1 qp win offset data s)).mem :=
  (execRdmaWrite_kept h1 qp win offset data s).2.2 hm

@[simp] theorem execRdmaRead_frame (h1 : Bool) (qp win offset len : Nat) (s : State) :
    (outState (execRdmaRead h1 qp win offset len s)).pending = s.pending ∧ (outState (execRdmaRead h1 qp win offset len s)).mem = s.mem ∧
    (outState (execRdmaRead h1 qp win offset len s)).flash = s.flash := by
  unfold execRdmaRead
  split
  · have k := takeQp_frame _ _ _ _ ‹takeQp h1 qp s = some _›
    (repeat' split) <;> simp [k]
  · exact ⟨rfl, rfl, rfl⟩

/-! ### Machine/Orders.lean -/

@[simp] theorem writeReg_frame (who : Who) (addr : Nat) (v : Word) (s : State) :
    (writeReg who addr v s).2.pending = s.pending ∧ (writeReg who addr v s).2.flash = s.flash := by
  unfold writeReg
  dsimp only
  (repeat' split) <;> simp

@[simp] theorem writeReg_memOk (who : Who) (addr : Nat) (v : Word) (s : State) (hm : MemOk s.mem) : MemOk (writeReg who addr v s).2.mem := by
  unfold writeReg
  dsimp only
  (repeat' split) <;> simp [hm]

@[simp] theorem readEffect_frame (addr : Nat) (s : State) :
    (readEffect addr s).2.2.pending = s.pending ∧ (readEffect addr s).2.2.mem = s.mem ∧ (readEffect addr s).2.2.flash = s.flash := by
  unfold readEffect
  (repeat' split) <;> simp

@[simp] theorem writeEffect_frame (addr : Nat) (v : Word) (s : State) :
    (writeEffect addr v s).2.pending = s.pending ∧ (writeEffect addr v s).2.flash = s.flash := by
  unfold writeEffect
  (repeat' split) <;> simp

@[simp] theorem writeEffect_memOk (addr : Nat) (v : Word) (s : State) (hm : MemOk s.mem) : MemOk (writeEffect addr v s).2.mem := by
  unfold writeEffect
  (repeat' split) <;> simp [hm]

@[simp] theorem assignOrder_frame (n : CtxId) (ranges : List (Nat × Nat)) (s : State) :
    (assignOrder n ranges s).2.pending = s.pending ∧ (assignOrder n ranges s).2.mem = s.mem ∧ (assignOrder n ranges s).2.flash = s.flash := by
  unfold assignOrder
  dsimp only
  (repeat' split) <;> simp

@[simp] theorem privilegeOrder_frame (n : CtxId) (priv : Bool) (s : State) :
    (privilegeOrder n priv s).2.pending = s.pending ∧ (privilegeOrder n priv s).2.mem = s.mem ∧ (privilegeOrder n priv s).2.flash = s.flash := by
  unfold privilegeOrder
  dsimp only
  (repeat' split) <;> simp

@[simp] theorem quarantineOrder_frame (station : StationId) (core : Nat) (s : State) :
    (quarantineOrder station core s).2.pending = s.pending ∧ (quarantineOrder station core s).2.flash = s.flash := by
  unfold quarantineOrder
  (repeat' split) <;> simp

@[simp] theorem quarantineOrder_memOk (station : StationId) (core : Nat) (s : State) (hm : MemOk s.mem) : MemOk (quarantineOrder station core s).2.mem := by
  unfold quarantineOrder
  (repeat' split) <;> simp [hm]

@[simp] theorem windowOrder_frame (win : Nat) (n : CtxId) (base : Nat) (len : Nat) (dir : Bool) (pubCtr : Nat) (s : State) :
    (windowOrder win n base len dir pubCtr s).2.2.pending = s.pending ∧ (windowOrder win n base len dir pubCtr s).2.2.mem = s.mem ∧ (windowOrder win n base len dir pubCtr s).2.2.flash = s.flash := by
  unfold windowOrder
  dsimp only
  (repeat' split) <;> simp

@[simp] theorem admitOrder_frame (n : CtxId) (manifest : Nat) (shards : List Nat) (s : State) :
    (admitOrder n manifest shards s).2.pending = s.pending ∧ (admitOrder n manifest shards s).2.mem = s.mem ∧ (admitOrder n manifest shards s).2.flash = s.flash := by
  unfold admitOrder
  (repeat' split) <;> simp

@[simp] theorem pubReadEffect_frame (win : Nat) (offset : Nat) (len : Nat) (readySeq : Nat) (s : State) :
    (pubReadEffect win offset len readySeq s).2.2.pending = s.pending ∧ (pubReadEffect win offset len readySeq s).2.2.mem = s.mem ∧ (pubReadEffect win offset len readySeq s).2.2.flash = s.flash := by
  unfold pubReadEffect
  (repeat' split) <;> simp

@[simp] theorem pubRelease_frame (win : Nat) (readySeq : Nat) (s : State) :
    (pubRelease win readySeq s).2.pending = s.pending ∧ (pubRelease win readySeq s).2.mem = s.mem ∧ (pubRelease win readySeq s).2.flash = s.flash := by
  unfold pubRelease
  (repeat' split) <;> simp

@[simp] theorem journalEffect_frame (offset : Nat) (len : Nat) (s : State) :
    (journalEffect offset len s).2.2.pending = s.pending ∧ (journalEffect offset len s).2.2.mem = s.mem ∧ (journalEffect offset len s).2.2.flash = s.flash := by
  unfold journalEffect
  (repeat' split) <;> simp

@[simp] theorem rustEffect_frame (seq : Nat) (s : State) :
    (rustEffect seq s).2.2.pending = s.pending ∧ (rustEffect seq s).2.2.mem = s.mem ∧ (rustEffect seq s).2.2.flash = s.flash := by
  unfold rustEffect
  (repeat' split) <;> simp

@[simp] theorem queryEffect_frame (s : State) :
    (queryEffect s).2.2.pending = s.pending ∧ (queryEffect s).2.2.mem = s.mem ∧ (queryEffect s).2.2.flash = s.flash := by
  unfold queryEffect
  (repeat' split) <;> simp

@[simp] theorem wakeOrder_frame (target : Nat) (all : Bool) (s : State) :
    (wakeOrder target all s).2.pending = s.pending ∧ (wakeOrder target all s).2.mem = s.mem ∧ (wakeOrder target all s).2.flash = s.flash := by
  unfold wakeOrder
  (repeat' split) <;> simp

@[simp] theorem localWake_frame (clearSeq : Bool) (s : State) :
    (localWake clearSeq s).2.pending = s.pending ∧ (localWake clearSeq s).2.mem = s.mem ∧ (localWake clearSeq s).2.flash = s.flash := by
  unfold localWake
  dsimp only
  (repeat' split) <;> simp

@[simp] theorem attestEffect_frame (nonce : List Byte) (s : State) :
    (attestEffect nonce s).2.2.pending = s.pending ∧ (attestEffect nonce s).2.2.mem = s.mem ∧ (attestEffect nonce s).2.2.flash = s.flash := by
  unfold attestEffect
  (repeat' split) <;> simp

@[simp] theorem plain_snd (w : Wrote) : (plain w).2.2 = w.2 := rfl

@[simp] theorem ackEvents_frame (seq : Nat) (s : State) :
    (ackEvents seq s).pending = s.pending ∧ (ackEvents seq s).mem = s.mem ∧ (ackEvents seq s).flash = s.flash := by
  unfold ackEvents
  dsimp only
  split <;> simp

@[simp] theorem orderEffect_frame (h : Hdr) (o : Order) (s : State) :
    (orderEffect h o s).2.2.pending = s.pending := by
  unfold orderEffect
  (repeat' split) <;> simp

@[simp] theorem orderEffect_memOk (h : Hdr) (o : Order) (s : State) (hm : MemOk s.mem) : MemOk (orderEffect h o s).2.2.mem := by
  unfold orderEffect
  (repeat' split) <;> simp [hm]

@[simp] theorem orderEffect_flashOk (h : Hdr) (o : Order) (s : State) (hm : FlashOk s.flash) : FlashOk (orderEffect h o s).2.2.flash := by
  unfold orderEffect
  (repeat' split) <;> simp [hm]

@[simp] theorem replyTarget_frame (h : Hdr) (o : Order) (status : Nat) (s : State) :
    (replyTarget h o status s).pending = s.pending ∧ (replyTarget h o status s).mem = s.mem ∧ (replyTarget h o status s).flash = s.flash := by
  unfold replyTarget
  (repeat' split) <;> simp

@[simp] theorem applyAt_frame (arrival : Nat) (h : Hdr) (o : Order) (s : State) :
    (applyAt arrival h o s).pending = s.pending := by
  unfold applyAt
  dsimp only
  repeat' split
  all_goals first
    | rfl
    | (simp; done)

@[simp] theorem applyAt_memOk (arrival : Nat) (h : Hdr) (o : Order) (s : State) (hm : MemOk s.mem) : MemOk (applyAt arrival h o s).mem := by
  unfold applyAt
  dsimp only
  repeat' split
  all_goals first
    | exact hm
    | (simp +contextual [hm]; done)

@[simp] theorem applyAt_flashOk (arrival : Nat) (h : Hdr) (o : Order) (s : State) (hm : FlashOk s.flash) : FlashOk (applyAt arrival h o s).flash := by
  unfold applyAt
  dsimp only
  repeat' split
  all_goals first
    | exact hm
    | (simp +contextual [hm]; done)

@[simp] theorem applyOwner_frame (h : Hdr) (o : Order) (s : State) :
    (applyOwner h o s).pending = s.pending := by
  unfold applyOwner
  (repeat' split) <;> simp

@[simp] theorem applyOwner_memOk (h : Hdr) (o : Order) (s : State) (hm : MemOk s.mem) : MemOk (applyOwner h o s).mem := by
  unfold applyOwner
  (repeat' split) <;> simp [hm]

@[simp] theorem applyOwner_flashOk (h : Hdr) (o : Order) (s : State) (hm : FlashOk s.flash) : FlashOk (applyOwner h o s).flash := by
  unfold applyOwner
  (repeat' split) <;> simp [hm]

@[simp] theorem applyWrite_frame (a : Access) (addr : Nat) (v : Word) (s : State) :
    (applyWrite a addr v s).pending = s.pending := by
  unfold applyWrite
  (repeat' split) <;> simp

@[simp] theorem applyWrite_memOk (a : Access) (addr : Nat) (v : Word) (s : State) (hm : MemOk s.mem) : MemOk (applyWrite a addr v s).mem := by
  unfold applyWrite
  (repeat' split) <;> simp [hm]

@[simp] theorem applyWrite_flashOk (a : Access) (addr : Nat) (v : Word) (s : State) (hm : FlashOk s.flash) : FlashOk (applyWrite a addr v s).flash := by
  unfold applyWrite
  (repeat' split) <;> simp [hm]

@[simp] theorem applyMsg_frame (t0 : Nat) (x : OrderMsg) (s : State) :
    (applyMsg t0 x s).pending = s.pending := by
  unfold applyMsg
  (repeat' split) <;> simp

@[simp] theorem applyMsg_memOk (t0 : Nat) (x : OrderMsg) (s : State) (hm : MemOk s.mem) : MemOk (applyMsg t0 x s).mem := by
  unfold applyMsg
  (repeat' split) <;> simp [hm]

@[simp] theorem applyMsg_flashOk (t0 : Nat) (x : OrderMsg) (s : State) (hm : FlashOk s.flash) : FlashOk (applyMsg t0 x s).flash := by
  unfold applyMsg
  (repeat' split) <;> simp [hm]

@[simp] theorem applyOrders_frame (f t0 : Nat) (l : List OrderMsg) (s : State) :
    (applyOrders f t0 l s).pending = s.pending := by
  induction f generalizing l s with
  | zero => rfl
  | succ f ih =>
    unfold applyOrders
    dsimp only
    (repeat' split) <;> simp [ih]

@[simp] theorem applyOrders_memOk (f t0 : Nat) (l : List OrderMsg) (s : State) (hm : MemOk s.mem) :
    MemOk (applyOrders f t0 l s).mem := by
  induction f generalizing l s with
  | zero => exact hm
  | succ f ih =>
    unfold applyOrders
    dsimp only
    split
    · exact foldl_memOk _ (fun t x h => applyMsg_memOk _ _ _ h) _ _ hm
    · split
      · exact ih _ _ (applyMsg_memOk _ _ _ hm)
      · exact ih _ _ (foldl_memOk _ (fun t x h => applyMsg_memOk _ _ _ h) _ _ (applyMsg_memOk _ _ _ hm))

@[simp] theorem applyOrders_flashOk (f t0 : Nat) (l : List OrderMsg) (s : State) (hm : FlashOk s.flash) :
    FlashOk (applyOrders f t0 l s).flash := by
  induction f generalizing l s with
  | zero => exact hm
  | succ f ih =>
    unfold applyOrders
    dsimp only
    split
    · exact foldl_flashOk _ (fun t x h => applyMsg_flashOk _ _ _ h) _ _ hm
    · split
      · exact ih _ _ (applyMsg_flashOk _ _ _ hm)
      · exact ih _ _ (foldl_flashOk _ (fun t x h => applyMsg_flashOk _ _ _ h) _ _ (applyMsg_flashOk _ _ _ hm))

@[simp] theorem execMessageTimeEnd_frame (orders : List OrderMsg) (claims : List ClaimMsg) (s : State) :
    (outState (execMessageTimeEnd orders claims s)).pending = s.pending := by
  unfold execMessageTimeEnd
  (repeat' split) <;> simp

@[simp] theorem execMessageTimeEnd_memOk (orders : List OrderMsg) (claims : List ClaimMsg) (s : State) (hm : MemOk s.mem) : MemOk (outState (execMessageTimeEnd orders claims s)).mem := by
  unfold execMessageTimeEnd
  (repeat' split) <;> simp [hm]

@[simp] theorem execMessageTimeEnd_flashOk (orders : List OrderMsg) (claims : List ClaimMsg) (s : State) (hm : FlashOk s.flash) : FlashOk (outState (execMessageTimeEnd orders claims s)).flash := by
  unfold execMessageTimeEnd
  dsimp only [outState_next]
  exact foldl_flashOk _ (fun t x h => by simp [h]) _ _ (by simp [hm])

@[simp] theorem execRenew_frame (h : Hdr) (s : State) :
    (outState (execRenew h s)).pending = s.pending := by
  unfold execRenew
  (repeat' split) <;> simp

@[simp] theorem execRenew_memOk (h : Hdr) (s : State) (hm : MemOk s.mem) : MemOk (outState (execRenew h s)).mem := by
  unfold execRenew
  (repeat' split) <;> simp [hm]

@[simp] theorem execRenew_flashOk (h : Hdr) (s : State) (hm : FlashOk s.flash) : FlashOk (outState (execRenew h s)).flash := by
  unfold execRenew
  (repeat' split) <;> simp [hm]

@[simp] theorem execHandover_frame (h : Hdr) (target : Nat) (s : State) :
    (outState (execHandover h target s)).pending = s.pending := by
  unfold execHandover
  (repeat' split) <;> simp

@[simp] theorem execHandover_memOk (h : Hdr) (target : Nat) (s : State) (hm : MemOk s.mem) : MemOk (outState (execHandover h target s)).mem := by
  unfold execHandover
  (repeat' split) <;> simp [hm]

@[simp] theorem execHandover_flashOk (h : Hdr) (target : Nat) (s : State) (hm : FlashOk s.flash) : FlashOk (outState (execHandover h target s)).flash := by
  unfold execHandover
  (repeat' split) <;> simp [hm]

@[simp] theorem execReleaseOwn_frame (h : Hdr) (s : State) :
    (outState (execReleaseOwn h s)).pending = s.pending := by
  unfold execReleaseOwn
  (repeat' split) <;> simp

@[simp] theorem execReleaseOwn_memOk (h : Hdr) (s : State) (hm : MemOk s.mem) : MemOk (outState (execReleaseOwn h s)).mem := by
  unfold execReleaseOwn
  (repeat' split) <;> simp [hm]

@[simp] theorem execReleaseOwn_flashOk (h : Hdr) (s : State) (hm : FlashOk s.flash) : FlashOk (outState (execReleaseOwn h s)).flash := by
  unfold execReleaseOwn
  (repeat' split) <;> simp [hm]

@[simp] theorem execLoad_frame (h : Hdr) (n : CtxId) (win : Nat) (seed : Nat) (first : Nat) (s : State) :
    (outState (execLoad h n win seed first s)).pending = s.pending := by
  unfold execLoad
  (repeat' split) <;> simp

@[simp] theorem execLoad_memOk (h : Hdr) (n : CtxId) (win : Nat) (seed : Nat) (first : Nat) (s : State) (hm : MemOk s.mem) : MemOk (outState (execLoad h n win seed first s)).mem := by
  unfold execLoad
  (repeat' split) <;> simp [hm]

@[simp] theorem execLoad_flashOk (h : Hdr) (n : CtxId) (win : Nat) (seed : Nat) (first : Nat) (s : State) (hm : FlashOk s.flash) : FlashOk (outState (execLoad h n win seed first s)).flash := by
  unfold execLoad
  (repeat' split) <;> simp [hm]

@[simp] theorem execTransitLoad_frame (h : Hdr) (n : CtxId) (win : Nat) (s : State) :
    (outState (execTransitLoad h n win s)).pending = s.pending := by
  unfold execTransitLoad
  (repeat' split) <;> simp

@[simp] theorem execTransitLoad_memOk (h : Hdr) (n : CtxId) (win : Nat) (s : State) (hm : MemOk s.mem) : MemOk (outState (execTransitLoad h n win s)).mem := by
  unfold execTransitLoad
  (repeat' split) <;> simp [hm]

@[simp] theorem execTransitLoad_flashOk (h : Hdr) (n : CtxId) (win : Nat) (s : State) (hm : FlashOk s.flash) : FlashOk (outState (execTransitLoad h n win s)).flash := by
  unfold execTransitLoad
  (repeat' split) <;> simp [hm]

@[simp] theorem execStart_frame (h : Hdr) (n : CtxId) (epoch : Nat) (restore : Bool) (gen : BitVec 32) (s : State) :
    (outState (execStart h n epoch restore gen s)).pending = s.pending := by
  unfold execStart
  (repeat' split) <;> simp

@[simp] theorem execStart_memOk (h : Hdr) (n : CtxId) (epoch : Nat) (restore : Bool) (gen : BitVec 32) (s : State) (hm : MemOk s.mem) : MemOk (outState (execStart h n epoch restore gen s)).mem := by
  unfold execStart
  (repeat' split) <;> simp [hm]

@[simp] theorem execStart_flashOk (h : Hdr) (n : CtxId) (epoch : Nat) (restore : Bool) (gen : BitVec 32) (s : State) (hm : FlashOk s.flash) : FlashOk (outState (execStart h n epoch restore gen s)).flash := by
  unfold execStart
  (repeat' split) <;> simp [hm]

@[simp] theorem execHalt_frame (h : Hdr) (n : CtxId) (s : State) :
    (outState (execHalt h n s)).pending = s.pending := by
  unfold execHalt
  (repeat' split) <;> simp

@[simp] theorem execHalt_memOk (h : Hdr) (n : CtxId) (s : State) (hm : MemOk s.mem) : MemOk (outState (execHalt h n s)).mem := by
  unfold execHalt
  (repeat' split) <;> simp [hm]

@[simp] theorem execHalt_flashOk (h : Hdr) (n : CtxId) (s : State) (hm : FlashOk s.flash) : FlashOk (outState (execHalt h n s)).flash := by
  unfold execHalt
  (repeat' split) <;> simp [hm]

@[simp] theorem execResume_frame (h : Hdr) (n : CtxId) (s : State) :
    (outState (execResume h n s)).pending = s.pending := by
  unfold execResume
  (repeat' split) <;> simp

@[simp] theorem execResume_memOk (h : Hdr) (n : CtxId) (s : State) (hm : MemOk s.mem) : MemOk (outState (execResume h n s)).mem := by
  unfold execResume
  (repeat' split) <;> simp [hm]

@[simp] theorem execResume_flashOk (h : Hdr) (n : CtxId) (s : State) (hm : FlashOk s.flash) : FlashOk (outState (execResume h n s)).flash := by
  unfold execResume
  (repeat' split) <;> simp [hm]

@[simp] theorem execUnload_frame (h : Hdr) (n : CtxId) (err0 : BitVec 256) (err1 : BitVec 256) (s : State) :
    (outState (execUnload h n err0 err1 s)).pending = s.pending := by
  unfold execUnload
  (repeat' split) <;> simp

@[simp] theorem execUnload_memOk (h : Hdr) (n : CtxId) (err0 : BitVec 256) (err1 : BitVec 256) (s : State) (hm : MemOk s.mem) : MemOk (outState (execUnload h n err0 err1 s)).mem := by
  unfold execUnload
  (repeat' split) <;> simp [hm]

@[simp] theorem execUnload_flashOk (h : Hdr) (n : CtxId) (err0 : BitVec 256) (err1 : BitVec 256) (s : State) (hm : FlashOk s.flash) : FlashOk (outState (execUnload h n err0 err1 s)).flash := by
  unfold execUnload
  (repeat' split) <;> simp [hm]

@[simp] theorem execReplay_frame (h : Hdr) (n : CtxId) (s : State) :
    (outState (execReplay h n s)).pending = s.pending := by
  unfold execReplay
  (repeat' split) <;> simp

@[simp] theorem execReplay_memOk (h : Hdr) (n : CtxId) (s : State) (hm : MemOk s.mem) : MemOk (outState (execReplay h n s)).mem := by
  unfold execReplay
  (repeat' split) <;> simp [hm]

@[simp] theorem execReplay_flashOk (h : Hdr) (n : CtxId) (s : State) (hm : FlashOk s.flash) : FlashOk (outState (execReplay h n s)).flash := by
  unfold execReplay
  (repeat' split) <;> simp [hm]

@[simp] theorem execAssign_frame (h : Hdr) (n : CtxId) (ranges : List (Nat × Nat)) (s : State) :
    (outState (execAssign h n ranges s)).pending = s.pending := by
  unfold execAssign
  (repeat' split) <;> simp

@[simp] theorem execAssign_memOk (h : Hdr) (n : CtxId) (ranges : List (Nat × Nat)) (s : State) (hm : MemOk s.mem) : MemOk (outState (execAssign h n ranges s)).mem := by
  unfold execAssign
  (repeat' split) <;> simp [hm]

@[simp] theorem execAssign_flashOk (h : Hdr) (n : CtxId) (ranges : List (Nat × Nat)) (s : State) (hm : FlashOk s.flash) : FlashOk (outState (execAssign h n ranges s)).flash := by
  unfold execAssign
  (repeat' split) <;> simp [hm]

@[simp] theorem execPrivilege_frame (h : Hdr) (n : CtxId) (priv : Bool) (s : State) :
    (outState (execPrivilege h n priv s)).pending = s.pending := by
  unfold execPrivilege
  (repeat' split) <;> simp

@[simp] theorem execPrivilege_memOk (h : Hdr) (n : CtxId) (priv : Bool) (s : State) (hm : MemOk s.mem) : MemOk (outState (execPrivilege h n priv s)).mem := by
  unfold execPrivilege
  (repeat' split) <;> simp [hm]

@[simp] theorem execPrivilege_flashOk (h : Hdr) (n : CtxId) (priv : Bool) (s : State) (hm : FlashOk s.flash) : FlashOk (outState (execPrivilege h n priv s)).flash := by
  unfold execPrivilege
  (repeat' split) <;> simp [hm]

@[simp] theorem execQuarantine_frame (h : Hdr) (core : Nat) (s : State) :
    (outState (execQuarantine h core s)).pending = s.pending := by
  unfold execQuarantine
  (repeat' split) <;> simp

@[simp] theorem execQuarantine_memOk (h : Hdr) (core : Nat) (s : State) (hm : MemOk s.mem) : MemOk (outState (execQuarantine h core s)).mem := by
  unfold execQuarantine
  (repeat' split) <;> simp [hm]

@[simp] theorem execQuarantine_flashOk (h : Hdr) (core : Nat) (s : State) (hm : FlashOk s.flash) : FlashOk (outState (execQuarantine h core s)).flash := by
  unfold execQuarantine
  (repeat' split) <;> simp [hm]

@[simp] theorem execWindow_frame (h : Hdr) (win : Nat) (n : CtxId) (base : Nat) (len : Nat) (dir : Bool) (pubCtr : Nat) (s : State) :
    (outState (execWindow h win n base len dir pubCtr s)).pending = s.pending := by
  unfold execWindow
  (repeat' split) <;> simp

@[simp] theorem execWindow_memOk (h : Hdr) (win : Nat) (n : CtxId) (base : Nat) (len : Nat) (dir : Bool) (pubCtr : Nat) (s : State) (hm : MemOk s.mem) : MemOk (outState (execWindow h win n base len dir pubCtr s)).mem := by
  unfold execWindow
  (repeat' split) <;> simp [hm]

@[simp] theorem execWindow_flashOk (h : Hdr) (win : Nat) (n : CtxId) (base : Nat) (len : Nat) (dir : Bool) (pubCtr : Nat) (s : State) (hm : FlashOk s.flash) : FlashOk (outState (execWindow h win n base len dir pubCtr s)).flash := by
  unfold execWindow
  (repeat' split) <;> simp [hm]

@[simp] theorem execAdmit_frame (h : Hdr) (n : CtxId) (manifest : Nat) (shards : List Nat) (s : State) :
    (outState (execAdmit h n manifest shards s)).pending = s.pending := by
  unfold execAdmit
  (repeat' split) <;> simp

@[simp] theorem execAdmit_memOk (h : Hdr) (n : CtxId) (manifest : Nat) (shards : List Nat) (s : State) (hm : MemOk s.mem) : MemOk (outState (execAdmit h n manifest shards s)).mem := by
  unfold execAdmit
  (repeat' split) <;> simp [hm]

@[simp] theorem execAdmit_flashOk (h : Hdr) (n : CtxId) (manifest : Nat) (shards : List Nat) (s : State) (hm : FlashOk s.flash) : FlashOk (outState (execAdmit h n manifest shards s)).flash := by
  unfold execAdmit
  (repeat' split) <;> simp [hm]

@[simp] theorem execRestore_frame (h : Hdr) (n : CtxId) (shard : Nat) (win : Nat) (s : State) :
    (outState (execRestore h n shard win s)).pending = s.pending := by
  unfold execRestore
  (repeat' split) <;> simp

@[simp] theorem execRestore_memOk (h : Hdr) (n : CtxId) (shard : Nat) (win : Nat) (s : State) (hm : MemOk s.mem) : MemOk (outState (execRestore h n shard win s)).mem := by
  unfold execRestore
  (repeat' split) <;> simp [hm]

@[simp] theorem execRestore_flashOk (h : Hdr) (n : CtxId) (shard : Nat) (win : Nat) (s : State) (hm : FlashOk s.flash) : FlashOk (outState (execRestore h n shard win s)).flash := by
  unfold execRestore
  (repeat' split) <;> simp [hm]

@[simp] theorem execPubRelease_frame (h : Hdr) (win : Nat) (readySeq : Nat) (s : State) :
    (outState (execPubRelease h win readySeq s)).pending = s.pending := by
  unfold execPubRelease
  (repeat' split) <;> simp

@[simp] theorem execPubRelease_memOk (h : Hdr) (win : Nat) (readySeq : Nat) (s : State) (hm : MemOk s.mem) : MemOk (outState (execPubRelease h win readySeq s)).mem := by
  unfold execPubRelease
  (repeat' split) <;> simp [hm]

@[simp] theorem execPubRelease_flashOk (h : Hdr) (win : Nat) (readySeq : Nat) (s : State) (hm : FlashOk s.flash) : FlashOk (outState (execPubRelease h win readySeq s)).flash := by
  unfold execPubRelease
  (repeat' split) <;> simp [hm]

@[simp] theorem execCkptRead_frame (h : Hdr) (n : CtxId) (shard : Nat) (win : Nat) (s : State) :
    (outState (execCkptRead h n shard win s)).pending = s.pending := by
  unfold execCkptRead
  (repeat' split) <;> simp

@[simp] theorem execCkptRead_memOk (h : Hdr) (n : CtxId) (shard : Nat) (win : Nat) (s : State) (hm : MemOk s.mem) : MemOk (outState (execCkptRead h n shard win s)).mem := by
  unfold execCkptRead
  (repeat' split) <;> simp [hm]

@[simp] theorem execCkptRead_flashOk (h : Hdr) (n : CtxId) (shard : Nat) (win : Nat) (s : State) (hm : FlashOk s.flash) : FlashOk (outState (execCkptRead h n shard win s)).flash := by
  unfold execCkptRead
  (repeat' split) <;> simp [hm]

@[simp] theorem execWake_frame (h : Hdr) (target : Nat) (all : Bool) (s : State) :
    (outState (execWake h target all s)).pending = s.pending := by
  unfold execWake
  (repeat' split) <;> simp

@[simp] theorem execWake_memOk (h : Hdr) (target : Nat) (all : Bool) (s : State) (hm : MemOk s.mem) : MemOk (outState (execWake h target all s)).mem := by
  unfold execWake
  (repeat' split) <;> simp [hm]

@[simp] theorem execWake_flashOk (h : Hdr) (target : Nat) (all : Bool) (s : State) (hm : FlashOk s.flash) : FlashOk (outState (execWake h target all s)).flash := by
  unfold execWake
  (repeat' split) <;> simp [hm]

@[simp] theorem execEventAck_frame (h : Hdr) (seq : Nat) (s : State) :
    (outState (execEventAck h seq s)).pending = s.pending := by
  unfold execEventAck
  (repeat' split) <;> simp

@[simp] theorem execEventAck_memOk (h : Hdr) (seq : Nat) (s : State) (hm : MemOk s.mem) : MemOk (outState (execEventAck h seq s)).mem := by
  unfold execEventAck
  (repeat' split) <;> simp [hm]

@[simp] theorem execEventAck_flashOk (h : Hdr) (seq : Nat) (s : State) (hm : FlashOk s.flash) : FlashOk (outState (execEventAck h seq s)).flash := by
  unfold execEventAck
  (repeat' split) <;> simp [hm]

@[simp] theorem execLocalWake_frame (h : Hdr) (clearSeq : Bool) (s : State) :
    (outState (execLocalWake h clearSeq s)).pending = s.pending := by
  unfold execLocalWake
  (repeat' split) <;> simp

@[simp] theorem execLocalWake_memOk (h : Hdr) (clearSeq : Bool) (s : State) (hm : MemOk s.mem) : MemOk (outState (execLocalWake h clearSeq s)).mem := by
  unfold execLocalWake
  (repeat' split) <;> simp [hm]

@[simp] theorem execLocalWake_flashOk (h : Hdr) (clearSeq : Bool) (s : State) (hm : FlashOk s.flash) : FlashOk (outState (execLocalWake h clearSeq s)).flash := by
  unfold execLocalWake
  (repeat' split) <;> simp [hm]

@[simp] theorem execProgBegin_frame (h : Hdr) (s : State) :
    (outState (execProgBegin h s)).pending = s.pending := by
  unfold execProgBegin
  (repeat' split) <;> simp

@[simp] theorem execProgBegin_memOk (h : Hdr) (s : State) (hm : MemOk s.mem) : MemOk (outState (execProgBegin h s)).mem := by
  unfold execProgBegin
  (repeat' split) <;> simp [hm]

@[simp] theorem execProgBegin_flashOk (h : Hdr) (s : State) (hm : FlashOk s.flash) : FlashOk (outState (execProgBegin h s)).flash := by
  unfold execProgBegin
  (repeat' split) <;> simp [hm]

@[simp] theorem execProgWrite_frame (h : Hdr) (offset : Nat) (data : List Byte) (s : State) :
    (outState (execProgWrite h offset data s)).pending = s.pending := by
  unfold execProgWrite
  (repeat' split) <;> simp

@[simp] theorem execProgWrite_memOk (h : Hdr) (offset : Nat) (data : List Byte) (s : State) (hm : MemOk s.mem) : MemOk (outState (execProgWrite h offset data s)).mem := by
  unfold execProgWrite
  (repeat' split) <;> simp [hm]

@[simp] theorem execProgWrite_flashOk (h : Hdr) (offset : Nat) (data : List Byte) (s : State) (hm : FlashOk s.flash) : FlashOk (outState (execProgWrite h offset data s)).flash := by
  unfold execProgWrite
  (repeat' split) <;> simp [hm]

@[simp] theorem execProgEnd_frame (h : Hdr) (s : State) :
    (outState (execProgEnd h s)).pending = s.pending := by
  unfold execProgEnd
  (repeat' split) <;> simp

@[simp] theorem execProgEnd_memOk (h : Hdr) (s : State) (hm : MemOk s.mem) : MemOk (outState (execProgEnd h s)).mem := by
  unfold execProgEnd
  (repeat' split) <;> simp [hm]

@[simp] theorem execProgEnd_flashOk (h : Hdr) (s : State) (hm : FlashOk s.flash) : FlashOk (outState (execProgEnd h s)).flash := by
  unfold execProgEnd
  (repeat' split) <;> simp [hm]

@[simp] theorem execReboot_frame (h : Hdr) (s : State) :
    (outState (execReboot h s)).pending = s.pending := by
  unfold execReboot
  (repeat' split) <;> simp

@[simp] theorem execReboot_memOk (h : Hdr) (s : State) (hm : MemOk s.mem) : MemOk (outState (execReboot h s)).mem := by
  unfold execReboot
  (repeat' split) <;> simp [hm]

@[simp] theorem execReboot_flashOk (h : Hdr) (s : State) (hm : FlashOk s.flash) : FlashOk (outState (execReboot h s)).flash := by
  unfold execReboot
  (repeat' split) <;> simp [hm]

@[simp] theorem execRegRead_frame (h : Hdr) (addr : Word) (s : State) :
    (outState (execRegRead h addr s)).pending = s.pending ∧ (outState (execRegRead h addr s)).mem = s.mem ∧ (outState (execRegRead h addr s)).flash = s.flash := by
  unfold execRegRead
  (repeat' split) <;> simp

@[simp] theorem execIndNowNs_frame (h : Hdr) (s : State) :
    (outState (execIndNowNs h s)).pending = s.pending ∧ (outState (execIndNowNs h s)).mem = s.mem ∧ (outState (execIndNowNs h s)).flash = s.flash := by
  unfold execIndNowNs
  (repeat' split) <;> simp

@[simp] theorem execQuery_frame (h : Hdr) (s : State) :
    (outState (execQuery h s)).pending = s.pending ∧ (outState (execQuery h s)).mem = s.mem ∧ (outState (execQuery h s)).flash = s.flash := by
  unfold execQuery
  (repeat' split) <;> simp

@[simp] theorem execPubRead_frame (h : Hdr) (win : Nat) (offset : Nat) (len : Nat) (readySeq : Nat) (s : State) :
    (outState (execPubRead h win offset len readySeq s)).pending = s.pending ∧ (outState (execPubRead h win offset len readySeq s)).mem = s.mem ∧ (outState (execPubRead h win offset len readySeq s)).flash = s.flash := by
  unfold execPubRead
  (repeat' split) <;> simp

@[simp] theorem execJournalRead_frame (h : Hdr) (offset : Nat) (len : Nat) (s : State) :
    (outState (execJournalRead h offset len s)).pending = s.pending ∧ (outState (execJournalRead h offset len s)).mem = s.mem ∧ (outState (execJournalRead h offset len s)).flash = s.flash := by
  unfold execJournalRead
  (repeat' split) <;> simp

@[simp] theorem execRustRead_frame (h : Hdr) (seq : Nat) (s : State) :
    (outState (execRustRead h seq s)).pending = s.pending ∧ (outState (execRustRead h seq s)).mem = s.mem ∧ (outState (execRustRead h seq s)).flash = s.flash := by
  unfold execRustRead
  (repeat' split) <;> simp

@[simp] theorem execAttest_frame (h : Hdr) (nonce : List Byte) (s : State) :
    (outState (execAttest h nonce s)).pending = s.pending ∧ (outState (execAttest h nonce s)).mem = s.mem ∧ (outState (execAttest h nonce s)).flash = s.flash := by
  unfold execAttest
  (repeat' split) <;> simp

@[simp] theorem execCertRead_frame (h : Hdr) (s : State) :
    (outState (execCertRead h s)).pending = s.pending ∧ (outState (execCertRead h s)).mem = s.mem ∧ (outState (execCertRead h s)).flash = s.flash := by
  unfold execCertRead
  (repeat' split) <;> simp

@[simp] theorem forceFirst_frame (addr : Nat) (force : Option Word) (s : State) : (forceFirst addr force s).pending = s.pending := by
  unfold forceFirst
  split <;> simp

@[simp] theorem forceFirst_memOk (addr : Nat) (force : Option Word) (s : State) (hm : MemOk s.mem) : MemOk (forceFirst addr force s).mem := by
  unfold forceFirst
  split <;> simp [hm]

@[simp] theorem forceFirst_flashOk (addr : Nat) (force : Option Word) (s : State) (hm : FlashOk s.flash) : FlashOk (forceFirst addr force s).flash := by
  unfold forceFirst
  split <;> simp [hm]

@[simp] theorem execRegWrite_frame (a : Access) (addr : Word) (value : Word) (force : Option Word) (s : State) :
    (outState (execRegWrite a addr value force s)).pending = s.pending := by
  unfold execRegWrite
  (repeat' split) <;> simp

@[simp] theorem execRegWrite_memOk (a : Access) (addr : Word) (value : Word) (force : Option Word) (s : State) (hm : MemOk s.mem) : MemOk (outState (execRegWrite a addr value force s)).mem := by
  unfold execRegWrite
  (repeat' split) <;> simp [hm]

@[simp] theorem execRegWrite_flashOk (a : Access) (addr : Word) (value : Word) (force : Option Word) (s : State) (hm : FlashOk s.flash) : FlashOk (outState (execRegWrite a addr value force s)).flash := by
  unfold execRegWrite
  (repeat' split) <;> simp [hm]

@[simp] theorem execMgtCtxMode_frame (a : Access) (n : CtxId) (value : Word) (s : State) :
    (outState (execMgtCtxMode a n value s)).pending = s.pending := by
  unfold execMgtCtxMode
  (repeat' split) <;> simp

@[simp] theorem execMgtCtxMode_memOk (a : Access) (n : CtxId) (value : Word) (s : State) (hm : MemOk s.mem) : MemOk (outState (execMgtCtxMode a n value s)).mem := by
  unfold execMgtCtxMode
  (repeat' split) <;> simp [hm]

@[simp] theorem execMgtCtxMode_flashOk (a : Access) (n : CtxId) (value : Word) (s : State) (hm : FlashOk s.flash) : FlashOk (outState (execMgtCtxMode a n value s)).flash := by
  unfold execMgtCtxMode
  (repeat' split) <;> simp [hm]

@[simp] theorem execMeSplit_frame (a : Access) (core : CoreId) (value : Word) (s : State) :
    (outState (execMeSplit a core value s)).pending = s.pending := by
  unfold execMeSplit
  (repeat' split) <;> simp

@[simp] theorem execMeSplit_memOk (a : Access) (core : CoreId) (value : Word) (s : State) (hm : MemOk s.mem) : MemOk (outState (execMeSplit a core value s)).mem := by
  unfold execMeSplit
  (repeat' split) <;> simp [hm]

@[simp] theorem execMeSplit_flashOk (a : Access) (core : CoreId) (value : Word) (s : State) (hm : FlashOk s.flash) : FlashOk (outState (execMeSplit a core value s)).flash := by
  unfold execMeSplit
  (repeat' split) <;> simp [hm]

@[simp] theorem execMeDbgCtrl_frame (a : Access) (core : CoreId) (value : Word) (s : State) :
    (outState (execMeDbgCtrl a core value s)).pending = s.pending := by
  unfold execMeDbgCtrl
  (repeat' split) <;> simp

@[simp] theorem execMeDbgCtrl_memOk (a : Access) (core : CoreId) (value : Word) (s : State) (hm : MemOk s.mem) : MemOk (outState (execMeDbgCtrl a core value s)).mem := by
  unfold execMeDbgCtrl
  (repeat' split) <;> simp [hm]

@[simp] theorem execMeDbgCtrl_flashOk (a : Access) (core : CoreId) (value : Word) (s : State) (hm : FlashOk s.flash) : FlashOk (outState (execMeDbgCtrl a core value s)).flash := by
  unfold execMeDbgCtrl
  (repeat' split) <;> simp [hm]

@[simp] theorem execEeSplit_frame (a : Access) (core : CoreId) (value : Word) (s : State) :
    (outState (execEeSplit a core value s)).pending = s.pending := by
  unfold execEeSplit
  (repeat' split) <;> simp

@[simp] theorem execEeSplit_memOk (a : Access) (core : CoreId) (value : Word) (s : State) (hm : MemOk s.mem) : MemOk (outState (execEeSplit a core value s)).mem := by
  unfold execEeSplit
  (repeat' split) <;> simp [hm]

@[simp] theorem execEeSplit_flashOk (a : Access) (core : CoreId) (value : Word) (s : State) (hm : FlashOk s.flash) : FlashOk (outState (execEeSplit a core value s)).flash := by
  unfold execEeSplit
  (repeat' split) <;> simp [hm]

@[simp] theorem execCoreBankOwn_frame (a : Access) (core : CoreId) (bank : Fin 56) (force : Option Word) (value : Word) (s : State) :
    (outState (execCoreBankOwn a core bank force value s)).pending = s.pending := by
  unfold execCoreBankOwn
  (repeat' split) <;> simp

@[simp] theorem execCoreBankOwn_memOk (a : Access) (core : CoreId) (bank : Fin 56) (force : Option Word) (value : Word) (s : State) (hm : MemOk s.mem) : MemOk (outState (execCoreBankOwn a core bank force value s)).mem := by
  unfold execCoreBankOwn
  (repeat' split) <;> simp [hm]

@[simp] theorem execCoreBankOwn_flashOk (a : Access) (core : CoreId) (bank : Fin 56) (force : Option Word) (value : Word) (s : State) (hm : FlashOk s.flash) : FlashOk (outState (execCoreBankOwn a core bank force value s)).flash := by
  unfold execCoreBankOwn
  (repeat' split) <;> simp [hm]

@[simp] theorem execCoreBankForce_frame (a : Access) (core : CoreId) (bank : Fin 56) (value : Word) (s : State) :
    (outState (execCoreBankForce a core bank value s)).pending = s.pending := by
  unfold execCoreBankForce
  (repeat' split) <;> simp

@[simp] theorem execCoreBankForce_memOk (a : Access) (core : CoreId) (bank : Fin 56) (value : Word) (s : State) (hm : MemOk s.mem) : MemOk (outState (execCoreBankForce a core bank value s)).mem := by
  unfold execCoreBankForce
  (repeat' split) <;> simp [hm]

@[simp] theorem execCoreBankForce_flashOk (a : Access) (core : CoreId) (bank : Fin 56) (value : Word) (s : State) (hm : FlashOk s.flash) : FlashOk (outState (execCoreBankForce a core bank value s)).flash := by
  unfold execCoreBankForce
  (repeat' split) <;> simp [hm]

@[simp] theorem execCoreBankRepair_frame (a : Access) (core : CoreId) (bank : Fin 56) (value : Word) (s : State) :
    (outState (execCoreBankRepair a core bank value s)).pending = s.pending := by
  unfold execCoreBankRepair
  (repeat' split) <;> simp

@[simp] theorem execCoreBankRepair_memOk (a : Access) (core : CoreId) (bank : Fin 56) (value : Word) (s : State) (hm : MemOk s.mem) : MemOk (outState (execCoreBankRepair a core bank value s)).mem := by
  unfold execCoreBankRepair
  (repeat' split) <;> simp [hm]

@[simp] theorem execCoreBankRepair_flashOk (a : Access) (core : CoreId) (bank : Fin 56) (value : Word) (s : State) (hm : FlashOk s.flash) : FlashOk (outState (execCoreBankRepair a core bank value s)).flash := by
  unfold execCoreBankRepair
  (repeat' split) <;> simp [hm]

@[simp] theorem execDmaChan_frame (a : Access) (core : CoreId) (ch : Fin 16) (value : Word) (s : State) :
    (outState (execDmaChan a core ch value s)).pending = s.pending := by
  unfold execDmaChan
  (repeat' split) <;> simp

@[simp] theorem execDmaChan_memOk (a : Access) (core : CoreId) (ch : Fin 16) (value : Word) (s : State) (hm : MemOk s.mem) : MemOk (outState (execDmaChan a core ch value s)).mem := by
  unfold execDmaChan
  (repeat' split) <;> simp [hm]

@[simp] theorem execDmaChan_flashOk (a : Access) (core : CoreId) (ch : Fin 16) (value : Word) (s : State) (hm : FlashOk s.flash) : FlashOk (outState (execDmaChan a core ch value s)).flash := by
  unfold execDmaChan
  (repeat' split) <;> simp [hm]

@[simp] theorem execDmaAbort_frame (a : Access) (core : CoreId) (value : Word) (s : State) :
    (outState (execDmaAbort a core value s)).pending = s.pending := by
  unfold execDmaAbort
  (repeat' split) <;> simp

@[simp] theorem execDmaAbort_memOk (a : Access) (core : CoreId) (value : Word) (s : State) (hm : MemOk s.mem) : MemOk (outState (execDmaAbort a core value s)).mem := by
  unfold execDmaAbort
  (repeat' split) <;> simp [hm]

@[simp] theorem execDmaAbort_flashOk (a : Access) (core : CoreId) (value : Word) (s : State) (hm : FlashOk s.flash) : FlashOk (outState (execDmaAbort a core value s)).flash := by
  unfold execDmaAbort
  (repeat' split) <;> simp [hm]

@[simp] theorem execCoreIpat_frame (a : Access) (core : CoreId) (e : Fin 4) (half : Fin 2) (value : Word) (s : State) :
    (outState (execCoreIpat a core e half value s)).pending = s.pending := by
  unfold execCoreIpat
  (repeat' split) <;> simp

@[simp] theorem execCoreIpat_memOk (a : Access) (core : CoreId) (e : Fin 4) (half : Fin 2) (value : Word) (s : State) (hm : MemOk s.mem) : MemOk (outState (execCoreIpat a core e half value s)).mem := by
  unfold execCoreIpat
  (repeat' split) <;> simp [hm]

@[simp] theorem execCoreIpat_flashOk (a : Access) (core : CoreId) (e : Fin 4) (half : Fin 2) (value : Word) (s : State) (hm : FlashOk s.flash) : FlashOk (outState (execCoreIpat a core e half value s)).flash := by
  unfold execCoreIpat
  (repeat' split) <;> simp [hm]

@[simp] theorem execDsptCtxLim_frame (a : Access) (die : DieId) (n : CtxId) (value : Word) (s : State) :
    (outState (execDsptCtxLim a die n value s)).pending = s.pending := by
  unfold execDsptCtxLim
  (repeat' split) <;> simp

@[simp] theorem execDsptCtxLim_memOk (a : Access) (die : DieId) (n : CtxId) (value : Word) (s : State) (hm : MemOk s.mem) : MemOk (outState (execDsptCtxLim a die n value s)).mem := by
  unfold execDsptCtxLim
  (repeat' split) <;> simp [hm]

@[simp] theorem execDsptCtxLim_flashOk (a : Access) (die : DieId) (n : CtxId) (value : Word) (s : State) (hm : FlashOk s.flash) : FlashOk (outState (execDsptCtxLim a die n value s)).flash := by
  unfold execDsptCtxLim
  (repeat' split) <;> simp [hm]

@[simp] theorem execDsptDl_frame (a : Access) (die : DieId) (n : CtxId) (value : Word) (s : State) :
    (outState (execDsptDl a die n value s)).pending = s.pending := by
  unfold execDsptDl
  (repeat' split) <;> simp

@[simp] theorem execDsptDl_memOk (a : Access) (die : DieId) (n : CtxId) (value : Word) (s : State) (hm : MemOk s.mem) : MemOk (outState (execDsptDl a die n value s)).mem := by
  unfold execDsptDl
  (repeat' split) <;> simp [hm]

@[simp] theorem execDsptDl_flashOk (a : Access) (die : DieId) (n : CtxId) (value : Word) (s : State) (hm : FlashOk s.flash) : FlashOk (outState (execDsptDl a die n value s)).flash := by
  unfold execDsptDl
  (repeat' split) <;> simp [hm]

@[simp] theorem execIndAlarm_frame (a : Access) (value : Word) (s : State) :
    (outState (execIndAlarm a value s)).pending = s.pending := by
  unfold execIndAlarm
  (repeat' split) <;> simp

@[simp] theorem execIndAlarm_memOk (a : Access) (value : Word) (s : State) (hm : MemOk s.mem) : MemOk (outState (execIndAlarm a value s)).mem := by
  unfold execIndAlarm
  (repeat' split) <;> simp [hm]

@[simp] theorem execIndAlarm_flashOk (a : Access) (value : Word) (s : State) (hm : FlashOk s.flash) : FlashOk (outState (execIndAlarm a value s)).flash := by
  unfold execIndAlarm
  (repeat' split) <;> simp [hm]

@[simp] theorem execPwrVf_frame (a : Access) (value : Word) (s : State) :
    (outState (execPwrVf a value s)).pending = s.pending := by
  unfold execPwrVf
  (repeat' split) <;> simp

@[simp] theorem execPwrVf_memOk (a : Access) (value : Word) (s : State) (hm : MemOk s.mem) : MemOk (outState (execPwrVf a value s)).mem := by
  unfold execPwrVf
  (repeat' split) <;> simp [hm]

@[simp] theorem execPwrVf_flashOk (a : Access) (value : Word) (s : State) (hm : FlashOk s.flash) : FlashOk (outState (execPwrVf a value s)).flash := by
  unfold execPwrVf
  (repeat' split) <;> simp [hm]

@[simp] theorem execPwrLimit_frame (a : Access) (value : Word) (s : State) :
    (outState (execPwrLimit a value s)).pending = s.pending := by
  unfold execPwrLimit
  (repeat' split) <;> simp

@[simp] theorem execPwrLimit_memOk (a : Access) (value : Word) (s : State) (hm : MemOk s.mem) : MemOk (outState (execPwrLimit a value s)).mem := by
  unfold execPwrLimit
  (repeat' split) <;> simp [hm]

@[simp] theorem execPwrLimit_flashOk (a : Access) (value : Word) (s : State) (hm : FlashOk s.flash) : FlashOk (outState (execPwrLimit a value s)).flash := by
  unfold execPwrLimit
  (repeat' split) <;> simp [hm]

@[simp] theorem execPwrState_frame (a : Access) (value : Word) (s : State) :
    (outState (execPwrState a value s)).pending = s.pending := by
  unfold execPwrState
  (repeat' split) <;> simp

@[simp] theorem execPwrState_memOk (a : Access) (value : Word) (s : State) (hm : MemOk s.mem) : MemOk (outState (execPwrState a value s)).mem := by
  unfold execPwrState
  (repeat' split) <;> simp [hm]

@[simp] theorem execPwrState_flashOk (a : Access) (value : Word) (s : State) (hm : FlashOk s.flash) : FlashOk (outState (execPwrState a value s)).flash := by
  unfold execPwrState
  (repeat' split) <;> simp [hm]

@[simp] theorem execSepFloor_frame (a : Access) (value : Word) (s : State) :
    (outState (execSepFloor a value s)).pending = s.pending := by
  unfold execSepFloor
  (repeat' split) <;> simp

@[simp] theorem execSepFloor_memOk (a : Access) (value : Word) (s : State) (hm : MemOk s.mem) : MemOk (outState (execSepFloor a value s)).mem := by
  unfold execSepFloor
  (repeat' split) <;> simp [hm]

@[simp] theorem execSepFloor_flashOk (a : Access) (value : Word) (s : State) (hm : FlashOk s.flash) : FlashOk (outState (execSepFloor a value s)).flash := by
  unfold execSepFloor
  (repeat' split) <;> simp [hm]

@[simp] theorem execRelease_frame (a : Access) (n : CtxId) (value : Word) (s : State) :
    (outState (execRelease a n value s)).pending = s.pending := by
  unfold execRelease
  (repeat' split) <;> simp

@[simp] theorem execRelease_memOk (a : Access) (n : CtxId) (value : Word) (s : State) (hm : MemOk s.mem) : MemOk (outState (execRelease a n value s)).mem := by
  unfold execRelease
  (repeat' split) <;> simp [hm]

@[simp] theorem execRelease_flashOk (a : Access) (n : CtxId) (value : Word) (s : State) (hm : FlashOk s.flash) : FlashOk (outState (execRelease a n value s)).flash := by
  unfold execRelease
  (repeat' split) <;> simp [hm]

@[simp] theorem execShdCtl_frame (a : Access) (die : DieId) (n : CtxId) (seed : Bool) (value : Word) (s : State) :
    (outState (execShdCtl a die n seed value s)).pending = s.pending := by
  unfold execShdCtl
  (repeat' split) <;> simp

@[simp] theorem execShdCtl_memOk (a : Access) (die : DieId) (n : CtxId) (seed : Bool) (value : Word) (s : State) (hm : MemOk s.mem) : MemOk (outState (execShdCtl a die n seed value s)).mem := by
  unfold execShdCtl
  (repeat' split) <;> simp [hm]

@[simp] theorem execShdCtl_flashOk (a : Access) (die : DieId) (n : CtxId) (seed : Bool) (value : Word) (s : State) (hm : FlashOk s.flash) : FlashOk (outState (execShdCtl a die n seed value s)).flash := by
  unfold execShdCtl
  (repeat' split) <;> simp [hm]

end Sys2Proof.Machine
end

