-- ==== Sys2Proof/Laws/State.lean ====
section
/-! SUPPORT. The small lemmas of the state: what each update of a part leaves of every field, and what a part reads as
after an update. -/

namespace Sys2Proof.Machine

/-! ### Vectors -/

@[simp] theorem upd_same {α : Type} {n : Nat} (v : Vector α n) (i : Fin n) (f : α → α) : (upd v i f)[i.val] = f v[i.val] := by
  simp [upd]

theorem upd_other {α : Type} {n : Nat} (v : Vector α n) (i j : Fin n) (f : α → α) (h : j ≠ i) :
    (upd v i f)[j.val] = v[j.val] := by
  have : i.val ≠ j.val := fun e => h (Fin.ext e.symm)
  simp [upd, this]

/-! ### The parts of the state -/

@[simp] theorem State.ctx_modCtx_same (s : State) (i : CtxId) (f : Ctx → Ctx) : (s.modCtx i f).ctx i = f (s.ctx i) :=
  upd_same _ _ _

@[simp] theorem State.ctx_modCtx_other (s : State) (i j : CtxId) (f : Ctx → Ctx) (h : j ≠ i) :
    (s.modCtx i f).ctx j = s.ctx j := upd_other _ _ _ _ h

@[simp] theorem State.core_modCore_same (s : State) (i : CoreId) (f : CoreSt → CoreSt) : (s.modCore i f).core i = f (s.core i) :=
  upd_same _ _ _

@[simp] theorem State.core_modCore_other (s : State) (i j : CoreId) (f : CoreSt → CoreSt) (h : j ≠ i) :
    (s.modCore i f).core j = s.core j := upd_other _ _ _ _ h

@[simp] theorem State.die_modDie_same (s : State) (i : DieId) (f : DieSt → DieSt) : (s.modDie i f).die i = f (s.die i) :=
  upd_same _ _ _

@[simp] theorem State.die_modDie_other (s : State) (i j : DieId) (f : DieSt → DieSt) (h : j ≠ i) :
    (s.modDie i f).die j = s.die j := upd_other _ _ _ _ h

@[simp] theorem State.port_modPort_same (s : State) (i : PortId) (f : PortSt → PortSt) : (s.modPort i f).port i = f (s.port i) :=
  upd_same _ _ _

@[simp] theorem State.port_modPort_other (s : State) (i j : PortId) (f : PortSt → PortSt) (h : j ≠ i) :
    (s.modPort i f).port j = s.port j := upd_other _ _ _ _ h

@[simp] theorem State.ctx_allCtxs (s : State) (i : CtxId) (f : Ctx → Ctx) : (s.allCtxs f).ctx i = f (s.ctx i) := by
  simp [State.ctx, State.allCtxs]

@[simp] theorem State.core_allCores (s : State) (i : CoreId) (f : CoreSt → CoreSt) : (s.allCores f).core i = f (s.core i) := by
  simp [State.core, State.allCores]

@[simp] theorem State.die_allDies (s : State) (i : DieId) (f : DieSt → DieSt) : (s.allDies f).die i = f (s.die i) := by
  simp [State.die, State.allDies]

/-! ### State.modCtx -/

@[simp] theorem State.modCtx_pending (s : State) (n : CtxId) (f : Ctx → Ctx) : (s.modCtx n f).pending = s.pending := rfl
@[simp] theorem State.modCtx_out (s : State) (n : CtxId) (f : Ctx → Ctx) : (s.modCtx n f).out = s.out := rfl
@[simp] theorem State.modCtx_free (s : State) (n : CtxId) (f : Ctx → Ctx) : (s.modCtx n f).free = s.free := rfl
@[simp] theorem State.modCtx_mem (s : State) (n : CtxId) (f : Ctx → Ctx) : (s.modCtx n f).mem = s.mem := rfl
@[simp] theorem State.modCtx_flash (s : State) (n : CtxId) (f : Ctx → Ctx) : (s.modCtx n f).flash = s.flash := rfl
@[simp] theorem State.modCtx_transit (s : State) (n : CtxId) (f : Ctx → Ctx) : (s.modCtx n f).transit = s.transit := rfl
@[simp] theorem State.modCtx_bankLost (s : State) (n : CtxId) (f : Ctx → Ctx) : (s.modCtx n f).bankLost = s.bankLost := rfl
@[simp] theorem State.modCtx_ind (s : State) (n : CtxId) (f : Ctx → Ctx) : (s.modCtx n f).ind = s.ind := rfl
@[simp] theorem State.modCtx_host (s : State) (n : CtxId) (f : Ctx → Ctx) : (s.modCtx n f).host = s.host := rfl
@[simp] theorem State.modCtx_rust (s : State) (n : CtxId) (f : Ctx → Ctx) : (s.modCtx n f).rust = s.rust := rfl
@[simp] theorem State.modCtx_boot (s : State) (n : CtxId) (f : Ctx → Ctx) : (s.modCtx n f).boot = s.boot := rfl
@[simp] theorem State.modCtx_pwr (s : State) (n : CtxId) (f : Ctx → Ctx) : (s.modCtx n f).pwr = s.pwr := rfl
@[simp] theorem State.modCtx_sup (s : State) (n : CtxId) (f : Ctx → Ctx) : (s.modCtx n f).sup = s.sup := rfl
@[simp] theorem State.modCtx_sep (s : State) (n : CtxId) (f : Ctx → Ctx) : (s.modCtx n f).sep = s.sep := rfl
@[simp] theorem State.modCtx_scrub (s : State) (n : CtxId) (f : Ctx → Ctx) : (s.modCtx n f).scrub = s.scrub := rfl
@[simp] theorem State.modCtx_wscrub (s : State) (n : CtxId) (f : Ctx → Ctx) : (s.modCtx n f).wscrub = s.wscrub := rfl
@[simp] theorem State.modCtx_fab (s : State) (n : CtxId) (f : Ctx → Ctx) : (s.modCtx n f).fab = s.fab := rfl
@[simp] theorem State.modCtx_dies (s : State) (n : CtxId) (f : Ctx → Ctx) : (s.modCtx n f).dies = s.dies := rfl
@[simp] theorem State.modCtx_cores (s : State) (n : CtxId) (f : Ctx → Ctx) : (s.modCtx n f).cores = s.cores := rfl
@[simp] theorem State.modCtx_ctxs (s : State) (n : CtxId) (f : Ctx → Ctx) : (s.modCtx n f).ctxs = upd s.ctxs n f := rfl
@[simp] theorem State.modCtx_core (s : State) (n : CtxId) (f : Ctx → Ctx) (i : CoreId) : (s.modCtx n f).core i = s.core i := rfl
@[simp] theorem State.modCtx_die (s : State) (n : CtxId) (f : Ctx → Ctx) (i : DieId) : (s.modCtx n f).die i = s.die i := rfl
@[simp] theorem State.modCtx_port (s : State) (n : CtxId) (f : Ctx → Ctx) (i : PortId) : (s.modCtx n f).port i = s.port i := rfl

/-! ### State.modCore -/

@[simp] theorem State.modCore_pending (s : State) (c : CoreId) (f : CoreSt → CoreSt) : (s.modCore c f).pending = s.pending := rfl
@[simp] theorem State.modCore_out (s : State) (c : CoreId) (f : CoreSt → CoreSt) : (s.modCore c f).out = s.out := rfl
@[simp] theorem State.modCore_free (s : State) (c : CoreId) (f : CoreSt → CoreSt) : (s.modCore c f).free = s.free := rfl
@[simp] theorem State.modCore_mem (s : State) (c : CoreId) (f : CoreSt → CoreSt) : (s.modCore c f).mem = s.mem := rfl
@[simp] theorem State.modCore_flash (s : State) (c : CoreId) (f : CoreSt → CoreSt) : (s.modCore c f).flash = s.flash := rfl
@[simp] theorem State.modCore_transit (s : State) (c : CoreId) (f : CoreSt → CoreSt) : (s.modCore c f).transit = s.transit := rfl
@[simp] theorem State.modCore_bankLost (s : State) (c : CoreId) (f : CoreSt → CoreSt) : (s.modCore c f).bankLost = s.bankLost := rfl
@[simp] theorem State.modCore_ind (s : State) (c : CoreId) (f : CoreSt → CoreSt) : (s.modCore c f).ind = s.ind := rfl
@[simp] theorem State.modCore_host (s : State) (c : CoreId) (f : CoreSt → CoreSt) : (s.modCore c f).host = s.host := rfl
@[simp] theorem State.modCore_rust (s : State) (c : CoreId) (f : CoreSt → CoreSt) : (s.modCore c f).rust = s.rust := rfl
@[simp] theorem State.modCore_boot (s : State) (c : CoreId) (f : CoreSt → CoreSt) : (s.modCore c f).boot = s.boot := rfl
@[simp] theorem State.modCore_pwr (s : State) (c : CoreId) (f : CoreSt → CoreSt) : (s.modCore c f).pwr = s.pwr := rfl
@[simp] theorem State.modCore_sup (s : State) (c : CoreId) (f : CoreSt → CoreSt) : (s.modCore c f).sup = s.sup := rfl
@[simp] theorem State.modCore_sep (s : State) (c : CoreId) (f : CoreSt → CoreSt) : (s.modCore c f).sep = s.sep := rfl
@[simp] theorem State.modCore_scrub (s : State) (c : CoreId) (f : CoreSt → CoreSt) : (s.modCore c f).scrub = s.scrub := rfl
@[simp] theorem State.modCore_wscrub (s : State) (c : CoreId) (f : CoreSt → CoreSt) : (s.modCore c f).wscrub = s.wscrub := rfl
@[simp] theorem State.modCore_fab (s : State) (c : CoreId) (f : CoreSt → CoreSt) : (s.modCore c f).fab = s.fab := rfl
@[simp] theorem State.modCore_dies (s : State) (c : CoreId) (f : CoreSt → CoreSt) : (s.modCore c f).dies = s.dies := rfl
@[simp] theorem State.modCore_cores (s : State) (c : CoreId) (f : CoreSt → CoreSt) : (s.modCore c f).cores = upd s.cores c f := rfl
@[simp] theorem State.modCore_ctxs (s : State) (c : CoreId) (f : CoreSt → CoreSt) : (s.modCore c f).ctxs = s.ctxs := rfl
@[simp] theorem State.modCore_ctx (s : State) (c : CoreId) (f : CoreSt → CoreSt) (i : CtxId) : (s.modCore c f).ctx i = s.ctx i := rfl
@[simp] theorem State.modCore_die (s : State) (c : CoreId) (f : CoreSt → CoreSt) (i : DieId) : (s.modCore c f).die i = s.die i := rfl
@[simp] theorem State.modCore_port (s : State) (c : CoreId) (f : CoreSt → CoreSt) (i : PortId) : (s.modCore c f).port i = s.port i := rfl

/-! ### State.modDie -/

@[simp] theorem State.modDie_pending (s : State) (d : DieId) (f : DieSt → DieSt) : (s.modDie d f).pending = s.pending := rfl
@[simp] theorem State.modDie_out (s : State) (d : DieId) (f : DieSt → DieSt) : (s.modDie d f).out = s.out := rfl
@[simp] theorem State.modDie_free (s : State) (d : DieId) (f : DieSt → DieSt) : (s.modDie d f).free = s.free := rfl
@[simp] theorem State.modDie_mem (s : State) (d : DieId) (f : DieSt → DieSt) : (s.modDie d f).mem = s.mem := rfl
@[simp] theorem State.modDie_flash (s : State) (d : DieId) (f : DieSt → DieSt) : (s.modDie d f).flash = s.flash := rfl
@[simp] theorem State.modDie_transit (s : State) (d : DieId) (f : DieSt → DieSt) : (s.modDie d f).transit = s.transit := rfl
@[simp] theorem State.modDie_bankLost (s : State) (d : DieId) (f : DieSt → DieSt) : (s.modDie d f).bankLost = s.bankLost := rfl
@[simp] theorem State.modDie_ind (s : State) (d : DieId) (f : DieSt → DieSt) : (s.modDie d f).ind = s.ind := rfl
@[simp] theorem State.modDie_host (s : State) (d : DieId) (f : DieSt → DieSt) : (s.modDie d f).host = s.host := rfl
@[simp] theorem State.modDie_rust (s : State) (d : DieId) (f : DieSt → DieSt) : (s.modDie d f).rust = s.rust := rfl
@[simp] theorem State.modDie_boot (s : State) (d : DieId) (f : DieSt → DieSt) : (s.modDie d f).boot = s.boot := rfl
@[simp] theorem State.modDie_pwr (s : State) (d : DieId) (f : DieSt → DieSt) : (s.modDie d f).pwr = s.pwr := rfl
@[simp] theorem State.modDie_sup (s : State) (d : DieId) (f : DieSt → DieSt) : (s.modDie d f).sup = s.sup := rfl
@[simp] theorem State.modDie_sep (s : State) (d : DieId) (f : DieSt → DieSt) : (s.modDie d f).sep = s.sep := rfl
@[simp] theorem State.modDie_scrub (s : State) (d : DieId) (f : DieSt → DieSt) : (s.modDie d f).scrub = s.scrub := rfl
@[simp] theorem State.modDie_wscrub (s : State) (d : DieId) (f : DieSt → DieSt) : (s.modDie d f).wscrub = s.wscrub := rfl
@[simp] theorem State.modDie_fab (s : State) (d : DieId) (f : DieSt → DieSt) : (s.modDie d f).fab = s.fab := rfl
@[simp] theorem State.modDie_dies (s : State) (d : DieId) (f : DieSt → DieSt) : (s.modDie d f).dies = upd s.dies d f := rfl
@[simp] theorem State.modDie_cores (s : State) (d : DieId) (f : DieSt → DieSt) : (s.modDie d f).cores = s.cores := rfl
@[simp] theorem State.modDie_ctxs (s : State) (d : DieId) (f : DieSt → DieSt) : (s.modDie d f).ctxs = s.ctxs := rfl
@[simp] theorem State.modDie_ctx (s : State) (d : DieId) (f : DieSt → DieSt) (i : CtxId) : (s.modDie d f).ctx i = s.ctx i := rfl
@[simp] theorem State.modDie_core (s : State) (d : DieId) (f : DieSt → DieSt) (i : CoreId) : (s.modDie d f).core i = s.core i := rfl
@[simp] theorem State.modDie_port (s : State) (d : DieId) (f : DieSt → DieSt) (i : PortId) : (s.modDie d f).port i = s.port i := rfl

/-! ### State.modPort -/

@[simp] theorem State.modPort_pending (s : State) (p : PortId) (f : PortSt → PortSt) : (s.modPort p f).pending = s.pending := rfl
@[simp] theorem State.modPort_out (s : State) (p : PortId) (f : PortSt → PortSt) : (s.modPort p f).out = s.out := rfl
@[simp] theorem State.modPort_free (s : State) (p : PortId) (f : PortSt → PortSt) : (s.modPort p f).free = s.free := rfl
@[simp] theorem State.modPort_mem (s : State) (p : PortId) (f : PortSt → PortSt) : (s.modPort p f).mem = s.mem := rfl
@[simp] theorem State.modPort_flash (s : State) (p : PortId) (f : PortSt → PortSt) : (s.modPort p f).flash = s.flash := rfl
@[simp] theorem State.modPort_transit (s : State) (p : PortId) (f : PortSt → PortSt) : (s.modPort p f).transit = s.transit := rfl
@[simp] theorem State.modPort_bankLost (s : State) (p : PortId) (f : PortSt → PortSt) : (s.modPort p f).bankLost = s.bankLost := rfl
@[simp] theorem State.modPort_ind (s : State) (p : PortId) (f : PortSt → PortSt) : (s.modPort p f).ind = s.ind := rfl
@[simp] theorem State.modPort_host (s : State) (p : PortId) (f : PortSt → PortSt) : (s.modPort p f).host = s.host := rfl
@[simp] theorem State.modPort_rust (s : State) (p : PortId) (f : PortSt → PortSt) : (s.modPort p f).rust = s.rust := rfl
@[simp] theorem State.modPort_boot (s : State) (p : PortId) (f : PortSt → PortSt) : (s.modPort p f).boot = s.boot := rfl
@[simp] theorem State.modPort_pwr (s : State) (p : PortId) (f : PortSt → PortSt) : (s.modPort p f).pwr = s.pwr := rfl
@[simp] theorem State.modPort_sup (s : State) (p : PortId) (f : PortSt → PortSt) : (s.modPort p f).sup = s.sup := rfl
@[simp] theorem State.modPort_sep (s : State) (p : PortId) (f : PortSt → PortSt) : (s.modPort p f).sep = s.sep := rfl
@[simp] theorem State.modPort_scrub (s : State) (p : PortId) (f : PortSt → PortSt) : (s.modPort p f).scrub = s.scrub := rfl
@[simp] theorem State.modPort_wscrub (s : State) (p : PortId) (f : PortSt → PortSt) : (s.modPort p f).wscrub = s.wscrub := rfl
@[simp] theorem State.modPort_fab (s : State) (p : PortId) (f : PortSt → PortSt) : (s.modPort p f).fab = upd s.fab p f := rfl
@[simp] theorem State.modPort_dies (s : State) (p : PortId) (f : PortSt → PortSt) : (s.modPort p f).dies = s.dies := rfl
@[simp] theorem State.modPort_cores (s : State) (p : PortId) (f : PortSt → PortSt) : (s.modPort p f).cores = s.cores := rfl
@[simp] theorem State.modPort_ctxs (s : State) (p : PortId) (f : PortSt → PortSt) : (s.modPort p f).ctxs = s.ctxs := rfl
@[simp] theorem State.modPort_ctx (s : State) (p : PortId) (f : PortSt → PortSt) (i : CtxId) : (s.modPort p f).ctx i = s.ctx i := rfl
@[simp] theorem State.modPort_core (s : State) (p : PortId) (f : PortSt → PortSt) (i : CoreId) : (s.modPort p f).core i = s.core i := rfl
@[simp] theorem State.modPort_die (s : State) (p : PortId) (f : PortSt → PortSt) (i : DieId) : (s.modPort p f).die i = s.die i := rfl

/-! ### State.allCores -/

@[simp] theorem State.allCores_pending (s : State) (f : CoreSt → CoreSt) : (s.allCores f).pending = s.pending := rfl
@[simp] theorem State.allCores_out (s : State) (f : CoreSt → CoreSt) : (s.allCores f).out = s.out := rfl
@[simp] theorem State.allCores_free (s : State) (f : CoreSt → CoreSt) : (s.allCores f).free = s.free := rfl
@[simp] theorem State.allCores_mem (s : State) (f : CoreSt → CoreSt) : (s.allCores f).mem = s.mem := rfl
@[simp] theorem State.allCores_flash (s : State) (f : CoreSt → CoreSt) : (s.allCores f).flash = s.flash := rfl
@[simp] theorem State.allCores_transit (s : State) (f : CoreSt → CoreSt) : (s.allCores f).transit = s.transit := rfl
@[simp] theorem State.allCores_bankLost (s : State) (f : CoreSt → CoreSt) : (s.allCores f).bankLost = s.bankLost := rfl
@[simp] theorem State.allCores_ind (s : State) (f : CoreSt → CoreSt) : (s.allCores f).ind = s.ind := rfl
@[simp] theorem State.allCores_host (s : State) (f : CoreSt → CoreSt) : (s.allCores f).host = s.host := rfl
@[simp] theorem State.allCores_rust (s : State) (f : CoreSt → CoreSt) : (s.allCores f).rust = s.rust := rfl
@[simp] theorem State.allCores_boot (s : State) (f : CoreSt → CoreSt) : (s.allCores f).boot = s.boot := rfl
@[simp] theorem State.allCores_pwr (s : State) (f : CoreSt → CoreSt) : (s.allCores f).pwr = s.pwr := rfl
@[simp] theorem State.allCores_sup (s : State) (f : CoreSt → CoreSt) : (s.allCores f).sup = s.sup := rfl
@[simp] theorem State.allCores_sep (s : State) (f : CoreSt → CoreSt) : (s.allCores f).sep = s.sep := rfl
@[simp] theorem State.allCores_scrub (s : State) (f : CoreSt → CoreSt) : (s.allCores f).scrub = s.scrub := rfl
@[simp] theorem State.allCores_wscrub (s : State) (f : CoreSt → CoreSt) : (s.allCores f).wscrub = s.wscrub := rfl
@[simp] theorem State.allCores_fab (s : State) (f : CoreSt → CoreSt) : (s.allCores f).fab = s.fab := rfl
@[simp] theorem State.allCores_dies (s : State) (f : CoreSt → CoreSt) : (s.allCores f).dies = s.dies := rfl
@[simp] theorem State.allCores_cores (s : State) (f : CoreSt → CoreSt) : (s.allCores f).cores = s.cores.map f := rfl
@[simp] theorem State.allCores_ctxs (s : State) (f : CoreSt → CoreSt) : (s.allCores f).ctxs = s.ctxs := rfl
@[simp] theorem State.allCores_ctx (s : State) (f : CoreSt → CoreSt) (i : CtxId) : (s.allCores f).ctx i = s.ctx i := rfl
@[simp] theorem State.allCores_die (s : State) (f : CoreSt → CoreSt) (i : DieId) : (s.allCores f).die i = s.die i := rfl
@[simp] theorem State.allCores_port (s : State) (f : CoreSt → CoreSt) (i : PortId) : (s.allCores f).port i = s.port i := rfl

/-! ### State.allDies -/

@[simp] theorem State.allDies_pending (s : State) (f : DieSt → DieSt) : (s.allDies f).pending = s.pending := rfl
@[simp] theorem State.allDies_out (s : State) (f : DieSt → DieSt) : (s.allDies f).out = s.out := rfl
@[simp] theorem State.allDies_free (s : State) (f : DieSt → DieSt) : (s.allDies f).free = s.free := rfl
@[simp] theorem State.allDies_mem (s : State) (f : DieSt → DieSt) : (s.allDies f).mem = s.mem := rfl
@[simp] theorem State.allDies_flash (s : State) (f : DieSt → DieSt) : (s.allDies f).flash = s.flash := rfl
@[simp] theorem State.allDies_transit (s : State) (f : DieSt → DieSt) : (s.allDies f).transit = s.transit := rfl
@[simp] theorem State.allDies_bankLost (s : State) (f : DieSt → DieSt) : (s.allDies f).bankLost = s.bankLost := rfl
@[simp] theorem State.allDies_ind (s : State) (f : DieSt → DieSt) : (s.allDies f).ind = s.ind := rfl
@[simp] theorem State.allDies_host (s : State) (f : DieSt → DieSt) : (s.allDies f).host = s.host := rfl
@[simp] theorem State.allDies_rust (s : State) (f : DieSt → DieSt) : (s.allDies f).rust = s.rust := rfl
@[simp] theorem State.allDies_boot (s : State) (f : DieSt → DieSt) : (s.allDies f).boot = s.boot := rfl
@[simp] theorem State.allDies_pwr (s : State) (f : DieSt → DieSt) : (s.allDies f).pwr = s.pwr := rfl
@[simp] theorem State.allDies_sup (s : State) (f : DieSt → DieSt) : (s.allDies f).sup = s.sup := rfl
@[simp] theorem State.allDies_sep (s : State) (f : DieSt → DieSt) : (s.allDies f).sep = s.sep := rfl
@[simp] theorem State.allDies_scrub (s : State) (f : DieSt → DieSt) : (s.allDies f).scrub = s.scrub := rfl
@[simp] theorem State.allDies_wscrub (s : State) (f : DieSt → DieSt) : (s.allDies f).wscrub = s.wscrub := rfl
@[simp] theorem State.allDies_fab (s : State) (f : DieSt → DieSt) : (s.allDies f).fab = s.fab := rfl
@[simp] theorem State.allDies_dies (s : State) (f : DieSt → DieSt) : (s.allDies f).dies = s.dies.map f := rfl
@[simp] theorem State.allDies_cores (s : State) (f : DieSt → DieSt) : (s.allDies f).cores = s.cores := rfl
@[simp] theorem State.allDies_ctxs (s : State) (f : DieSt → DieSt) : (s.allDies f).ctxs = s.ctxs := rfl
@[simp] theorem State.allDies_ctx (s : State) (f : DieSt → DieSt) (i : CtxId) : (s.allDies f).ctx i = s.ctx i := rfl
@[simp] theorem State.allDies_core (s : State) (f : DieSt → DieSt) (i : CoreId) : (s.allDies f).core i = s.core i := rfl
@[simp] theorem State.allDies_port (s : State) (f : DieSt → DieSt) (i : PortId) : (s.allDies f).port i = s.port i := rfl

/-! ### State.allCtxs -/

@[simp] theorem State.allCtxs_pending (s : State) (f : Ctx → Ctx) : (s.allCtxs f).pending = s.pending := rfl
@[simp] theorem State.allCtxs_out (s : State) (f : Ctx → Ctx) : (s.allCtxs f).out = s.out := rfl
@[simp] theorem State.allCtxs_free (s : State) (f : Ctx → Ctx) : (s.allCtxs f).free = s.free := rfl
@[simp] theorem State.allCtxs_mem (s : State) (f : Ctx → Ctx) : (s.allCtxs f).mem = s.mem := rfl
@[simp] theorem State.allCtxs_flash (s : State) (f : Ctx → Ctx) : (s.allCtxs f).flash = s.flash := rfl
@[simp] theorem State.allCtxs_transit (s : State) (f : Ctx → Ctx) : (s.allCtxs f).transit = s.transit := rfl
@[simp] theorem State.allCtxs_bankLost (s : State) (f : Ctx → Ctx) : (s.allCtxs f).bankLost = s.bankLost := rfl
@[simp] theorem State.allCtxs_ind (s : State) (f : Ctx → Ctx) : (s.allCtxs f).ind = s.ind := rfl
@[simp] theorem State.allCtxs_host (s : State) (f : Ctx → Ctx) : (s.allCtxs f).host = s.host := rfl
@[simp] theorem State.allCtxs_rust (s : State) (f : Ctx → Ctx) : (s.allCtxs f).rust = s.rust := rfl
@[simp] theorem State.allCtxs_boot (s : State) (f : Ctx → Ctx) : (s.allCtxs f).boot = s.boot := rfl
@[simp] theorem State.allCtxs_pwr (s : State) (f : Ctx → Ctx) : (s.allCtxs f).pwr = s.pwr := rfl
@[simp] theorem State.allCtxs_sup (s : State) (f : Ctx → Ctx) : (s.allCtxs f).sup = s.sup := rfl
@[simp] theorem State.allCtxs_sep (s : State) (f : Ctx → Ctx) : (s.allCtxs f).sep = s.sep := rfl
@[simp] theorem State.allCtxs_scrub (s : State) (f : Ctx → Ctx) : (s.allCtxs f).scrub = s.scrub := rfl
@[simp] theorem State.allCtxs_wscrub (s : State) (f : Ctx → Ctx) : (s.allCtxs f).wscrub = s.wscrub := rfl
@[simp] theorem State.allCtxs_fab (s : State) (f : Ctx → Ctx) : (s.allCtxs f).fab = s.fab := rfl
@[simp] theorem State.allCtxs_dies (s : State) (f : Ctx → Ctx) : (s.allCtxs f).dies = s.dies := rfl
@[simp] theorem State.allCtxs_cores (s : State) (f : Ctx → Ctx) : (s.allCtxs f).cores = s.cores := rfl
@[simp] theorem State.allCtxs_ctxs (s : State) (f : Ctx → Ctx) : (s.allCtxs f).ctxs = s.ctxs.map f := rfl
@[simp] theorem State.allCtxs_core (s : State) (f : Ctx → Ctx) (i : CoreId) : (s.allCtxs f).core i = s.core i := rfl
@[simp] theorem State.allCtxs_die (s : State) (f : Ctx → Ctx) (i : DieId) : (s.allCtxs f).die i = s.die i := rfl
@[simp] theorem State.allCtxs_port (s : State) (f : Ctx → Ctx) (i : PortId) : (s.allCtxs f).port i = s.port i := rfl

/-! ### State.emit -/

@[simp] theorem State.emit_pending (s : State) (m : OutMsg) : (s.emit m).pending = s.pending := rfl
@[simp] theorem State.emit_out (s : State) (m : OutMsg) : (s.emit m).out = m :: s.out := rfl
@[simp] theorem State.emit_free (s : State) (m : OutMsg) : (s.emit m).free = s.free := rfl
@[simp] theorem State.emit_mem (s : State) (m : OutMsg) : (s.emit m).mem = s.mem := rfl
@[simp] theorem State.emit_flash (s : State) (m : OutMsg) : (s.emit m).flash = s.flash := rfl
@[simp] theorem State.emit_transit (s : State) (m : OutMsg) : (s.emit m).transit = s.transit := rfl
@[simp] theorem State.emit_bankLost (s : State) (m : OutMsg) : (s.emit m).bankLost = s.bankLost := rfl
@[simp] theorem State.emit_ind (s : State) (m : OutMsg) : (s.emit m).ind = s.ind := rfl
@[simp] theorem State.emit_host (s : State) (m : OutMsg) : (s.emit m).host = s.host := rfl
@[simp] theorem State.emit_rust (s : State) (m : OutMsg) : (s.emit m).rust = s.rust := rfl
@[simp] theorem State.emit_boot (s : State) (m : OutMsg) : (s.emit m).boot = s.boot := rfl
@[simp] theorem State.emit_pwr (s : State) (m : OutMsg) : (s.emit m).pwr = s.pwr := rfl
@[simp] theorem State.emit_sup (s : State) (m : OutMsg) : (s.emit m).sup = s.sup := rfl
@[simp] theorem State.emit_sep (s : State) (m : OutMsg) : (s.emit m).sep = s.sep := rfl
@[simp] theorem State.emit_scrub (s : State) (m : OutMsg) : (s.emit m).scrub = s.scrub := rfl
@[simp] theorem State.emit_wscrub (s : State) (m : OutMsg) : (s.emit m).wscrub = s.wscrub := rfl
@[simp] theorem State.emit_fab (s : State) (m : OutMsg) : (s.emit m).fab = s.fab := rfl
@[simp] theorem State.emit_dies (s : State) (m : OutMsg) : (s.emit m).dies = s.dies := rfl
@[simp] theorem State.emit_cores (s : State) (m : OutMsg) : (s.emit m).cores = s.cores := rfl
@[simp] theorem State.emit_ctxs (s : State) (m : OutMsg) : (s.emit m).ctxs = s.ctxs := rfl
@[simp] theorem State.emit_ctx (s : State) (m : OutMsg) (i : CtxId) : (s.emit m).ctx i = s.ctx i := rfl
@[simp] theorem State.emit_core (s : State) (m : OutMsg) (i : CoreId) : (s.emit m).core i = s.core i := rfl
@[simp] theorem State.emit_die (s : State) (m : OutMsg) (i : DieId) : (s.emit m).die i = s.die i := rfl
@[simp] theorem State.emit_port (s : State) (m : OutMsg) (i : PortId) : (s.emit m).port i = s.port i := rfl

/-! ### State.writeB -/

@[simp] theorem State.writeB_pending (s : State) (a : Nat) (bs : List Byte) : (s.writeB a bs).pending = s.pending := rfl
@[simp] theorem State.writeB_out (s : State) (a : Nat) (bs : List Byte) : (s.writeB a bs).out = s.out := rfl
@[simp] theorem State.writeB_free (s : State) (a : Nat) (bs : List Byte) : (s.writeB a bs).free = s.free := rfl
@[simp] theorem State.writeB_mem (s : State) (a : Nat) (bs : List Byte) : (s.writeB a bs).mem = memWrite memDefault s.mem a bs := rfl
@[simp] theorem State.writeB_flash (s : State) (a : Nat) (bs : List Byte) : (s.writeB a bs).flash = s.flash := rfl
@[simp] theorem State.writeB_transit (s : State) (a : Nat) (bs : List Byte) : (s.writeB a bs).transit = s.transit := rfl
@[simp] theorem State.writeB_bankLost (s : State) (a : Nat) (bs : List Byte) : (s.writeB a bs).bankLost = s.bankLost := rfl
@[simp] theorem State.writeB_ind (s : State) (a : Nat) (bs : List Byte) : (s.writeB a bs).ind = s.ind := rfl
@[simp] theorem State.writeB_host (s : State) (a : Nat) (bs : List Byte) : (s.writeB a bs).host = s.host := rfl
@[simp] theorem State.writeB_rust (s : State) (a : Nat) (bs : List Byte) : (s.writeB a bs).rust = s.rust := rfl
@[simp] theorem State.writeB_boot (s : State) (a : Nat) (bs : List Byte) : (s.writeB a bs).boot = s.boot := rfl
@[simp] theorem State.writeB_pwr (s : State) (a : Nat) (bs : List Byte) : (s.writeB a bs).pwr = s.pwr := rfl
@[simp] theorem State.writeB_sup (s : State) (a : Nat) (bs : List Byte) : (s.writeB a bs).sup = s.sup := rfl
@[simp] theorem State.writeB_sep (s : State) (a : Nat) (bs : List Byte) : (s.writeB a bs).sep = s.sep := rfl
@[simp] theorem State.writeB_scrub (s : State) (a : Nat) (bs : List Byte) : (s.writeB a bs).scrub = s.scrub := rfl
@[simp] theorem State.writeB_wscrub (s : State) (a : Nat) (bs : List Byte) : (s.writeB a bs).wscrub = s.wscrub := rfl
@[simp] theorem State.writeB_fab (s : State) (a : Nat) (bs : List Byte) : (s.writeB a bs).fab = s.fab := rfl
@[simp] theorem State.writeB_dies (s : State) (a : Nat) (bs : List Byte) : (s.writeB a bs).dies = s.dies := rfl
@[simp] theorem State.writeB_cores (s : State) (a : Nat) (bs : List Byte) : (s.writeB a bs).cores = s.cores := rfl
@[simp] theorem State.writeB_ctxs (s : State) (a : Nat) (bs : List Byte) : (s.writeB a bs).ctxs = s.ctxs := rfl
@[simp] theorem State.writeB_ctx (s : State) (a : Nat) (bs : List Byte) (i : CtxId) : (s.writeB a bs).ctx i = s.ctx i := rfl
@[simp] theorem State.writeB_core (s : State) (a : Nat) (bs : List Byte) (i : CoreId) : (s.writeB a bs).core i = s.core i := rfl
@[simp] theorem State.writeB_die (s : State) (a : Nat) (bs : List Byte) (i : DieId) : (s.writeB a bs).die i = s.die i := rfl
@[simp] theorem State.writeB_port (s : State) (a : Nat) (bs : List Byte) (i : PortId) : (s.writeB a bs).port i = s.port i := rfl

/-! ### State.clearB -/

@[simp] theorem State.clearB_pending (s : State) (a n : Nat) : (s.clearB a n).pending = s.pending := rfl
@[simp] theorem State.clearB_out (s : State) (a n : Nat) : (s.clearB a n).out = s.out := rfl
@[simp] theorem State.clearB_free (s : State) (a n : Nat) : (s.clearB a n).free = s.free := rfl
@[simp] theorem State.clearB_mem (s : State) (a n : Nat) : (s.clearB a n).mem = memErase s.mem a n := rfl
@[simp] theorem State.clearB_flash (s : State) (a n : Nat) : (s.clearB a n).flash = s.flash := rfl
@[simp] theorem State.clearB_transit (s : State) (a n : Nat) : (s.clearB a n).transit = s.transit := rfl
@[simp] theorem State.clearB_bankLost (s : State) (a n : Nat) : (s.clearB a n).bankLost = s.bankLost := rfl
@[simp] theorem State.clearB_ind (s : State) (a n : Nat) : (s.clearB a n).ind = s.ind := rfl
@[simp] theorem State.clearB_host (s : State) (a n : Nat) : (s.clearB a n).host = s.host := rfl
@[simp] theorem State.clearB_rust (s : State) (a n : Nat) : (s.clearB a n).rust = s.rust := rfl
@[simp] theorem State.clearB_boot (s : State) (a n : Nat) : (s.clearB a n).boot = s.boot := rfl
@[simp] theorem State.clearB_pwr (s : State) (a n : Nat) : (s.clearB a n).pwr = s.pwr := rfl
@[simp] theorem State.clearB_sup (s : State) (a n : Nat) : (s.clearB a n).sup = s.sup := rfl
@[simp] theorem State.clearB_sep (s : State) (a n : Nat) : (s.clearB a n).sep = s.sep := rfl
@[simp] theorem State.clearB_scrub (s : State) (a n : Nat) : (s.clearB a n).scrub = s.scrub := rfl
@[simp] theorem State.clearB_wscrub (s : State) (a n : Nat) : (s.clearB a n).wscrub = s.wscrub := rfl
@[simp] theorem State.clearB_fab (s : State) (a n : Nat) : (s.clearB a n).fab = s.fab := rfl
@[simp] theorem State.clearB_dies (s : State) (a n : Nat) : (s.clearB a n).dies = s.dies := rfl
@[simp] theorem State.clearB_cores (s : State) (a n : Nat) : (s.clearB a n).cores = s.cores := rfl
@[simp] theorem State.clearB_ctxs (s : State) (a n : Nat) : (s.clearB a n).ctxs = s.ctxs := rfl
@[simp] theorem State.clearB_ctx (s : State) (a n : Nat) (i : CtxId) : (s.clearB a n).ctx i = s.ctx i := rfl
@[simp] theorem State.clearB_core (s : State) (a n : Nat) (i : CoreId) : (s.clearB a n).core i = s.core i := rfl
@[simp] theorem State.clearB_die (s : State) (a n : Nat) (i : DieId) : (s.clearB a n).die i = s.die i := rfl
@[simp] theorem State.clearB_port (s : State) (a n : Nat) (i : PortId) : (s.clearB a n).port i = s.port i := rfl

/-! ### raiseEvent -/

@[simp] theorem raiseEvent_pending (s : State) (code : Nat) (n : Option CtxId) (detail : List Word) : (raiseEvent code n detail s).pending = s.pending := rfl
@[simp] theorem raiseEvent_out (s : State) (code : Nat) (n : Option CtxId) (detail : List Word) : (raiseEvent code n detail s).out = s.out := rfl
@[simp] theorem raiseEvent_free (s : State) (code : Nat) (n : Option CtxId) (detail : List Word) : (raiseEvent code n detail s).free = s.free := rfl
@[simp] theorem raiseEvent_mem (s : State) (code : Nat) (n : Option CtxId) (detail : List Word) : (raiseEvent code n detail s).mem = s.mem := rfl
@[simp] theorem raiseEvent_flash (s : State) (code : Nat) (n : Option CtxId) (detail : List Word) : (raiseEvent code n detail s).flash = s.flash := rfl
@[simp] theorem raiseEvent_transit (s : State) (code : Nat) (n : Option CtxId) (detail : List Word) : (raiseEvent code n detail s).transit = s.transit := rfl
@[simp] theorem raiseEvent_bankLost (s : State) (code : Nat) (n : Option CtxId) (detail : List Word) : (raiseEvent code n detail s).bankLost = s.bankLost := rfl
@[simp] theorem raiseEvent_ind (s : State) (code : Nat) (n : Option CtxId) (detail : List Word) : (raiseEvent code n detail s).ind = s.ind := rfl
@[simp] theorem raiseEvent_rust (s : State) (code : Nat) (n : Option CtxId) (detail : List Word) : (raiseEvent code n detail s).rust = s.rust := rfl
@[simp] theorem raiseEvent_boot (s : State) (code : Nat) (n : Option CtxId) (detail : List Word) : (raiseEvent code n detail s).boot = s.boot := rfl
@[simp] theorem raiseEvent_pwr (s : State) (code : Nat) (n : Option CtxId) (detail : List Word) : (raiseEvent code n detail s).pwr = s.pwr := rfl
@[simp] theorem raiseEvent_sup (s : State) (code : Nat) (n : Option CtxId) (detail : List Word) : (raiseEvent code n detail s).sup = s.sup := rfl
@[simp] theorem raiseEvent_sep (s : State) (code : Nat) (n : Option CtxId) (detail : List Word) : (raiseEvent code n detail s).sep = s.sep := rfl
@[simp] theorem raiseEvent_scrub (s : State) (code : Nat) (n : Option CtxId) (detail : List Word) : (raiseEvent code n detail s).scrub = s.scrub := rfl
@[simp] theorem raiseEvent_wscrub (s : State) (code : Nat) (n : Option CtxId) (detail : List Word) : (raiseEvent code n detail s).wscrub = s.wscrub := rfl
@[simp] theorem raiseEvent_fab (s : State) (code : Nat) (n : Option CtxId) (detail : List Word) : (raiseEvent code n detail s).fab = s.fab := rfl
@[simp] theorem raiseEvent_dies (s : State) (code : Nat) (n : Option CtxId) (detail : List Word) : (raiseEvent code n detail s).dies = s.dies := rfl
@[simp] theorem raiseEvent_cores (s : State) (code : Nat) (n : Option CtxId) (detail : List Word) : (raiseEvent code n detail s).cores = s.cores := rfl
@[simp] theorem raiseEvent_ctxs (s : State) (code : Nat) (n : Option CtxId) (detail : List Word) : (raiseEvent code n detail s).ctxs = s.ctxs := rfl
@[simp] theorem raiseEvent_ctx (s : State) (code : Nat) (n : Option CtxId) (detail : List Word) (i : CtxId) : (raiseEvent code n detail s).ctx i = s.ctx i := rfl
@[simp] theorem raiseEvent_core (s : State) (code : Nat) (n : Option CtxId) (detail : List Word) (i : CoreId) : (raiseEvent code n detail s).core i = s.core i := rfl
@[simp] theorem raiseEvent_die (s : State) (code : Nat) (n : Option CtxId) (detail : List Word) (i : DieId) : (raiseEvent code n detail s).die i = s.die i := rfl
@[simp] theorem raiseEvent_port (s : State) (code : Nat) (n : Option CtxId) (detail : List Word) (i : PortId) : (raiseEvent code n detail s).port i = s.port i := rfl

/-! ### raiseRust -/

@[simp] theorem raiseRust_pending (s : State) (r : RustReq) : (raiseRust r s).pending = s.pending := rfl
@[simp] theorem raiseRust_out (s : State) (r : RustReq) : (raiseRust r s).out = s.out := rfl
@[simp] theorem raiseRust_free (s : State) (r : RustReq) : (raiseRust r s).free = s.free := rfl
@[simp] theorem raiseRust_mem (s : State) (r : RustReq) : (raiseRust r s).mem = s.mem := rfl
@[simp] theorem raiseRust_flash (s : State) (r : RustReq) : (raiseRust r s).flash = s.flash := rfl
@[simp] theorem raiseRust_transit (s : State) (r : RustReq) : (raiseRust r s).transit = s.transit := rfl
@[simp] theorem raiseRust_bankLost (s : State) (r : RustReq) : (raiseRust r s).bankLost = s.bankLost := rfl
@[simp] theorem raiseRust_ind (s : State) (r : RustReq) : (raiseRust r s).ind = s.ind := rfl
@[simp] theorem raiseRust_host (s : State) (r : RustReq) : (raiseRust r s).host = s.host := rfl
@[simp] theorem raiseRust_boot (s : State) (r : RustReq) : (raiseRust r s).boot = s.boot := rfl
@[simp] theorem raiseRust_pwr (s : State) (r : RustReq) : (raiseRust r s).pwr = s.pwr := rfl
@[simp] theorem raiseRust_sup (s : State) (r : RustReq) : (raiseRust r s).sup = s.sup := rfl
@[simp] theorem raiseRust_sep (s : State) (r : RustReq) : (raiseRust r s).sep = s.sep := rfl
@[simp] theorem raiseRust_scrub (s : State) (r : RustReq) : (raiseRust r s).scrub = s.scrub := rfl
@[simp] theorem raiseRust_wscrub (s : State) (r : RustReq) : (raiseRust r s).wscrub = s.wscrub := rfl
@[simp] theorem raiseRust_fab (s : State) (r : RustReq) : (raiseRust r s).fab = s.fab := rfl
@[simp] theorem raiseRust_dies (s : State) (r : RustReq) : (raiseRust r s).dies = s.dies := rfl
@[simp] theorem raiseRust_cores (s : State) (r : RustReq) : (raiseRust r s).cores = s.cores := rfl
@[simp] theorem raiseRust_ctxs (s : State) (r : RustReq) : (raiseRust r s).ctxs = s.ctxs := rfl
@[simp] theorem raiseRust_ctx (s : State) (r : RustReq) (i : CtxId) : (raiseRust r s).ctx i = s.ctx i := rfl
@[simp] theorem raiseRust_core (s : State) (r : RustReq) (i : CoreId) : (raiseRust r s).core i = s.core i := rfl
@[simp] theorem raiseRust_die (s : State) (r : RustReq) (i : DieId) : (raiseRust r s).die i = s.die i := rfl
@[simp] theorem raiseRust_port (s : State) (r : RustReq) (i : PortId) : (raiseRust r s).port i = s.port i := rfl

/-! ### tick -/

@[simp] theorem tick_pending (s : State) : (tick s).pending = s.pending := rfl
@[simp] theorem tick_out (s : State) : (tick s).out = s.out := rfl
@[simp] theorem tick_free (s : State) : (tick s).free = s.free := rfl
@[simp] theorem tick_mem (s : State) : (tick s).mem = s.mem := rfl
@[simp] theorem tick_flash (s : State) : (tick s).flash = s.flash := rfl
@[simp] theorem tick_transit (s : State) : (tick s).transit = s.transit := rfl
@[simp] theorem tick_bankLost (s : State) : (tick s).bankLost = s.bankLost := rfl
@[simp] theorem tick_host (s : State) : (tick s).host = s.host := rfl
@[simp] theorem tick_rust (s : State) : (tick s).rust = s.rust := rfl
@[simp] theorem tick_boot (s : State) : (tick s).boot = s.boot := rfl
@[simp] theorem tick_pwr (s : State) : (tick s).pwr = s.pwr := rfl
@[simp] theorem tick_sup (s : State) : (tick s).sup = s.sup := rfl
@[simp] theorem tick_sep (s : State) : (tick s).sep = s.sep := rfl
@[simp] theorem tick_scrub (s : State) : (tick s).scrub = s.scrub := rfl
@[simp] theorem tick_wscrub (s : State) : (tick s).wscrub = s.wscrub := rfl
@[simp] theorem tick_fab (s : State) : (tick s).fab = s.fab := rfl
@[simp] theorem tick_dies (s : State) : (tick s).dies = s.dies := rfl
@[simp] theorem tick_cores (s : State) : (tick s).cores = s.cores := rfl
@[simp] theorem tick_ctxs (s : State) : (tick s).ctxs = s.ctxs := rfl
@[simp] theorem tick_ctx (s : State)  (i : CtxId) : (tick s).ctx i = s.ctx i := rfl
@[simp] theorem tick_core (s : State)  (i : CoreId) : (tick s).core i = s.core i := rfl
@[simp] theorem tick_die (s : State)  (i : DieId) : (tick s).die i = s.die i := rfl
@[simp] theorem tick_port (s : State)  (i : PortId) : (tick s).port i = s.port i := rfl

end Sys2Proof.Machine
end

