-- ==== Sys2Proof/Laws/Messages.lean ====
section
/-! SUPPORT. Laws of the message processor: accepting and answering an order changes the host side alone, so an order's
effect is read off the state in which it was accepted. -/

namespace Sys2Proof.Machine

theorem sessionOf_extendLease (st st2 : StationId) (a : Nat) (s : State) : sessionOf (extendLease st a s) st2 = sessionOf s st2 := by
  unfold extendLease sessionOf; split <;> rfl

theorem owner_extendLease (st : StationId) (a : Nat) (s : State) : (extendLease st a s).host.owner = s.host.owner := by
  unfold extendLease; split <;> rfl

theorem stateRefusal_extendLease (st : StationId) (a : Nat) (s : State) (d : Bool) :
    stateRefusal (extendLease st a s) d = stateRefusal s d := by
  unfold extendLease stateRefusal acceptsOrders isDark seqStopped; split <;> rfl

theorem hostOnly.trans {a b c : State} (h : hostOnly a b) (k : hostOnly b c) : hostOnly a c := by
  unfold hostOnly at *; rw [k, h]

theorem extendLease_hostOnly (st : StationId) (a : Nat) (s : State) : hostOnly s (extendLease st a s) := by
  unfold hostOnly extendLease; split <;> rfl

theorem noted_hostOnly (h : Hdr) (s : State) : hostOnly s (noted h s) :=
  hostOnly.trans (b := turned h s) rfl (extendLease_hostOnly _ _ _)

theorem replyKept_hostOnly (h : Hdr) (a b : Nat) (c : List Word) (s : State) : hostOnly s (replyKept h a b c s) := by
  unfold hostOnly replyKept reply
  dsimp only
  generalize sessionOf _ _ = o
  cases o <;> rfl

@[simp] theorem replyKept_core (h : Hdr) (a b : Nat) (c : List Word) (s : State) (k : CoreId) :
    (replyKept h a b c s).core k = s.core k := by rw [replyKept_hostOnly h a b c s]; rfl

@[simp] theorem replyKept_ctx (h : Hdr) (a b : Nat) (c : List Word) (s : State) (k : CtxId) :
    (replyKept h a b c s).ctx k = s.ctx k := by rw [replyKept_hostOnly h a b c s]; rfl

@[simp] theorem replyKept_die (h : Hdr) (a b : Nat) (c : List Word) (s : State) (k : DieId) :
    (replyKept h a b c s).die k = s.die k := by rw [replyKept_hostOnly h a b c s]; rfl

@[simp] theorem noted_core (h : Hdr) (s : State) (k : CoreId) : (noted h s).core k = s.core k := by rw [noted_hostOnly h s]; rfl
@[simp] theorem noted_ctx (h : Hdr) (s : State) (k : CtxId) : (noted h s).ctx k = s.ctx k := by rw [noted_hostOnly h s]; rfl
@[simp] theorem noted_die (h : Hdr) (s : State) (k : DieId) : (noted h s).die k = s.die k := by rw [noted_hostOnly h s]; rfl

/-- A state that differs on the host side alone has the same units. -/
theorem sameUnits_of_hostOnly {s t : State} (h : hostOnly s t) : sameUnits s t := by
  unfold hostOnly at h; unfold sameUnits; rw [h]; simp

/-- A state that differs on the host side alone has the same work. -/
theorem sameWork_of_hostOnly {s t : State} (h : hostOnly s t) : sameWork s t := by
  unfold hostOnly at h; unfold sameWork; rw [h]; simp

theorem regAddr_lt (r : Reg) : regAddr r < 2 ^ 64 := by
  cases r <;> simp only [regAddr, Reg.offset, ctlBase] <;> omega

end Sys2Proof.Machine
end

