-- ==== Sys2Proof/WellFormed.lean ====
section
/-! DEFINITION. Well-formed commands: operands within the widths and counts that the spec gives the messages and events. The
meanings are total; a message field out of its range is answered with BAD_MESSAGE or ADDRESS_FAULT by the meaning itself. -/

namespace Sys2Proof

/-- A header's SEQ counts from 1 in 64 bits (R526). -/
def Hdr.wf (h : Hdr) : Bool := decide (1 ≤ h.seq) && decide (h.seq < 2 ^ 64)

/-- A register access is an order with a header, or the controller's. -/
def Access.wf : Access → Bool
  | .order h => h.wf
  | .renine => true

/-- A thread number has 32 bits (R262). -/
def threadWf (t : Nat) : Bool := decide (t < 2 ^ 32)

/-- Slab, buffer, window, counter, pin, shard and chain numbers have at most 20 bits. -/
def numWf (n : Nat) : Bool := decide (n < 2 ^ 20)

/-- A host window's number (R234). -/
def winWf (n : Nat) : Bool := decide (n < 2 ^ 22)

/-- A thread and a command index (R262, R264). -/
def cmdWf (t c : Nat) : Bool := threadWf t && decide (c < 2 ^ 32)

/-- An access stands in its requester's internal order (R219): the operand reads and output writes of its kind of engine, or the
channels of a DMA engine. -/
def BankReq.wf (r : BankReq) : Bool :=
  match r.who, r.acc with
  | .me _, .read i => decide (i < 8)
  | .me _, .write i => decide (i < 2)
  | .ee _, .read i => decide (i < 6)
  | .ee _, .write i => decide (i < 3)
  | .re _, .read i => decide (i < 3)
  | .re _, .write _ => true
  | .le _, .channel _ => false
  | .dma _, .channel _ => true
  | .dma _, _ => false
  | _, .channel _ => false
  | _, _ => true

/-- One bank cycle lies in one bank (R205), and its accesses are of their requesters. -/
def BankCycle.wf (b : BankCycle) : Bool := b.bank % 0x80000 == 0 && b.reqs.all BankReq.wf

/-- The bank cycles that a command reports. -/
def arbWf (arb : List BankCycle) : Bool := arb.all BankCycle.wf

/-- A part of a copy ends in a descriptor of a list (R231), at a byte of its stream that was read. -/
def CopyStop.wf (u : CopyStop) : Bool := decide (u.desc < 65536) && decide (u.written ≤ u.read) && decide (u.read < 2 ^ 40)

/-- A struck word is one of memory. -/
def ScrubHit.wf (h : ScrubHit) : Bool := h.addr % 8 == 0 && decide (h.addr < 2 ^ 48)

/-- A cell has 80 stored words (R386); the arrival position lies in a frame (R363). -/
def RxCell.wf (c : RxCell) : Bool := c.words.length == 80 && decide (c.txSlot < 4096)

/-- The junction readings of an interval fit their signed 16-bit fields (R510). -/
def Interval.wf (r : Interval) : Bool :=
  [r.tj0, r.tj1].all fun t => decide (-32768 ≤ t) && decide (t ≤ 32767)

/-- The operands of an owner's order (R540, R566). -/
def Order.wf : Order → Bool
  | .renew => true
  | .handover t => decide (t < 2 ^ 64)
  | .releaseOwn => true
  | .regWrite _ _ => true
  | .load _ w seed first => winWf w && decide (seed < 2 ^ 64) && decide (first < 2 ^ 64)
  | .transitLoad _ w => winWf w
  | .start _ e _ _ => decide (e < 2 ^ 48)
  | .halt _ => true
  | .resume _ => true
  | .unload _ _ _ => true
  | .replay _ => true
  | .assign _ rs => rs.all fun r => decide (r.1 < 2 ^ 64) && decide (r.2 < 2 ^ 64)
  | .privilege _ _ => true
  | .quarantine c => decide (c < 2 ^ 64)
  | .window w _ b l _ k => decide (w < 2 ^ 64) && decide (b < 2 ^ 64) && decide (l < 2 ^ 64) && decide (k < 2 ^ 64)
  | .admitSet _ m ws => winWf m && ws.all winWf
  | .restore _ k w => numWf k && winWf w
  | .pubRelease w q => winWf w && decide (q < 2 ^ 64)
  | .ckptRead _ k w => numWf k && winWf w
  | .wake t _ => decide (t < 2 ^ 64)
  | .eventAck q => decide (q < 2 ^ 64)
  | .localWake _ => true
  | .progBegin => true
  | .progWrite o d => decide (o < 2 ^ 64) && d.length % 8 == 0
  | .progEnd => true
  | .reboot => true

/-- Is a command well-formed? -/
def Instr.wf : Instr → Bool
  | .stepStart _ _ _ => true
  | .anchorThird _ _ => true
  | .commandIssue _ _ eng slot => decide (eng < 7) && decide (slot < 32)
  | .commandComplete _ done => done.all fun d => cmdWf d.1 d.2
  | .waitTimeout _ t => threadWf t
  | .deadlineMiss _ => true
  | .waveRelease _ _ => true
  | .fullRate _ _ => true
  | .join _ t c => cmdWf t c
  | .mm _ t c arb => cmdWf t c && arbWf arb
  | .mmd _ t c arb => cmdWf t c && arbWf arb
  | .drain _ t c arb => cmdWf t c && arbWf arb
  | .repeatPass _ t c => cmdWf t c
  | .convertPass _ t c => cmdWf t c
  | .ep _ t c chunks arb => cmdWf t c && arbWf arb && chunks.all fun k => decide (0 < k)
  | .lxpose _ t c rows arb => cmdWf t c && arbWf arb && rows.all fun k => decide (0 < k)
  | .lgather _ t c rows arb => cmdWf t c && arbWf arb && rows.all fun k => decide (0 < k)
  | .lconv _ t c rows arb => cmdWf t c && arbWf arb && rows.all fun k => decide (0 < k)
  | .lseal _ t c arb => cmdWf t c && arbWf arb
  | .lctr _ t c arb => cmdWf t c && arbWf arb
  | .counterSettled _ t c => cmdWf t c
  | .rsum _ t c arb => cmdWf t c && arbWf arb
  | .rssq _ t c arb => cmdWf t c && arbWf arb
  | .topk _ t c arb => cmdWf t c && arbWf arb
  | .topkm _ t c arb => cmdWf t c && arbWf arb
  | .xidx _ t c arb => cmdWf t c && arbWf arb
  | .cnt _ t c arb => cmdWf t c && arbWf arb
  | .band _ t c arb => cmdWf t c && arbWf arb
  | .bor _ t c arb => cmdWf t c && arbWf arb
  | .bxor _ t c arb => cmdWf t c && arbWf arb
  | .tapx _ t c arb => cmdWf t c && arbWf arb
  | .partialRow _ g _ => numWf g.chain
  | .headerWord _ c _ => numWf c
  | .returnWord _ c _ => numWf c
  | .finalStageCheck _ t c _ _ => cmdWf t c
  | .dcopy _ t c upTo arb => cmdWf t c && arbWf arb && upTo.all CopyStop.wf
  | .dsettle _ t c => cmdWf t c
  | .dscat _ t c upTo arb => cmdWf t c && arbWf arb && upTo.all fun k => decide (k < 2 ^ 40)
  | .xsend _ t c arb => cmdWf t c && arbWf arb
  | .xret _ t c arb => cmdWf t c && arbWf arb
  | .xblk _ t c arb => cmdWf t c && arbWf arb
  | .shadeCompare _ t c _ _ => cmdWf t c
  | .mirrorCompare _ t c _ => cmdWf t c
  | .verdict _ _ _ => true
  | .condemnationInstant _ _ _ => true
  | .verdictHorizon _ => true
  | .commit _ _ _ => true
  | .condemnLate _ cause => decide (1 ≤ cause) && decide (cause ≤ 11)
  | .seal _ k => numWf k
  | .digestScrubPass _ => true
  | .frameStart hbm ddr _ _ => decide (hbm.length ≤ 12) && decide (ddr.length ≤ 16)
  | .epochStart => true
  | .stretchRequest _ _ _ => true
  | .stretchFreeze _ => true
  | .cadenceDecision => true
  | .cadNextFix => true
  | .cadNextDefault => true
  | .enterLocked => true
  | .reparent => true
  | .enterLost => true
  | .rootLost => true
  | .rootTakeover => true
  | .refFault _ => true
  | .ptpMessage _ _ => true
  | .alarm => true
  | .resumeEffect _ => true
  | .cellSend _ => true
  | .cellReceive _ rx => rx.wf
  | .resend _ _ slot => decide (slot < 4096)
  | .linkFail _ _ slot => decide (slot < 4096)
  | .linkUp _ _ _ => true
  | .serveLocal _ w => numWf w
  | .planCompute _ _ _ _ => true
  | .scrubPass _ hits arb => hits.all ScrubHit.wf && arbWf arb
  | .memUe _ reader a _ _ _ => reader.all (fun r => cmdWf r.1 r.2) && decide (a < 2 ^ 48)
  | .ddrCeRate _ _ => true
  | .estimateInterval r => r.wf
  | .droop _ => true
  | .droopEnd _ _ => true
  | .droopLong _ _ => true
  | .vfApply _ => true
  | .vfExpired => true
  | .rampDownWave _ _ => true
  | .railExcursion r _ => decide (r.val < 10)
  | .railOutOfWindow r _ => decide (r.val < 10)
  | .sequenceRetry => true
  | .aonSwitch => true
  | .aonReturn => true
  | .aonHoldupExpiry => true
  | .resetN _ _ => true
  | .powerFailN _ _ => true
  | .coolantFaultN _ _ => true
  | .greyEntry _ => true
  | .greyExit => true
  | .blackEntry => true
  | .watchdog => true
  | .clearDone bank => bank % 0x80000 == 0
  | .ownershipChange bank => bank % 0x80000 == 0
  | .resetRelease _ _ => true
  | .imageCheck _ => true
  | .memoryTrainingDone hbms channels _ => hbms.length == 12 && channels.length == 16
  | .ready _ => true
  | .bootAnnounce => true
  | .messageTimeEnd orders claims => orders.all (fun x => x.h.wf && x.o.wf && decide (x.at_ < 100000)) &&
    claims.all fun c => c.h.wf && decide (c.at_ < 100000)
  | .electionWindowEnd => true
  | .claimExpiry _ => true
  | .leaseLapse => true
  | .event => true
  | .eventResend => true
  | .rustRecord => true
  | .rustResend => true
  | .rdmaWrite _ q w _ _ => decide (q < 2 ^ 24) && winWf w
  | .rdmaRead _ q w _ _ => decide (q < 2 ^ 24) && winWf w
  | .session _ _ _ _ sig => decide (sig.length < 2 ^ 16)
  | .claim h _ => h.wf
  | .renew h => h.wf
  | .handover h t => h.wf && (Order.handover t).wf
  | .releaseOwn h => h.wf
  | .regRead h _ => h.wf
  | .regWrite a _ _ _ => a.wf
  | .indNowNs h => h.wf
  | .mgtCtxMode a _ _ => a.wf
  | .meSplit a _ _ => a.wf
  | .meDbgCtrl a _ _ => a.wf
  | .eeSplit a _ _ => a.wf
  | .coreBankOwn a _ _ _ _ => a.wf
  | .coreBankForce a _ _ _ => a.wf
  | .coreBankRepair a _ _ _ => a.wf
  | .dmaChan a _ _ _ => a.wf
  | .dmaAbort a _ _ => a.wf
  | .coreIpat a _ _ _ _ => a.wf
  | .dsptCtxLim a _ _ _ => a.wf
  | .dsptDl a _ _ _ => a.wf
  | .indAlarm a _ => a.wf
  | .pwrVf a _ => a.wf
  | .pwrLimit a _ => a.wf
  | .pwrState a _ => a.wf
  | .sepFloor a _ => a.wf
  | .release a _ _ => a.wf
  | .shdCtl a _ _ _ _ => a.wf
  | .query h => h.wf
  | .load h n w seed first => h.wf && (Order.load n w seed first).wf
  | .transitLoad h n w => h.wf && (Order.transitLoad n w).wf
  | .start h n e r g => h.wf && (Order.start n e r g).wf
  | .halt h _ => h.wf
  | .resume h _ => h.wf
  | .unload h _ _ _ => h.wf
  | .replay h _ => h.wf
  | .assign h n rs => h.wf && (Order.assign n rs).wf
  | .privilege h _ _ => h.wf
  | .quarantine h c => h.wf && (Order.quarantine c).wf
  | .window h w n b l d k => h.wf && (Order.window w n b l d k).wf
  | .admitSet h n m ws => h.wf && (Order.admitSet n m ws).wf
  | .restore h n k w => h.wf && (Order.restore n k w).wf
  | .pubRead h w _ _ _ => h.wf && winWf w
  | .pubRelease h w q => h.wf && (Order.pubRelease w q).wf
  | .journalRead h _ _ => h.wf
  | .ckptRead h n k w => h.wf && (Order.ckptRead n k w).wf
  | .rustRead h _ => h.wf
  | .wake h t all => h.wf && (Order.wake t all).wf
  | .eventAck h q => h.wf && (Order.eventAck q).wf
  | .localWake h _ => h.wf
  | .rustAck _ _ digest => digest.length == 4
  | .progBegin h => h.wf
  | .progWrite h o d => h.wf && (Order.progWrite o d).wf
  | .progEnd h => h.wf
  | .reboot h => h.wf
  | .attest h _ => h.wf
  | .certRead h => h.wf
  | .refreshCommand m ch _ hits => (m == .hbm && decide (ch < 12 * 32) || m == .ddr && decide (ch < 16)) && hits.all ScrubHit.wf
  | .linkDown _ => true
  | .signalDetected _ => true
  | .dimTransition => true
  | .aonFeedInWindow _ => true
  | .aonBackupOutOfWindow => true
  | .railInWindow r _ => decide (r.val < 10)
  | .discardedDatagram _ bs => decide (bs.length ≤ 8192)
  | .watchdogRestart => true

end Sys2Proof
end

