-- ==== Sys2Proof/Tests/Slice0.lean ====
section
/-! SUPPORT. The model's own tests: ill-formed commands that WellFormed refuses, worked examples of the spec, and for every
statement with hypotheses concrete states and operands that meet them. -/

open Sys2Proof Sys2Proof.Machine

namespace Sys2Proof.Tests

-- one test after another: each holds the kernel for a while
set_option Elab.async false

/-! ### Small states -/

/-- An open session of station 0. -/
def x0 : Session := { station := 0, key := [] }

/-- A header that arrives at H0, and one of station 0. -/
def hd (st : StationId) (seq : Nat) : Hdr := { station := st, seq := seq }
def h0 : Hdr := hd 0 1

/-- A device that is READY in Bright, owned by station 0. -/
def st0 : State := { host := { owner := some 0, sessions := [x0] }, boot := { phase := 6 }, sup := { sequencing := false } }

theorem accepted_st (o : Order) (s : State) (hh : s.host = st0.host) (hb : s.boot = st0.boot) (hp : s.pwr.now = 0)
    (hs : s.sup.faults = 0) : Accepted h0 o s x0 := by
  refine ⟨⟨?_, ?_, rfl, ?_⟩, ?_, by decide⟩
  · simp [hears, seqStopped, hp, hs]
  · simp [sessionOf, hh]; rfl
  · simp [stateRefusal, acceptsOrders, isDark, seqStopped, hb, hp, hs, st0]
  · rw [hh]; rfl

theorem served_st (dark : Bool) (s : State) (hh : s.host = st0.host) (hb : s.boot = st0.boot) (hp : s.pwr.now = 0)
    (hs : s.sup.faults = 0) : Served h0 dark s x0 := by
  refine ⟨?_, ?_, rfl, ?_⟩
  · simp [hears, seqStopped, hp, hs]
  · simp [sessionOf, hh]; rfl
  · simp [stateRefusal, acceptsOrders, isDark, seqStopped, hb, hp, hs, st0]

/-! ### Well-formed commands -/

theorem test_wf_refuses_headers_and_registers :
    [Instr.renew (hd 0 0), .renew (hd 0 (2 ^ 64)), .regWrite (.order (hd 0 0)) 0 0 none, .claim (hd 0 0) 1, .handover h0 (2 ^ 64)].all (fun c => !c.wf) = true := by
  decide

theorem test_wf_refuses_engines_and_units :
    [Instr.commandIssue 0 0 7 0, .commandIssue 0 0 1 32, .waitTimeout 0 (2 ^ 32), .join 0 0 (2 ^ 32), .mm 0 0 0 [⟨1, 0, []⟩],
     .mm 0 0 0 [⟨0, 0, [⟨.me 5, .read 8, 0⟩]⟩], .ep 0 0 0 (some 0) [], .lxpose 0 0 0 (some 0) [], .partialRow 0 ⟨2 ^ 20, 0, 0, 0, 0⟩ false,
     .headerWord 0 (2 ^ 20) 0, .dcopy 0 0 0 (some ⟨65536, 0, 0⟩) [], .dcopy 0 0 0 (some ⟨0, 0, 2 ^ 40⟩) [], .dcopy 0 0 0 (some ⟨0, 8, 0⟩) [],
     .dscat 0 0 0 (some (2 ^ 40)) [], .condemnLate 0 0, .condemnLate 0 12, .seal 0 (2 ^ 20),
     .frameStart (List.replicate 13 0) [] 0 0, .frameStart [] (List.replicate 17 0) 0 0, .cellReceive 0 ⟨[], true, true, 0, 0, true, 0, 0, none⟩,
     .resend 0 0 4096, .linkFail 0 0 4096, .serveLocal 0 (2 ^ 20), .scrubPass true [⟨4, 0, false⟩] [], .scrubPass true [] [⟨1, 0, []⟩],
     .memUe 0 (some (0, 0)) (2 ^ 48) 0 .hbm 0, .memUe 0 (some (2 ^ 32, 0)) 0 0 .hbm 0,
     .estimateInterval ⟨[], 0, 0, 32768, 0⟩, .clearDone 1, .ownershipChange 1, .memoryTrainingDone [] [] []].all (fun c => !c.wf) = true := by
  decide


theorem test_wf_refuses_messages :
    [Instr.load h0 0 (2 ^ 22) 0 0, .load h0 0 0 (2 ^ 64) 0, .load h0 0 0 0 (2 ^ 64), .transitLoad h0 0 (2 ^ 22), .start h0 0 (2 ^ 48) false 0,
     .assign h0 0 [(2 ^ 64, 0)], .quarantine h0 (2 ^ 64), .window h0 (2 ^ 64) 0 0 0 true 0, .admitSet h0 0 (2 ^ 22) [], .admitSet h0 0 0 [2 ^ 22],
     .restore h0 0 (2 ^ 20) 0, .pubRead h0 (2 ^ 22) 0 0 0, .pubRelease h0 0 (2 ^ 64), .ckptRead h0 0 0 (2 ^ 22), .wake h0 (2 ^ 64) false,
     .eventAck h0 (2 ^ 64), .rustAck 0 0 [], .progWrite h0 (2 ^ 64) [], .progWrite h0 0 [1], .refreshCommand .sram 0 0 [], .railInWindow 10 0,
     .rdmaWrite false 0 (2 ^ 22) 0 [], .rdmaWrite false (2 ^ 24) 0 0 [], .rdmaRead true 0 (2 ^ 22) 0 0, .messageTimeEnd [⟨h0, 100000, .renew⟩] [],
     .messageTimeEnd [] [⟨hd 0 0, 0, 0⟩]].all (fun c => !c.wf) = true := by
  decide

theorem test_wf_refuses_signature (sig : List Byte) (h : sig.length = 2 ^ 16) : (Instr.session {} 0 [] [] sig).wf = false := by
  simp [Instr.wf, h]

theorem test_wf_accepts :
    [Instr.renew h0, .mm 0 1 2 [⟨0x80000, 3, [⟨.me 5, .read 7, 0⟩, ⟨.network, .read 0, 1⟩]⟩], .dcopy 0 0 0 (some ⟨1, 64, 128⟩) [], .commandIssue 0 5 1 31, .railInWindow 9 0,
     .mm 0 1 2 [⟨0x80000, 3, [⟨.ee 5, .write 2, 0⟩]⟩],
     .messageTimeEnd [⟨h0, 5, .halt 3⟩] [⟨h0, 6, 100⟩]].all (fun c => c.wf) = true := by decide

/-! ### Worked examples of the spec -/

/-- The example under R329: bit 46 flips and is found in byte 5. -/
theorem test_umber_example : umberEncode [1, 2, 0, 0, 0, 0, 0, 0] = 0x69030000000000000201#80 ∧
    umberDecode (0x69030000000000000201#80 ^^^ 1 <<< 46) = ([1, 2, 0, 0, 0, 0, 0, 0], some 5, .corrected) := by decide

/-- The example under R73: a partial sum of −5 at s = −65. -/
theorem test_partial_words : GPair.words ({ el := { v := -5 }, s := -65 } : GPair) = [0xFFFFFFFFFFFFFFFB, 0xFFFFFFFFFFFFBF00] := by decide

/-- The declared-mode example of chapter 2: terms 768, 2, 2 and 2 at s = −8, and the drained BF16 and FP32 outputs. -/
theorem test_declared_terms : [termOf false 3 0 (-8), termOf false 1 (-7) (-8), termOf false 1 (-7) (-8), termOf false 3 (-9) (-8)] =
    [768, 2, 2, 2] ∧ (encodeRat 0x8 false 774 1 (-8)).raw = 0x4042 ∧ (encodeRat 0xA false 774 1 (-8)).raw = 0x40418000 := by decide

/-- The header-mode example of chapter 2: s = −76 for Kt = 4, and −65 for K = 20,480 with a bias of MAXEXP 4. -/
theorem test_header_exponents : headerS (pairP (some 0) (some 1)) 4 none none none = -76 ∧
    headerS (pairP (some 8) (some 3)) 20480 none (some (some 4)) none = -65 := by decide

/-- The repeat example of chapter 2: the largest total has 98 bits at s = −60, so the tile repeats at s = −55. -/
theorem test_repeat_example : judge [{ f := 2 ^ 97 }] (-60) 0 = .again (-55) ∧ judge [{ f := 2 ^ 92 }] (-55) 1 = .drain := by decide

/-- The example of chapter 1: core 77 lies on die 1 in region 9, and its ME block has its own place. -/
theorem test_core_example : (dieOf 77).val = 1 ∧ (regionOf 77).val = 9 ∧ regAddr (.meSplit 77) = 0x1F00114D0010 := by decide

/-- The masked routing example of chapter 5: indices 5 and 17, 40 win their ties. -/
theorem test_topk_example : bestK false 4 [(0x4010, 5), (0x3FC0, 17), (0x3FC0, 40), (0x3F60, 63), (0x4010, 101), (0x3FC0, 88), (0x3F80, 120),
    (0x3F40, 66)] = [(0x4010, 5), (0x4010, 101), (0x3FC0, 17), (0x3FC0, 40)] := by decide

/-- The example of chapter 14: two digests add modulo 2^128. -/
theorem test_tint_sum_example : (0xFFFFFFFFFFFFFFFFFFFFFFFFFFFFFFF0#128 + 0x25#128) = 0x15#128 := by decide

/-- The example of chapter 4: FMA V3, V1, V2, W0 under P0. -/
theorem test_ee_encoding : Ins.ofWord 0x0403042800000000 = { opc := 0x04, d := 3, a := 1, b := 2, c := 0x20, pg := 0, zi := false, fmt := 0, imm := 0 } := by
  decide

/-- R35: an address without a register, and one that is not aligned. -/
theorem test_no_register : regAt 0x1F0000000018 = none ∧ regAt (regAddr .pwrVf + 4) = none := by decide


/-! ### The hypotheses of the statements can be met: the machine and its registers -/

/-- A device whose memory holds one byte. -/
def one : State := { mem := [(5, 1)], pending := [.alarm] }

theorem meets_IdleStep : State.reset.pending = [] ∧ State.reset.ind.slew = 0 ∧
    ({ ind := { slew := -8192 } } : State).ind.slew.natAbs ≤ 8192 ∧ nsNow { ind := { slew := -8192 } } + 2 < 2 ^ 64 := ⟨rfl, rfl, by decide, by decide⟩
theorem meets_EveryCommand : ∃ t, exec .alarm one = .next t := ⟨_, rfl⟩
theorem meets_StepKeeps : one.Inv ∧ ∃ t, step one = .next t := ⟨by unfold State.Inv; decide, _, rfl⟩

theorem meets_RegisterWrites_OW : (regGet st0 (.meSplit 5) ^^^ 0x0000000400000004) &&& owMask (.meSplit 5) ≠ 0 ∧ Who.renine ≠ .owner := by decide
theorem meets_RegisterWrites_TW : (regGet st0 .pwrVf ^^^ 0) &&& owMask .pwrVf = 0 ∧ (regGet st0 .pwrVf ^^^ 0) &&& twMask .pwrVf ≠ 0 ∧
    Who.owner ≠ .renine := by decide
theorem meets_RegisterWrites_whole : ((regGet st0 .pwrVf ^^^ 0) &&& owMask .pwrVf = 0 ∨ Who.renine = .owner) ∧
    ((regGet st0 .pwrVf ^^^ 0) &&& twMask .pwrVf = 0 ∨ Who.renine = .renine) := by decide
theorem meets_RegisterWrites_refused : (regWriteAt .renine (regAddr (.meSplit 5)) 0x0000000400000004 st0).1 ≠ stOk := by decide
theorem meets_RegisterWrites_masked : (0xFFFFFFFF00000001 : Word) &&& writeMask .alarmCtl = 1 &&& writeMask .alarmCtl ∧ (0xFFFFFFFF00000001 : Word) ≠ 1 := by
  decide
theorem meets_RegisterWrites_W1C : regGet st0 .alarmCtl &&& owMask .alarmCtl = 2 &&& owMask .alarmCtl := by decide

theorem meets_RegisterRows_force : forceOf (.bankOwn 77 20) = some (.bankForce 77 20) ∧ forceOf .pwrVf = none := by decide
theorem meets_RegisterRows : regAt (0x1F0000000018 : Word).toNat = none ∧ Served h0 true st0 x0 ∧ Accepted h0 (.regWrite 0x1F0000000018 7) st0 x0 :=
  ⟨by decide, served_st _ _ rfl rfl rfl rfl, accepted_st _ _ rfl rfl rfl rfl⟩

theorem meets_OwnerDivides_me : ownerWrites h0 (.meSplit 5) 0x0000004400000044 st0 x0 ∧ (∀ n : CtxId, (st0.ctx n).state = 0) ∧
    nibbleSum (0x44 : BitVec 32).toNat 0 ≤ 8 := ⟨accepted_st _ _ rfl rfl rfl rfl, by decide, by decide⟩
theorem meets_OwnerDivides_ee : ownerWrites h0 (.eeSplit 5) 0x22 st0 x0 ∧ (∀ n : CtxId, (st0.ctx n).state = 0) ∧
    nibbleSum (0x22 : BitVec 32).toNat 0 ≤ 4 := ⟨accepted_st _ _ rfl rfl rfl rfl, by decide, by decide⟩
theorem meets_OwnerDivides_ipat : ownerWrites h0 (.ipat 5 1 0) 0x888888888888889A st0 x0 ∧ (∀ n : CtxId, (st0.ctx n).state = 0) :=
  ⟨accepted_st _ _ rfl rfl rfl rfl, by decide⟩
theorem meets_OwnerDivides_chan : ownerWrites h0 (.dmaChan 5 3) 0x0408 st0 x0 ∧ (∀ n : CtxId, (st0.ctx n).state = 0) ∧
    ((List.finRange 16).map fun i : Fin 16 => if i = 3 then fld (0x0408 : Word) 15 8 else (st0.core 5).chan[i.val].slices.toNat).sum ≤ 64 :=
  ⟨accepted_st _ _ rfl rfl rfl rfl, by decide, by decide⟩

/-- Bank 20 of core 77 belongs to context 1 in stb, and is being cleared in stc. -/
def stb : State := st0.modCore 77 fun k => { k with own := upd k.own 20 fun o => { o with valid := true, ctx := 1 } }
def stc : State := st0.modCore 77 fun k => { k with own := upd k.own 20 fun o => { o with busy := true } }

theorem meets_Banks_own : ownerWrites h0 (.bankOwn 77 20) 0x103 stb x0 ∧ (stb.core 77).own[20].busy = false ∧ (stb.core 77).own[20].disabled = false ∧
    bit (0x103 : Word) 9 = false ∧
    ((List.finRange 56).filter fun i => if i.val = 20 then bit (0x103 : Word) 9 else (stb.core 77).own[i.val].retain).length ≤ 8 ∧
    (stb.ctx 1).state ≠ 2 ∧ bankBound stb 1 (.spad 77 20) = false ∧ (stb.ctx 3).state ≠ 2 :=
  ⟨accepted_st _ _ rfl rfl rfl rfl, by decide, by decide, by decide, by decide, by decide, by decide, by decide⟩
theorem meets_Banks_repair : repairBad (st0.core 5).repair[31] (BitVec.ofNat 48 (fld (0x0009A5 : Word) 47 0)) = false := by decide
theorem meets_Banks_clear : (stc.core 77).own[20].busy = true := by decide

theorem meets_ContextRegisters_mode : ownerWrites h0 (.ctxMode 3) 3 st0 x0 ∧ (st0.ctx 3).state = 0 ∧ bit (3 : Word) 2 = (st0.ctx 3).priv :=
  ⟨accepted_st _ _ rfl rfl rfl rfl, by decide, by decide⟩
theorem meets_ContextRegisters_priv : (st0.ctx 3).state = 0 ∧ bit (4 : Word) 0 = (st0.ctx 3).loose ∧ bit (4 : Word) 1 = (st0.ctx 3).borrow ∧
    (allCtxIds.filter fun m => (st0.ctx m).priv).length < 2 := by decide
theorem meets_ContextRegisters_limits : ownerWrites h0 (.ctxLim 1 3) 0x0000080000000006 st0 x0 ∧ (st0.ctx 3).state = 0 ∧
    (allCtxIds.map fun m => if m = 3 then fld (0x0000080000000006 : Word) 46 32 else (st0.die 1).lim[m.val].table.toNat).sum ≤ 16384 ∧
    (allCtxIds.map fun m => if m = 3 then fld (0x0000080000000006 : Word) 5 0 else (st0.die 1).lim[m.val].resident.toNat).sum ≤ 48 :=
  ⟨accepted_st _ _ rfl rfl rfl rfl, by decide, by decide, by decide⟩
theorem meets_ContextRegisters_rest : ownerWrites h0 (.dl 1 3) 7 st0 x0 ∧ ownerWrites h0 (.shdCtl 1 3) 4 st0 x0 ∧ fld (4 : Word) 2 0 < 5 ∧
    ownerWrites h0 (.shdSeed 1 3) 9 st0 x0 :=
  ⟨accepted_st _ _ rfl rfl rfl rfl, accepted_st _ _ rfl rfl rfl rfl, by decide, accepted_st _ _ rfl rfl rfl rfl⟩

/-- The Sepia head stands at 640. -/
def sts : State := { st0 with sep := { head := 640 } }

theorem meets_Floor : ownerWrites h0 .sepFloor 128 sts x0 ∧ sts.sep.floor.toNat ≤ (128 : Word).toNat ∧ (128 : Word).toNat ≤ sts.sep.head.toNat ∧
    (128 : Word).toNat % 64 = 0 ∧ (∀ m, (sts.ctx m).shut = []) :=
  ⟨accepted_st _ _ rfl rfl rfl rfl, by decide, by decide, by decide, by decide⟩

/-- A ring of 256 MiB with STALL set, and a closed record of context 3 that waits in it. -/
def shutWhole : ShutRec := { bytes := [1], whole := true }
def string : State := { sts with sep := { head := 640, size := 1, base := some 0, stall := true } }.modCtx 3 fun c => { c with shut := [shutWhole] }
theorem meets_Floor_waiting : ownerWrites h0 .sepRing 0 string x0 ∧ (∀ m, (string.ctx m).shut = if m = 3 then [shutWhole] else []) ∧
    shutWhole.whole = true ∧ string.sep.stall = true ∧ ringFits string shutWhole.bytes.length = true :=
  ⟨accepted_st _ _ rfl rfl rfl rfl, by decide, rfl, rfl, by decide⟩
theorem meets_Release : ownerWrites h0 (.sepCtl 3) 1 st0 x0 := accepted_st _ _ rfl rfl rfl rfl

theorem meets_VfWrite : 120 ≤ fld (0xA0A0000000000000 : Word) 63 56 ∧ fld (0xA0A0000000000000 : Word) 63 56 ≤ 170 ∧
    120 ≤ fld (0xA0A0000000000000 : Word) 55 48 ∧ fld (0xA0A0000000000000 : Word) 55 48 ≤ 170 ∧ fld (0xA0A0000000000000 : Word) 47 44 ≤ 4 := by decide

/-- The image allows 3,000 W. -/
def stw : State := { st0 with pwr := { boardMax := 3000 } }

theorem meets_LimitWrite : ownerWrites h0 .pwrLimit 0x09C40000 stw x0 ∧ 1800 ≤ fld (0x09C40000 : Word) 31 16 ∧
    fld (0x09C40000 : Word) 31 16 ≤ stw.pwr.boardMax.toNat := ⟨accepted_st _ _ rfl rfl rfl rfl, by decide, by decide⟩
theorem meets_StateWrite : ownerWrites h0 .pwrState 1 st0 x0 ∧ ownerWrites h0 .pwrState 2 st0 x0 ∧ st0.pwr.busy = false ∧ fld (2 : Word) 1 0 = 2 ∧
    (∀ n, (st0.ctx n).state ≠ 2 ∧ (st0.ctx n).state ≠ 3 ∧ (st0.ctx n).state ≠ 4 ∧ (st0.ctx n).x.plan.any (planTouches st0) = false) ∧
    fld (1 : Word) 1 0 ≤ 1 ∧ st0.pwr.now.toNat ≤ 1 ∧ st0.pwr.now ≠ 3 :=
  ⟨accepted_st _ _ rfl rfl rfl rfl, accepted_st _ _ rfl rfl rfl rfl, by decide, by decide, by decide, by decide, by decide, by decide⟩

/-- The alarm is enabled. -/
def sta : State := { st0 with ind := { alarmEn := true, ns := 100 } }

theorem meets_AlarmWrite : ownerWrites h0 .alarm 101 sta x0 ∧ (sta.ind.alarmEn = true → nsNow sta < (101 : Word).toNat) ∧
    ownerWrites h0 .alarm 100 sta x0 ∧ sta.ind.alarmEn = true ∧ (100 : Word).toNat ≤ nsNow sta :=
  ⟨accepted_st _ _ rfl rfl rfl rfl, by decide, accepted_st _ _ rfl rfl rfl rfl, by decide, by decide⟩

/-- Context 3 is halted and owns channels 6 and 7 of core 5: the first is paused in a command, the second had stopped. -/
def abRun : Run := { thread := 1, cmd := 2, core := 5, eng := .dma, env := [], body := [], part := some { idx := 2, bytes := 64, ref := 8 } }
def sth : State := (st0.modCtx 3 fun c => { c with state := 3, runs := [abRun] }).modCore 5 fun k =>
  { k with chan := upd (upd k.chan 6 fun h => { h with valid := true, ctx := 3 }) 7 fun h => { h with valid := true, ctx := 3 }
           dma := upd (upd k.dma 6 fun d => { d with state := 3, queue := [(1, 2)] }) 7 fun d => { d with state := 4, cause := 2 } }

theorem meets_Inspect : ownerWrites h0 (.dbgCtrl 5) 0x31 sth x0 ∧ bit (0x31 : Word) 0 = true ∧ (sth.ctx (ctxOf (fld (0x31 : Word) 6 4))).state = 3 :=
  ⟨accepted_st _ _ rfl rfl rfl rfl, by decide, by decide⟩
/-- Black may be asked for while a context is halted. -/
theorem meets_StateWrite_black : ownerWrites h0 .pwrState 3 sth x0 ∧ sth.pwr.busy = false ∧ (sth.ctx 3).state = 3 ∧ (∀ n, (sth.ctx n).state ≠ 2) :=
  ⟨accepted_st _ _ rfl rfl rfl rfl, by decide, by decide, by decide⟩
theorem meets_Abort : ownerWrites h0 (.dmaAbort 5) 0xC0 sth x0 ∧ (∀ i : Fin 16, bit (0xC0 : Word) i.val = true → (sth.core 5).chan[i.val].valid = true ∧
    ((sth.ctx (sth.core 5).chan[i.val].ctx).state = 4 ∨ ((sth.ctx (sth.core 5).chan[i.val].ctx).state = 3 ∧
      ((sth.ctx (sth.core 5).chan[i.val].ctx).v.resumeAt = none ∨ (sth.ctx (sth.core 5).chan[i.val].ctx).v.toReplay = true)))) ∧
    (bit (0xC0 : Word) (6 : Fin 16).val = true ∧ (sth.core 5).dma[(6 : Fin 16).val].state ≠ 0 ∧ (sth.core 5).dma[(6 : Fin 16).val].state ≠ 4) ∧
    (∀ j : Fin 16, bit (0xC0 : Word) j.val = true → j ≠ 6 → (1, 2) ∉ (sth.core 5).dma[j.val].queue) ∧
    (sth.core 5).dma[(6 : Fin 16).val].queue.head? = some (1, 2) ∧ findRun sth 3 1 2 = some abRun ∧
    bit (0xC0 : Word) (7 : Fin 16).val = true ∧ (sth.core 5).dma[(7 : Fin 16).val].state = 4 :=
  ⟨accepted_st _ _ rfl rfl rfl rfl, by decide, by decide, by decide, by decide, by decide, by decide, by decide⟩


/-! ### Messages -/

/-- A published window of direction 1 and an open one of direction 0. -/
def outWin : HostWin := { win := 9, ctx := 3, base := 0x200000, len := 0x200000, dir := true, pubCtr := 0, readySeq := 1, state := 2 }
def inWin : HostWin := { win := 8, ctx := 3, base := 0x400000, len := 0x200000, dir := false, pubCtr := 0 }

/-- A READY device of station 0 with two windows, an event, a claim, a stored Rust record, and a Sepia ring with one record. -/
def stm : State := { st0 with
  host := { owner := some 0, sessions := [x0, { station := 5, key := [] }], windows := [outWin, inWin], claims := [⟨5, 100, 0⟩]
            events := [{ seq := 1, code := 1, ctx := none, dropped := 0, ns := 0, step := 0, detail := [] }] }
  rust := { store := [{ seq := 1, body := [0xA0], sig := [] }] }
  sep := { size := 1, base := some 0x6C00000000, head := 128 } }

theorem served_stm (dark : Bool) : Served h0 dark stm x0 := by cases dark <;> exact ⟨rfl, rfl, rfl, rfl⟩
theorem accepted_stm (o : Order) : Accepted h0 o stm x0 := by
  refine ⟨⟨rfl, rfl, rfl, ?_⟩, rfl, by decide⟩
  generalize orderDark o = b; cases b <;> rfl

theorem meets_Reads : Served h0 true stm x0 ∧ regAt (regAddr .pwrVf) = some .pwrVf ∧ Reg.pwrVf ≠ .indNs :=
  ⟨served_stm _, by decide, by decide⟩
theorem meets_PubRead : Served h0 false stm x0 ∧ anyWin stm 9 = some outWin ∧ outWin.dir = true ∧ outWin.state = 2 ∧ 8136 ≤ 8136 ∧
    0x1FE038 + 8136 ≤ outWin.len ∧ 1 = outWin.readySeq := ⟨served_stm _, by decide, by decide, by decide, by decide, by decide, by decide⟩
theorem meets_JournalRead : Served h0 false stm x0 ∧ stm.sep.base = some 0x6C00000000 ∧ 128 ≤ 8144 ∧ stm.sep.floor.toNat ≤ 0 ∧
    0 + 128 ≤ stm.sep.head.toNat := ⟨served_stm _, by decide, by decide, by decide, by decide⟩
theorem meets_RustRead : Served h0 true stm x0 ∧ stm.rust.store.find? (fun r => r.seq == 1) = some { seq := 1, body := [0xA0], sig := [] } :=
  ⟨served_stm _, by decide⟩
theorem meets_Attest : Served h0 (stm.boot.phase == 7) stm x0 ∧ (List.replicate 32 (0 : Byte)).length = 32 := ⟨served_stm _, by decide⟩

theorem meets_OnlyTheOwner_other : hears stm (hd 5 1).via = true ∧ sessionOf stm 5 = some { station := 5, key := [] } ∧
    keptReply { station := 5, key := [] } (hd 5 1) = none ∧ stm.host.owner ≠ some 5 ∧ anyMessage (.query (hd 5 1)) = some (hd 5 1, 0x12) ∧ stateRefusal stm false = 0 := by decide

/-- The owner has already applied SEQ 4, and the device is in Black. -/
def stq : State := { stm with host := { stm.host with sessions := [{ x0 with high := 4 }] }, pwr := { now := 3 } }

theorem meets_OnlyTheOwner_stale : hears stq { port := .m0 } = true ∧ sessionOf stq 0 = some { x0 with high := 4 } ∧
    keptReply { x0 with high := 4 } { station := 0, seq := 4, via := { port := .m0 } } = none ∧
    stq.host.owner = some 0 ∧ (4 : Nat) ≤ ({ x0 with high := 4 } : Session).high ∧ ({ x0 with high := 4 } : Session).high < 5 ∧
    stateRefusal stq (orderDark (.halt 3)) ≠ 0 := by decide

theorem meets_Repeated : hears stm h0.via = true ∧ sessionOf stm 0 = some x0 ∧ keptReply { x0 with recent := [(1, [7])] } h0 = some [7] ∧
    sessionOf { stm with host := { stm.host with sessions := [{ x0 with recent := [(1, [7])] }] } } 0 = some { x0 with recent := [(1, [7])] } ∧
    anyMessage (.query h0) = some (h0, 0x12) := by decide
theorem meets_BadDatagram : hears stm {} = true ∧ sessionOf stm 7 = none ∧ anyMessage (.query (hd 7 1)) = some (hd 7 1, 0x12) ∧
    hears stq {} = false := by decide
/-- A datagram of an unknown TYPE from station 0, with its tag or without, and a SESSION without a body. -/
def frame (type : Nat) : List Byte := wordsToBytes (zyndyHeader type 0 0 1 0)
theorem meets_BadDatagram_raw :
    let framed (bs : List Byte) : Prop := fld (wd (bytesToWords bs) 0) 63 48 = 0x5A59 ∧ fld (wd (bytesToWords bs) 0) 47 40 = 1 ∧
      bs.length = 48 + fld (wd (bytesToWords bs) 0) 15 0
    framed (frame 0x77 ++ tagOf [] (frame 0x77)) ∧ framed (frame 0x77 ++ List.replicate 16 0) ∧ framed (frame 0x01 ++ List.replicate 16 0) ∧
    fld (wd (bytesToWords (frame 0x77)) 0) 39 32 = 0x77 ∧ fld (wd (bytesToWords (frame 0x01)) 0) 39 32 = 0x01 ∧ bodyFits 0x77 [] = false ∧
    sessionFits [] = false ∧ tagOf [] (frame 0x77) ≠ List.replicate 16 0 := by decide +kernel

/-- Station 0 is listed with the digest of a key; whether Falcon verifies a signature is free. -/
def pk0 : List Byte := List.replicate 1793 0
def stk0 : State := { stm with boot := { phase := 6, cfg := { stations := [⟨0, 200, bytesToWords (shake256 32 pk0)⟩] } } }
theorem meets_Session (hv : Config.falconVerify pk0 (shake256 32 (padTo 1800 pk0 ++ List.replicate 1568 0)) [7] = true) :
    hears stk0 {} = true ∧ (pk0.length = 1793 ∧ (List.replicate 1568 (0 : Byte)).length = 1568 ∧ 1 ≤ [(7 : Byte)].length ∧ [(7 : Byte)].length ≤ 1280) ∧
    mayOpen stk0 0 (bytesToWords (shake256 32 pk0)) = true ∧
    Config.falconVerify pk0 (shake256 32 (padTo 1800 pk0 ++ List.replicate 1568 0)) [7] = true := by
  refine ⟨by decide, ⟨List.length_replicate, List.length_replicate, by decide, by decide⟩, ?_, hv⟩
  simp [mayOpen, stk0]
theorem meets_Session_refused : mayOpen stm 9 [] = false ∧ hears stq {} = false ∧ ([] : List Byte).length ≠ 1793 := by decide

/-- No station owns the device, and two claims wait. -/
def ste : State := { stm with host := { stm.host with owner := none, electionAt := some 0, claims := [⟨5, 100, 0⟩, ⟨9, 180, 0⟩] }
                              boot := { phase := 6, cfg := { stations := [⟨0, 200, []⟩] } } }

theorem meets_Claim : Served h0 true ste x0 ∧ 200 ≤ 255 ∧ 200 ≤ ceilingOf ste h0.station ∧ ste.host.owner = none ∧ ¬ (201 ≤ ceilingOf ste h0.station) :=
  ⟨⟨rfl, rfl, rfl, rfl⟩, by decide, by decide, by decide, by decide⟩
theorem meets_Claim_owned : Served h0 true { ste with host := stm.host } x0 ∧ 200 ≤ ceilingOf { ste with host := stm.host } h0.station ∧ stm.host.owner ≠ none :=
  ⟨⟨rfl, rfl, rfl, rfl⟩, by decide, by decide⟩
theorem meets_Election : ste.host.electionAt = some 0 ∧ 0 ≤ nsNow ste ∧ ste.host.owner = none ∧ (⟨9, 180, 0⟩ : Claim) ∈ ste.host.claims ∧
    nsNow ste < 0 + 5000000000 ∧ (∀ d ∈ ste.host.claims, nsNow ste < d.at_ + 5000000000 → d ≠ ⟨9, 180, 0⟩ →
      d.prio < 180 ∨ (d.prio = 180 ∧ d.station.val < 9)) := by decide
theorem meets_Lapse : stm.host.owner ≠ none ∧ stm.host.leaseEnd ≤ nsNow stm ∧ (⟨5, 100, 0⟩ : Claim) ∈ stm.host.claims ∧
    (∀ d ∈ stm.host.claims, d = ⟨5, 100, 0⟩) := by decide
theorem meets_Lapse_vacant : st0.host.owner ≠ none ∧ st0.host.leaseEnd ≤ nsNow st0 ∧ st0.host.claims = [] := by decide

theorem meets_Ownership : Accepted h0 .renew stm x0 ∧ Accepted h0 (.handover 5) stm x0 ∧ sessionOf stm 5 = some { station := 5, key := [] } ∧
    (5 : StationId) ≠ h0.station ∧ Accepted h0 .releaseOwn stm x0 := ⟨accepted_stm _, accepted_stm _, by decide, by decide, accepted_stm _⟩
/-- Three events were lost to the full list. -/
def stlost : State := { stm with host := { stm.host with lost := 3 } }
theorem meets_EventAck_lost : Accepted h0 (.eventAck 1) stlost x0 ∧ stlost.host.lost ≠ 0 ∧
    (stlost.host.events.filter fun e => decide (1 < e.seq)).length < 4096 ∧ stm.host.lost = 0 := ⟨⟨⟨rfl, rfl, rfl, rfl⟩, rfl, by decide⟩, by decide, by decide, by decide⟩
theorem meets_EventAck_Wake : Accepted h0 (.eventAck 1) stm x0 ∧ Accepted h0 (.wake 0x7FFF false) stm x0 ∧ 0x7FFF < 2 ^ 15 ∧ stm.pwr.now ≠ 3 :=
  ⟨accepted_stm _, accepted_stm _, by decide, by decide⟩

/-- The device is in Dim. -/
def std : State := { stm with pwr := { now := 1 } }

theorem meets_LocalWake : Accepted h0 (.localWake true) std x0 ∧ seqStopped std = false ∧ std.pwr.now = 1 ∧ std.pwr.trans = .none :=
  ⟨⟨⟨rfl, rfl, rfl, rfl⟩, rfl, by decide⟩, by decide, by decide, by decide⟩
theorem meets_PubRelease : Accepted h0 (.pubRelease 9 1) stm x0 ∧ anyWin stm 9 = some outWin ∧ outWin.dir = true ∧ outWin.state = 2 ∧ 1 = outWin.readySeq :=
  ⟨accepted_stm _, by decide, by decide, by decide, by decide⟩

theorem meets_Assign : Accepted h0 (.assign 3 [(0, 0x200000), (0x400000, 0x200000)]) stm x0 ∧ (stm.ctx 3).state = 0 ∧
    (∀ r ∈ [(0, 0x200000), (0x400000, 0x200000)], r.1 % 0x200000 = 0 ∧ r.2 % 0x200000 = 0 ∧ dramRange stm r.1 r.2 = true ∧
      ringOverlap stm r.1 r.2 = false ∧ ∀ m, m ≠ 3 → ∀ q ∈ (stm.ctx m).ranges, overlap r.1 (r.1 + r.2) q.1 (q.1 + q.2) = false) ∧
    [(0, 0x200000), (0x400000, 0x200000)].Pairwise (fun a b => overlap a.1 (a.1 + a.2) b.1 (b.1 + b.2) = false) :=
  ⟨accepted_stm _, by decide, by decide, by decide⟩
theorem meets_Privilege_Quarantine : Accepted h0 (.privilege 3 true) stm x0 ∧ (stm.ctx 3).state = 0 ∧
    (allCtxIds.filter fun m => m != 3 && (stm.ctx m).priv).length < 2 ∧ Accepted h0 (.quarantine (7 : CoreId).val) stm x0 ∧
    (stm.core 7).quarantined = false ∧ (∀ m, boundOn (stm.ctx m) (7 : CoreId).val = true → attemptPending (stm.ctx m) = true) := ⟨accepted_stm _, by decide, by decide, accepted_stm _, by decide, by decide⟩

/-- Context 3 holds two adjoining ranges; the window lies over both. -/
def str : State := stm.modCtx 3 fun c => { c with ranges := [(0, 0x400000), (0x400000, 0x400000)] }

theorem meets_Window : Accepted h0 (.window 12 3 0x200000 0x400000 true 0) str x0 ∧ 12 < 2 ^ 20 ∧ 0x200000 % 0x200000 = 0 ∧ 0x400000 % 0x200000 = 0 ∧
    (∀ a, 0x200000 ≤ a → a < 0x200000 + 0x400000 → ∃ r ∈ (str.ctx 3).ranges, r.1 ≤ a ∧ a < r.1 + r.2) ∧ anyWin str 12 = none := by
  refine ⟨accepted_stm _, by decide, by decide, by decide, fun a lo hi => ?_, by decide⟩
  by_cases h : a < 0x400000
  · exact ⟨(0, 0x400000), by decide, Nat.zero_le _, by omega⟩
  · exact ⟨(0x400000, 0x400000), by decide, by omega, by omega⟩

theorem meets_Refused_ok : (orderEffect h0 .renew (noted h0 stm)).1 = stOk := by decide
theorem meets_Refused : Accepted h0 (.halt 3) stm x0 ∧ (∀ n m ws, Order.halt 3 ≠ .admitSet n m ws) ∧ (∀ c, Order.halt 3 ≠ .localWake c) ∧
    Order.halt 3 ≠ .progEnd := ⟨accepted_stm _, by simp, by simp, by simp⟩


/-! ### The job's orders -/

/-- A job image with a tag section and nothing else, and the same as a transit image (R27, R28). -/
def imgWords : List Word := [0x574a4f4200010005, 1, 0x4cd2cac3e5edf1b, 0x7a2867bef082b880, 0x8a4336a01a41f736, 0x300ad24efb24672b, 0, 0, 0x1000000000000c0, 0x30, 0xf00000000000100, 0x48, 0x20000000000000c0, 0, 0x21000000000000c0, 0, 0x22000000000000c0, 0, 0, 0, 0, 0, 0, 0, 0xf00000000000000, 1, 0x90798e8dc419111, 0x4a80d9b72d99560, 0x4653238e4992a481, 0x51a33533a78ac5ef, 0, 0, 0xf00000000000000, 1, 8, 0, 0, 0, 0, 0, 0]
def tranWords : List Word := [0x574a4f4200010004, 1, 0x138da80b2bddb946, 0x24eb3e74eb3f3b23, 0x821bb862ea52cd3f, 0x2f76d56e64270cb5, 0, 0, 0x1000000000000c0, 0, 0x20000000000000c0, 0, 0x21000000000000c0, 0, 0x22000000000000c0, 0, 0, 0, 0, 0, 0, 0, 0, 0]

/-- The image lies in host window 8 of context 3. -/
def sti (ws : List Word) : State := stm.writeB 0x400000 (wordsToBytes ws)

def imgJob (s : State) : Except Nat Job :=
  (readImage (fun o k => s.readB (0x400000 + o) k) 0x200000 false).bind fun r => jobOf r (devNum s) (s.ctx 3).loose

theorem meets_Load : Accepted h0 (.load 3 8 5 7) (sti imgWords) x0 ∧ ((sti imgWords).ctx 3).state = 0 ∧ (sti imgWords).sep.base.isSome = true ∧
    hostWin (sti imgWords) 3 8 = some inWin := ⟨accepted_stm _, by decide, by decide, by decide⟩
theorem meets_Load_checks :
    (match imgJob (sti imgWords) with
    | .error _ => false
    | .ok j0 =>
      let s := sti imgWords
      let j := { j0 with seed := 5 % 2 ^ 32, firstStep := 7 }
      match bindJob s 3 j with
      | none => false
      | some b =>
        let s1 := s.modCtx 3 fun c => { c with job := some j, b := b }
        let s2 := b.bufs.foldl (fun s y => fillBuf j y s) (fillSlabs j (b.slabs ++ b.mirrors) s1)
        decide ((j.ctrDevs.filter fun y => y.2 == devNum s).length ≤ 65536) && tablesFit s 3 j b && shardsFit s2 (s2.ctx 3) j &&
          tagStatus (s2.ctx 3) j == 0 && remoteSigsOk s2 3) = true := by decide +kernel
theorem meets_TransitLoad :
    (match (readImage (fun o k => (sti tranWords).readB (0x400000 + o) k) 0x200000 true).bind fun r => transitJob r false with
    | .error _ => false
    | .ok j => decide (j.wins = [])) = true := by decide +kernel

/-- Context 3 holds a job of no threads, and its plan is computed. -/
def stl : State := { stm with boot := { phase := 6, hallOk := true } }.modCtx 3 fun c =>
  { c with state := 1, job := some { firstStep := 7 }, x := { planDig := [0, 0, 0, 0] } }

theorem meets_Start_accepted : Accepted h0 (.start 3 1 true 4) stl x0 := ⟨⟨rfl, rfl, rfl, rfl⟩, rfl, by decide⟩
theorem meets_Start : ({ firstStep := 7 } : Job).badTables = false ∧ leavesBright stl.pwr = false ∧ stl.pwr.trans ≠ .dimIn ∧ (stl.ctx 3).job = some { firstStep := 7 } ∧
    (stl.ctx 3).state = 1 ∧ (stl.ctx 3).x.planDig ≠ [] ∧ (∀ d : DieId, (stl.die d).digestSuspect = false ∧ (stl.die d).seqSuspect = false) ∧
    chainsOk stl (stl.ctx 3) { firstStep := 7 } = true ∧ countersOk stl 3 { firstStep := 7 } = true ∧ resourcesOk stl 3 { firstStep := 7 } = true ∧
    (stl.ctx 3).x.planBad = false ∧ hallFits stl 3 { firstStep := 7 } = true ∧
    max (frameNow stl) (stl.ctx 3).x.planAt + 1024 ≤ 1 * 65536 ∧
    restoreOk stl 3 { firstStep := 7 } = true := by decide

/-- Context 3 runs with a started attempt in st2, and is halted with it in st3. -/
def stg (st : BitVec 8) (v : AttemptSt) : State := stm.modCtx 3 fun c => { c with state := st, v := v, job := some {} }
def st2 : State := stg 2 { started := true, live := true }
def st3 : State := stg 3 { started := true, live := true }

theorem meets_Halt : Accepted h0 (.halt 3) st2 x0 ∧ (st2.ctx 3).state = 2 ∧ st2.pwr.busy = false := ⟨accepted_stm _, by decide, by decide⟩
theorem meets_Resume : Accepted h0 (.resume 3) st3 x0 ∧ (st3.ctx 3).state = 3 ∧ st3.pwr.now = 0 ∧ st3.pwr.trans = .none ∧
    (∀ (c : CoreId) (i : Fin 16), (st3.core c).chan[i.val].valid = true → (st3.core c).chan[i.val].ctx = 3 → (st3.core c).dma[i.val].state ≠ 4) :=
  ⟨accepted_stm _, by decide, by decide, by decide, by decide +kernel⟩
theorem meets_Replay : Accepted h0 (.replay 3) st3 x0 ∧ (st3.ctx 3).state = 3 ∧ (st3.ctx 3).v.started = true ∧ (st3.ctx 3).v.live = true ∧
    (st3.ctx 3).v.faults = [] ∧ afterClose st3 3 = false ∧ st3.pwr.now = 0 ∧ st3.pwr.trans = .none :=
  ⟨accepted_stm _, by decide, by decide, by decide, by decide, by decide, by decide, by decide⟩
/-- A faulted context whose attempt has not replayed. -/
def st4 : State := stg 4 { started := true, live := true, faults := [⟨flDescBounds, 1, 2⟩] }
theorem meets_Replay_faulted : Accepted h0 (.replay 3) st4 x0 ∧ (st4.ctx 3).state = 4 ∧ (st4.ctx 3).v.started = true ∧ (st4.ctx 3).v.replayed = false ∧
    afterClose st4 3 = false := ⟨accepted_stm _, by decide, by decide, by decide, by decide⟩
theorem meets_Unload : Accepted h0 (.unload 3 0 0) st3 x0 ∧ (st3.ctx 3).state = 3 := ⟨accepted_stm _, by decide⟩

/-- Context 3 holds shard 4 with two buffers of 512 bytes, and a checkpoint is held. -/
def shd4 : ShardDesc := { shard := 4, nbuf := 2, frozen := false, read := 1, next := 2, sealCtr := 0, bufs := [1, 2] }
def outWin0 : HostWin := { outWin with state := 0 }
def stk : State := { stm with sep := { stm.sep with held := Vector.replicate 8 true }
                              host := { stm.host with windows := [outWin0, inWin] } }.modCtx 3 fun c =>
  { c with state := 1, job := some { shards := [shd4] }, b := { bufs := [(1, 0x800000, 512), (2, 0x800200, 512)] }
           w := { shards := [{ shard := 4, hist := [(0, 0)] }] } }

theorem meets_Admit : Accepted h0 (.admitSet 3 8 []) stm x0 ∧ inWin ∈ stm.host.windows ∧ inWin.ctx = 3 ∧ inWin.win = 8 :=
  ⟨accepted_stm _, by decide, by decide, by decide⟩
theorem accepted_stk (o : Order) : Accepted h0 o stk x0 := by
  refine ⟨⟨rfl, rfl, rfl, ?_⟩, rfl, by decide⟩
  generalize orderDark o = b; cases b <;> rfl
theorem meets_Restore : Accepted h0 (.restore 3 4 8) stk x0 ∧ pubHeld stk 0x800000 (128 + hdrLength (shardHdr stk inWin.base)) = false ∧ (stk.ctx 3).state = 1 ∧ shardDesc (stk.ctx 3) 4 = some shd4 ∧
    hostWin stk 3 8 = some inWin ∧ shardBuf (stk.ctx 3) shd4 0 = some (0x800000, 512) ∧ 128 + hdrLength (shardHdr stk inWin.base) ≤ inWin.len ∧
    128 + hdrLength (shardHdr stk inWin.base) ≤ 512 := ⟨accepted_stk _, by decide +kernel, by decide, by decide, by decide, by decide, by decide +kernel, by decide +kernel⟩
theorem meets_CkptRead : Accepted h0 (.ckptRead 3 4 9) stk x0 ∧ stk.sep.held[(3 : CtxId).val] = true ∧ shardDesc (stk.ctx 3) 4 = some shd4 ∧
    shardOf (stk.ctx 3) 4 = some { shard := 4, hist := [(0, 0)] } ∧ hostWin stk 3 9 = some outWin0 ∧ shd4.frozen = false ∧
    pubHeld stk outWin0.base (128 + hdrLength (shardHdr stk 0x800000)) = false ∧
    shardBuf (stk.ctx 3) shd4 (curAt { shard := 4, hist := [(0, 0)] } stk.sep.heldGen[(3 : CtxId).val].toNat) = some (0x800000, 512) ∧
    128 + hdrLength (shardHdr stk 0x800000) ≤ outWin0.len :=
  ⟨accepted_stk _, by decide, by decide, by decide, by decide, by decide, by decide +kernel, by decide, by decide +kernel⟩

/-- Programming has begun. -/
def stp : State := { stm with boot := { phase := 6, progState := 1 } }

theorem meets_Prog : Accepted h0 .progBegin stp x0 ∧ Accepted h0 (.progWrite 0 (List.replicate 64 1)) stp x0 ∧
    64 ≤ (List.replicate 64 (1 : Byte)).length ∧ (List.replicate 64 (1 : Byte)).length ≤ 8128 ∧ (List.replicate 64 (1 : Byte)).length % 8 = 0 ∧
    stp.boot.progState = 1 ∧ 0 % 64 = 0 ∧ 0 + 64 ≤ imageEnd ∧ stp.boot.progLines = [] ∧ Accepted h0 .progEnd stp x0 ∧ Accepted h0 .reboot stp x0 ∧ stp.pwr.busy = false ∧
    (∀ n, (stp.ctx n).state ≠ 2) :=
  ⟨⟨⟨rfl, rfl, rfl, rfl⟩, rfl, by decide⟩, ⟨⟨rfl, rfl, rfl, rfl⟩, rfl, by decide⟩, by decide, by decide, by decide, by decide, by decide, by decide, by decide,
    ⟨⟨rfl, rfl, rfl, rfl⟩, rfl, by decide⟩, ⟨⟨rfl, rfl, rfl, rfl⟩, rfl, by decide⟩, by decide⟩

/-! ### Message times, events, Rust and RDMA -/

def batch : List OrderMsg := [⟨h0, 5, .halt 3⟩, ⟨hd 0 2, 4, .renew⟩]
theorem meets_MessageTimes : (∀ m ∈ batch, stm.host.owner = some m.h.station ∧ m.o ≠ .releaseOwn ∧ ∀ t, m.o ≠ .handover t) ∧
    batch.Perm [⟨hd 0 2, 4, .renew⟩, ⟨h0, 5, .halt 3⟩] ∧ batch.Pairwise (fun a b => a.h.seq ≠ b.h.seq) :=
  ⟨by simp [batch, stm, h0, hd], List.Perm.swap _ _ _, by decide⟩
theorem meets_Events : stm.host.owner = some 0 ∧ sessionOf stm 0 = some x0 ∧
    stm.host.events.find? (fun e => e.sentAt.isNone) = some { seq := 1, code := 1, ctx := none, dropped := 0, ns := 0, step := 0, detail := [] } := by decide

/-- 200 ms after its event was sent. -/
def ev1 : Ev := { seq := 1, code := 1, ctx := none, dropped := 0, ns := 0, step := 0, detail := [], sentAt := some 0 }
def stv : State := { stm with host := { stm.host with events := [ev1] }, ind := { ns := 200000000 } }

theorem meets_EventResend : stv.host.events = [] ++ ev1 :: [] ∧ ev1.sentAt = some 0 ∧ 0 + 100000000 ≤ nsNow stv := by decide

/-- Two Rust receivers, a record made at 0, and one that waits to be made, at 3 s. -/
def rec1 : RustRec := { seq := 1, body := [0xA0], sig := [], sentAt := some 0 }
def stu : State := { stm with rust := { seq := 1, store := [rec1], pending := [{ kind := 1 }] }, ind := { ns := 3000000000 }
                              boot := { phase := 6, cfg := { rust := [[0], [1]] } } }

theorem meets_Rust : stu.rust.pending = { kind := 1 } :: [] ∧ stu.rust.store = [] ++ rec1 :: [] ∧ rec1.acks.length < stu.boot.cfg.rust.length ∧
    rec1.sentAt = some 0 ∧ 0 + 2000000000 ≤ nsNow stu ∧ stu.rust.store.find? (fun d => d.seq == rec1.seq) = some rec1 ∧
    ¬ (2 < stu.boot.cfg.rust.length) := by decide
theorem test_alert : alertN stu = false ∧ alertN ({ stu with rust := { stu.rust with store := [{ rec1 with acks := [1, 0] }] } }) = true := by decide
theorem meets_Rdma_qp : hearsRdma stm = true ∧ (takeQp false 3 stm).isSome = true ∧ (false, 3) ∉ stm.host.qps ∧
    (stm.host.qps.filter fun x => x.1 == false).length < 64 ∧
    (let s : State := { host := { qps := (List.range 64).map fun i => (true, i) } }
     (true, 64) ∉ s.host.qps ∧ 64 ≤ (s.host.qps.filter fun x => x.1 == true).length ∧ (true, 63) ∈ s.host.qps) ∧ hearsRdma stq = false := by decide
theorem meets_Rdma : anyWin stm 8 = some inWin ∧ inWin.dir = false ∧ 0x1FFFFC + [(1 : Byte), 2, 3, 4].length ≤ inWin.len ∧ isDark stm = false ∧
    anyWin stm 9 = some outWin ∧ outWin.dir = true ∧ outWin.state = 2 ∧ 0x1FFFFC + 4 ≤ outWin.len ∧ anyWin stm 7 = none ∧
    inWin.len < 0x1FFFFD + [(1 : Byte), 2, 3, 4].length := by decide


/-! ### Boot, supplies, pins and power -/

/-- Rails 0 to 9 are in their windows while a power-up sequence runs. -/
def seq1 : State := { sup := { rails := 0x3FF } }
/-- The reset has been released. -/
def up0 (b : BootSt) : State := { sup := { rails := 0x3FF, sequencing := false }, boot := b }

theorem meets_Boot : (refsValid (some 0) none seq1).isSome = true ∧ refsValid none none seq1 = none ∧ mayRelease {} = false ∧ mayRelease seq1 = true ∧ (up0 {}).sup.sequencing = false ∧ (up0 {}).boot.phase = 0 ∧
    (up0 { good := true, phase := 3 }).boot.good = true ∧ (up0 { good := true, phase := 3 }).boot.memTrained = false ∧
    (up0 { good := true, phase := 3 }).boot.phase.toNat < 5 ∧ (up0 { good := true, phase := 5 }).boot.phase.toNat < 6 ∧
    (up0 { phase := 7, announced := none }).boot.phase = 7 ∧ (up0 { phase := 7, announced := none }).boot.announced = none := by decide

/-- Rail 5 is out since 4,000 ns; it is 4,999 ns, then 5,000 ns. -/
def ra (ns : Word) : State := { sup := { rails := 0x3FF, sequencing := false, out := [(5, 4000)] }, ind := { ns := ns } }
/-- One sequence fault, one second ago. -/
def rb : State := { sup := { railsEn := false, sequencing := false, faults := 1, faultAt := some 0 }, ind := { ns := 1000000000 } }

theorem meets_Rails : (5 : Fin 12).val < 10 ∧ assocGet (4 : Fin 12).val (ra 4999).sup.out = none ∧ assocGet (5 : Fin 12).val (ra 4999).sup.out = some 4000 ∧
    nsNow (ra 4999) < 4000 + 1000 ∧ ¬ nsNow (ra 5000) < 4000 + 1000 ∧ (ra 5000).sup.railsEn = true ∧ (ra 5000).pwr.ramp = none ∧
    rb.sup.faultAt = some 0 ∧ 0 + 1000000000 ≤ nsNow rb ∧ rb.sup.faults ≠ 3 ∧ rb.pwr.ramp = none := by decide
theorem meets_Rails_levels : inWindow (ra 5000) (5 : Fin 12).val 1800000 = true ∧ inWindow (ra 5000) (5 : Fin 12).val 1000000 = false ∧
    (ra 5000).sup.rails.getLsbD (5 : Fin 12).val = true ∧ (ra 5000).sup.aonUp = true ∧
    ({ ra 5000 with pwr := { ramp := some 64 } } : State).pwr.ramp.isSome = true ∧
    inWindow {} (0 : Fin 12).val 780000 = true := by decide
theorem meets_Rails_sequence : ({} : State).sup.sequencing = true ∧ ({} : State).sup.railsEn = true ∧
    (List.range 10).any (fun r => decide (railGroup r < railGroup 0) && !({} : State).sup.rails.getLsbD r) = true := by decide

theorem meets_Feeds : ({} : State).sup.aonUp = true ∧ ({} : State).sup.feed = false ∧ ({ sup := { feed := true } } : State).sup.feed = true ∧
    ({ sup := { aonUp := false } } : State).sup.aonUp = false ∧
    ({ sup := { holdup := some 0 }, ind := { ns := 5000 } } : State).sup.holdup = some 0 ∧
    nsNow { sup := { holdup := some 0 }, ind := { ns := 5000 } } ≤ 0 + 5000 ∧ 0 + 5000 ≤ nsNow { sup := { holdup := some 0 }, ind := { ns := 5000 } } ∧
    ({ sup := { feed := true }, ind := { ns := 7 } } : State).sup.holdup = none ∧ ({ sup := { feed := true }, ind := { ns := 7 } } : State).sup.aonAt ≠ 7 ∧
    ({ sup := { feed := true, mainSince := some 0 }, ind := { ns := 100000000 } } : State).sup.mainSince = some 0 ∧
    0 + 100000000 ≤ nsNow { sup := { feed := true, mainSince := some 0 }, ind := { ns := 100000000 } } := by decide

/-- A running device, one in its ramp, and one that does not run. -/
def run0 : State := up0 { phase := 6 }
def run1 : State := { run0 with pwr := { ramp := some 64 } }

theorem meets_Pins_power : powered run0 = true ∧ run0.pwr.ramp = none ∧ powered run1 = true ∧ powered ({ sup := { railsEn := false } } : State) = false ∧
    ({} : State).pwr.ramp = none := by decide
theorem meets_Pins : running run0 = true ∧ run0.pwr.ramp = none ∧ running run1 = true ∧ run1.pwr.ramp.isSome = true ∧ running {} = false ∧
    run1.pwr.ramp = some 64 ∧ run1.pwr.waves[(7 : Fin 8).val] < 2 ∧ run1.sup.causes.getLsbD 3 = false ∧ run1.pwr.clamped ||| 3 = 3 ∧ run1.pwr.clamped ||| 1 ≠ 3 ∧
    64 + 2560 * (7 : Fin 8).val + 10240 * run1.pwr.waves[(7 : Fin 8).val] < 2 ^ 64 := by decide
theorem meets_Watchdog : ({ ind := { ns := 100000000 } } : State).rust.watchdog + 100000000 ≤ nsNow { ind := { ns := 100000000 } } := by decide

/-- Both dies at 105 °C. -/
def hotI : Interval := { acts := [⟨.product 0, .engine 3, 7⟩], refHbm := 0, refDdr := 0, tj0 := 841, tj1 := 800 }
theorem meets_Interval : hotI.tj0 ≤ 920 ∧ hotI.tj1 ≤ 920 ∧ 840 < max hotI.tj0 hotI.tj1 ∧ max (800 : Int) 800 ≤ 800 ∧ 800 < max (801 : Int) 0 ∧
    max (801 : Int) 0 ≤ 840 := by decide

/-- Island 9 runs an event of 200 suppressed cycles. -/
def dr : State := { pwr := { islands := (Vector.replicate 16 none).set 9 (some 200) } }
/-- A held frequency, held voltages, and voltages held for 1 ms. -/
def hf : State := { pwr := { fLevel := 4, vD1 := 160, vD0 := 160, heldF := some (0, 0) } }
def hv : State := { pwr := { fLevel := 4, vD1 := 130, vD0 := 130, heldV := some { d1 := 120, d0 := 120, at_ := 0 } }, ind := { ns := 1000000 } }

theorem meets_Droop : dr.pwr.islands[(8 : Fin 16).val] = none ∧ dr.pwr.islands[(9 : Fin 16).val] = some 200 ∧ 200 ≤ 256 ∧ 256 < 257 := by decide
theorem meets_SetPoints_cadence : ({ hf.pwr with heldCad := true } : PwrSt).heldF = some (0, 0) ∧ ({ hf.pwr with heldCad := true } : PwrSt).heldCad = true ∧
    hf.pwr.heldCad = false ∧ 0 + 1000000 ≤ nsNow { hf with ind := { ns := 1000000 } } := by decide
theorem meets_SetPoints : hf.pwr.heldF = some (0, 0) ∧ setPoint (0 : BitVec 4).toNat ≤ hf.pwr.vD1.toNat ∧ setPoint (0 : BitVec 4).toNat ≤ hf.pwr.vD0.toNat ∧
    hf.pwr.heldV = none ∧ hv.pwr.heldV = some { d1 := 120, d0 := 120, at_ := 0 } ∧ hv.pwr.heldF = none ∧
    setPoint hv.pwr.fLevel.toNat ≤ (120 : BitVec 8).toNat ∧ 0 + 1000000 ≤ nsNow hv := by decide

def inTrans (now : BitVec 2) (tr : Trans) : State := { pwr := { now := now, trans := tr, busy := true } }
theorem meets_PowerStates : (inTrans 0 .dimIn).pwr.trans = .dimIn ∧ (∀ n, ((inTrans 0 .dimIn).ctx n).v.haltPend = false) ∧
    (inTrans 1 .dimOut).pwr.trans = .dimOut ∧ (inTrans 0 (.greyIn false)).pwr.trans = .greyIn false ∧
    (inTrans 0 (.greyIn true)).pwr.trans = .greyIn true ∧ (inTrans 0 (.greyIn true)).pwr.exitAfter = none ∧
    (inTrans 2 (.greyOut false)).pwr.trans = .greyOut false ∧ (∀ n, ((inTrans 2 (.greyOut false)).ctx n).state ≠ 1) ∧
    (inTrans 0 .blackIn).pwr.trans = .blackIn ∧ (inTrans 0 .blackIn).pwr.ramp = none := by decide
/-- While a bank is being cleared neither the clamps of Grey nor those of Black are set. -/
theorem meets_PowerStates_clear : banksBusy (inTrans 0 (.greyIn false)) = false ∧ banksBusy (inTrans 0 .blackIn) = false ∧
    banksBusy { stc with pwr := (inTrans 0 (.greyIn false)).pwr } = true ∧ banksBusy { stc with pwr := (inTrans 0 .blackIn).pwr } = true := by decide +kernel
theorem meets_Signal : ({ pwr := { now := 2, enSignal := true } } : State).pwr.now = 2 ∧ ({ pwr := { now := 2, enSignal := true } } : State).pwr.trans = .none ∧
    ({ pwr := { now := 2, enSignal := true } } : State).pwr.enSignal = true := by decide

/-! ### Memories -/

theorem meets_Umber : ([1, 2, 3, 4, 5, 6, 7, 8] : List Byte).length = 8 := by decide

/-- Context 3 runs an attempt whose matrix command 2 of thread 1 is issued on core 5. -/
def meRun : Run := { thread := 1, cmd := 2, core := 5, eng := .me, env := [], body := [] }
def stx : State := st2.modCtx 3 fun c => { c with runs := [meRun] }

theorem meets_MemUe : 64 % 8 = 0 ∧ findRun stx 3 1 2 = some meRun ∧ working stx 3 meRun.core = true ∧ meRun.executed = false ∧
    placeOf stx 64 = .hbm 0 ∧ keptBy stx 64 = [] ∧ meRun.eng ≠ .dma ∧ attemptPending (stx.ctx 3) = true ∧ afterClose stx 3 = false := by decide +kernel
/-- The same command on core 77 of die 1, which reads over the Seam, and as a mover's on channel 0 of core 5. -/
def meRun77 : Run := { meRun with core := 77 }
theorem meets_MemUe_seam : findRun (st2.modCtx 3 fun c => { c with runs := [meRun77] }) 3 1 2 = some meRun77 ∧
    working (st2.modCtx 3 fun c => { c with runs := [meRun77] }) 3 77 = true ∧ (0 : DieId) ≠ dieOf (coreOf meRun77.core) ∧
    (0 : DieId) = dieOf (coreOf meRun.core) := by decide +kernel
def dmRun : Run := { meRun with eng := .dma }
theorem meets_MemUe_mover : findRun (st2.modCtx 3 fun c => { c with runs := [dmRun] }) 3 1 2 = some dmRun ∧ dmRun.eng = .dma ∧
    working (st2.modCtx 3 fun c => { c with runs := [dmRun] }) 3 5 = true := by decide +kernel
theorem meets_MemUe_outcomes :
    (umberDecode (umberEncode ((stx.readB 64 8)) ^^^ 0)).2.2 = .clean ∧ (umberDecode (umberEncode (stx.readB 64 8) ^^^ 0x10)).2.2 = .corrected ∧
    (umberDecode (umberEncode (stx.readB 64 8) ^^^ 0x201)).2.2 = .uncorrectable := by decide +kernel

/-- A day later, and a DDR5 channel with 999 corrected words. -/
def stz : State := { ind := { ns := 86400000000000 }, scrub := { hour := [(3, [(0, 5), (86400000000000, 999)])], en := true } }
/-- The same with the refresh window of the word's bank open. -/
def stzo : State := { stz with scrub := { stz.scrub with refreshOpen :=
  [((2, (hbmSite 64).stack * 32 + (hbmSite 64).channel, Config.dramBank 2 64), 86400000000000)] } }
theorem meets_Scrub : scrubDue false stz = true ∧ placeOf stz 64 = .hbm 0 ∧
    umberDecode (umberEncode (stz.readB 64 8) ^^^ 0x10) = ([0, 0, 0, 0, 0, 0, 0, 0], some 0, .corrected) ∧ scrubDue true stz = true ∧
    stz.scrub.dramEn = true ∧ scrubReach [] stz 64 = false ∧ scrubDue false stzo = true ∧ stzo.scrub.dramEn = true ∧
    (let off : State := { stz with scrub := { stz.scrub with dramEn := false } }
     scrubDue false off = true ∧ off.scrub.dramEn = false) := by decide +kernel
theorem meets_Scrub_window : scrubReach [] stzo 64 = true := by
  have own : ownOf stzo (placeOf stzo 64) = none := by decide +kernel
  have chan : dramChannel stzo 64 = some (.hbm, (hbmSite 64).stack * 32 + (hbmSite 64).channel) := by decide +kernel
  have now : nsNow stzo = 86400000000000 := by decide
  simp only [scrubReach, own, chan, windowOpen, now]
  simp [stzo, mediumCode]
theorem meets_CeRate :
    let old := ((assocGet (3 : Fin 16).val stz.scrub.hour).getD []).filter fun y => decide (nsNow stz < y.1 + hourNs)
    old = [(86400000000000, 999)] ∧ 1000 < (old.map (·.2)).sum + 2 ∧ ¬ 1000 < (old.map (·.2)).sum + 1 ∧
    assocGet (3 : Fin 16).val stz.scrub.hourSaid = none := by decide +kernel
theorem meets_CeRate_said : assocGet (3 : Fin 16).val [((3 : Nat), (86400000000000 : Nat))] = some 86400000000000 ∧
    nsNow stz < 86400000000000 + hourNs := by decide
/-- A device at an instant; bank 0 of channel 0 is refreshed at its offset, which is a free value. -/
def atNs (ns : Nat) : State := { ind := { ns := BitVec.ofNat 64 ns }, scrub := { en := true } }
theorem nsNow_atNs (ns : Nat) (h : ns < 2 ^ 64) : nsNow (atNs ns) = ns := by
  simp only [nsNow, atNs, BitVec.toNat_ofNat]; omega
theorem meets_Refresh : 0 < 384 ∧ refresh2x (atNs 0) .hbm 0 = false ∧
    nsNow (atNs (Config.refreshOffset 2 0 0 % 3900)) % 3900 = Config.refreshOffset 2 0 0 % 3900 ∧
    nsNow (atNs (Config.refreshOffset 2 0 0 % 3900 + 1)) % 3900 ≠ Config.refreshOffset 2 0 0 % 3900 := by
  refine ⟨by decide, by decide, ?_, ?_⟩ <;> rw [nsNow_atNs _ (by omega)] <;> omega
theorem meets_Refresh_scrub : (atNs 0).scrub.dramEn = true ∧ placeOf (atNs 0) 0 = .hbm 0 ∧ dramChannel (atNs 0) 0 = some (.hbm, 0) ∧
    (umberDecode (umberEncode ((atNs 0).readB 0 8) ^^^ 0x10)).2.2 = .corrected := by decide +kernel

/-! ### Indigo time -/

theorem meets_Frame : frameNow ({} : State) + 1 < 2 ^ 64 ∧ parentPort { ind := { parent := 2 } } = some 2 ∧
    (∃ y ∈ [(761 : Int)] ++ [], 760 < y) := by decide
theorem meets_Frame_power : ({ pwr := { now := 2, trans := .greyOut true } } : State).pwr.trans = .greyOut true ∧ (frameNow ({} : State) + 1) % 65536 ≠ 0 ∧
    ({ pwr := { heldF := some (0, 0), heldCad := true, heldReady := true } } : State).pwr.heldF = some (0, 0) ∧ (0 : BitVec 4) = ({} : State).ind.cadNow := by decide
theorem meets_Frame_takeover : (frameNow ({ ind := { frame := 65535, announced := some 1 } } : State) + 1) % 65536 = 0 ∧
    takeoverOf { ind := { frame := 65535, announced := some 1 } } = some 1 ∧ 1 ≠ devNum { ind := { frame := 65535, announced := some 1 } } ∧
    ({ ind := { frame := 65535, announced := some 1 } } : State).ind.root.toNat ≠ 1 := by decide
theorem meets_Stretch : 0 < 4096 ∧ 4096 ≤ 4096 ∧ (1 : BitVec 5) ≠ 0 ∧ (∀ x ∈ ({} : State).ind.fixed, x.frame ≠ frameNow {} + 1) ∧
    (∃ x ∈ ({ ind := { fixed := [{ frame := 1, n := 2, cause := 1 }] } } : State).ind.fixed, x.frame = frameNow { ind := { fixed := [{ frame := 1, n := 2, cause := 1 }] } } + 1) := by
  decide

def cad (frame : BitVec 16) (root : Bool) (now next : BitVec 4) : State := { ind := { frame := frame, isRoot := root, cadNow := now, cadNext := next } }
/-- A faster level held for the epoch's start, with its rails ready or not, and rails that carry a level or do not. -/
theorem meets_Cadence_held : (cad 0 false 2 1).ind.cadNext.toNat < (cad 0 false 2 1).ind.cadNow.toNat ∧
    ({ cad 0 false 2 1 with pwr := { heldF := some (1, 7), heldCad := true, heldReady := true } } : State).pwr.heldF = some ((cad 0 false 2 1).ind.cadNext, 7) ∧
    (cad 0 false 2 1).pwr.heldCad = false ∧ setPoint 1 ≤ (cad 0 false 2 1).pwr.vD1.toNat ∧ setPoint 1 ≤ (cad 0 false 2 1).pwr.vD0.toNat ∧
    (120 : BitVec 8).toNat < setPoint 1 := by decide
theorem meets_Cadence : (cad 64512 false 0 0xF).ind.frame = 64512 ∧ (cad 65024 true 0 0xF).ind.isRoot = true ∧ (cad 65024 true 0 0xF).ind.frame = 65024 ∧
    (cad 65024 true 0 0xF).ind.cadNext = 0xF ∧ (cad 65280 false 0 0xF).ind.frame = 65280 ∧ (cad 65280 false 2 1).ind.cadNext.toNat < (cad 65280 false 2 1).ind.cadNow.toNat ∧
    (cad 0 false 1 2).ind.frame = 0 ∧ (cad 0 false 1 2).ind.cadNext ≠ 0xF ∧ (cad 0 false 1 2).ind.cadNow.toNat < (cad 0 false 1 2).ind.cadNext.toNat := by decide

/-- A hall of devices 0 and 1, joined by port 2 of device 0; this device is 0 and device 1 the root. -/
def map2 : TopoMap := { devs := [{ dev := 0, coord := [0] }, { dev := 1, coord := [1] }], links := [{ devA := 0, portA := 2, devB := 1, portB := 2, delay := 10, asym := 0 }]
                        ndim := 1 }
def hall (i : IndSt) : State := { ind := i, boot := { phase := 6, cfg := { map := map2 } }
                                  pwr := { isolated := false }, fab := (Vector.replicate 8 {}).set 2 { up := true, mode := 1, linkMode := 1 } }

theorem meets_Takeover_candidate : (hall { state := 1 }).ind.isRoot = false ∧ (hall { state := 1, noPort := 4 }).ind.noPort = 4 := by decide
theorem meets_Locked : (hall { state := 0, good := 16 }).ind.state = 0 ∧ 16 ≤ (hall { state := 0, good := 16 }).ind.good := by decide
/-- Device 1 is the first candidate and is absent; device 0 is the second. -/
def second : State := hall { roots := ((Vector.replicate 8 0).set 0 0x8001).set 1 0x8000 }
theorem meets_Boot_root : firstRoot [1] second = some (1, devNum second) ∧ second.ind.state = 0 ∧ second.ind.heardRoot = false ∧
    (hall { heardRoot := true }).ind.heardRoot = true := by decide +kernel
theorem meets_Reparent : (hall { state := 1, root := 1 }).ind.isRoot = false ∧ (hall { state := 1, root := 1 }).ind.state = 1 ∧
    pickParent (hall { state := 1, root := 1 }) = some 2 ∧ parentPort (hall { state := 1, root := 1 }) ≠ some 2 := by decide +kernel
theorem meets_Lost : (hall { state := 2, bad := 4 }).ind.isRoot = false ∧ (hall { state := 2, bad := 4 }).ind.state = 2 ∧ 4 ≤ (hall { state := 2, bad := 4 }).ind.bad := by
  decide

/-- Device 0 is the first candidate, device 1 the root with the second place. -/
def cand (i : IndSt) : State := hall { i with roots := (Vector.replicate 8 0).set 0 0x8000, root := 1, rootIdx := 1, state := 1 }
theorem meets_RootLost : (cand { seqLost := 4 }).ind.state = 1 ∧ (cand { seqLost := 4 }).ind.isRoot = false ∧ 4 ≤ (cand { seqLost := 4 }).ind.seqLost ∧
    (rootIndex (cand { seqLost := 4 }) (devNum (cand { seqLost := 4 }))).isSome = true ∧ (cand { seqLost := 4 }).ind.root.toNat ≠ devNum (cand { seqLost := 4 }) := by decide
theorem meets_Takeover : rootIndex (cand { underRoot := 1024, frame := 65024 }) 0 = some 0 ∧ (0 : Fin 8).val < (cand { underRoot := 1024, frame := 65024 }).ind.rootIdx.toNat ∧
    1024 ≤ (cand { underRoot := 1024, frame := 65024 }).ind.underRoot ∧ 65024 ≤ (cand { underRoot := 1024, frame := 65024 }).ind.frame.toNat ∧
    (cand { takeover := true }).ind.frame = 0 ∧ (cand { takeover := true }).ind.takeover = true ∧ (cand { takeover := true }).ind.root.toNat ≠ devNum (cand { takeover := true }) := by
  decide
theorem meets_Ptp_Alarm : ({} : State).ind.ptpPort ≠ 0xF ∧ sta.ind.alarmEn = true ∧ sta.ind.alarmAt.toNat ≤ nsNow sta ∧
    ({ pwr := { now := 2 } } : State).pwr.now = 2 ∧ ({ pwr := { now := 2 } } : State).pwr.enAlarm = true := by decide
theorem meets_References_missing : (∀ b : Bool, (if b then ({} : State).ind.deadA else ({} : State).ind.deadB) = false) ∧
    (({} : State).ind.sel == 1) = false ∧ (({} : State).ind.sel == 1) ≠ true := by decide
theorem meets_References : (({} : State).ind.sel == 1) = false ∧ ({} : State).ind.failB = false ∧ ({} : State).ind.deadA = false ∧ ({} : State).ind.deadB = false ∧
    ({ ind := { deadA := true } } : State).ind.deadA = true ∧ ({ ind := { deadA := true } } : State).ind.state ≠ 3 ∧
    ({ ind := { isRoot := true } } : State).ind.isRoot = true := by decide


/-! ### The fabric -/

/-- Windows of context 3: 1 serves device 1 from buffer 1, 2 serves this device itself, 3 comes from device 1. -/
def w1 : WinDecl := { win := 1, kind := 1, flag := false, frameMin := 0, src := 0, dst := 1, chain := 0, stage := 0, volume := 608,
                      srcRef := put 1 62 ||| put 1 40, dstRef := put 1 62 ||| put 2 40, sigs := [] }
def w2 : WinDecl := { w1 with win := 2, dst := 0, volume := 1216, dstRef := put 1 62 ||| put 2 40 ||| 4096 }
def w3 : WinDecl := { w1 with win := 3, src := 1, dst := 0 }

/-- The plan: window 1's cell leaves at frame 0, slot 0 on port 2 of device 0; window 3's leaves device 1 at slot 5. -/
def pl1 : PlanRec := { win := 1, cell := 0, hop := 0, dev := 0, port := 2, egress := false, phi := 0, k := 0 }
def pl3 : PlanRec := { win := 3, cell := 0, hop := 0, dev := 1, port := 2, egress := false, phi := 0, k := 5 }

/-- Context 3 of device 0 runs an attempt with these windows; its buffers hold some bytes. -/
def wk : State := ((hall { state := 1 }).modCtx 3 fun c => { c with
  state := 2, job := some { wins := [w1, w2, w3] }, v := { started := true, live := true }, ranges := [(0x800000, 0x100000)]
  b := { bufs := [(1, 0x800000, 0x8000), (2, 0x808000, 0x8000)] }, x := { plan := [pl1, pl3] } }).writeB 0x800000 [1, 2, 3]

theorem meets_CellSend : txActive wk 2 = true ∧ nextCell wk 2 < gapCells wk + 4096 ∧ wk.pwr.now ≠ 2 ∧ (wk.port 2).peerState ≠ 2 ∧
    sendsFillers wk 2 = true ∧ gapCells wk ≤ nextCell wk 2 ∧ fillerOnly (frameNow wk) (nextCell wk 2 - gapCells wk) = false ∧
    carriesPlan wk 2 = true ∧ takesPart wk = true ∧ nextCell wk 2 - gapCells wk < 3968 := by decide +kernel
/-- What a port sees as it sends its k-th cell of frame 0, the earlier ones having had their turn. -/
def turn (s : State) (k : Nat) : State :=
  (advanceTo (s.ind.frameStart + ceilDiv (cellTime8 s k) 8) s).modPort 2 fun q => { q with tx := (0, k + 1) }
/-- The first planned cell has missed its slot. -/
def wkLate : State := wk.modPort 2 fun q => { q with tx := (0, 3) }
theorem meets_CellSend_carried : txActive wkLate 2 = true ∧ nextCell wkLate 2 = 3 ∧ gapCells wkLate ≤ nextCell wkLate 2 ∧
    carriedOn (checkServes 2 (0 * 4096 + 3) (turn wkLate 3)) 2 (0 * 4096 + 3) ≠ [] ∧ wkLate.ind.carryAsked < openFrame (turn wkLate 3) := by decide +kernel
theorem meets_CellSend_planned :
    (match plannedAt (carryRequest 2 0 (checkServes 2 0 (turn wk 0))) 2 0 with
    | some x => x.win == some w1 && decide (x.ref.win = 1) && decide (cellBytes w1 0 x.body ≤ w1.volume) && x.body.head? == some 0x030201
    | none => false) = true := by decide +kernel

/-- A cell of device 1 with header words, a payload of zeros, and one word that may be corrupted. -/
def rxOf (ws : List Word) (err : BitVec 80) (slot : Nat) : RxCell :=
  { words := (umberEncode (leBytes 8 (wd ws 0).toNat) ^^^ err) :: (ws.drop 1).map fun w => umberEncode (leBytes 8 w.toNat)
    fecOk := true, fcsOk := true, fecCorr := 1, arrival := 40, partner := true, txFrame := 0, txSlot := slot, flow := none }
/-- Device 1 as the root, a filler or a data cell; the header of the last names no device of the map. -/
def fillWs : List Word := [put 1 16, 0, 0, 0]
def dataWs : List Word := [put 1 16 ||| 1, 0, 0, put 5 32]
def badWs : List Word := [put 77 16, 0, 0, 0]

theorem meets_Receive : (wk.port 2).up = true ∧ carriesCells wk 2 = true ∧ carriesCells wk 3 = false ∧ wk.pwr.now ≠ 3 ∧ wk.pwr.now ≠ 2 ∧ cellWords (rxOf fillWs 0x201 5).words = none ∧
    (∀ n, (wk.ctx n).x.waiting = []) ∧
    (match cellWords (rxOf badWs 0 5).words with | some ws => !headOk wk 2 (rxOf badWs 0 5) ws | none => false) = true ∧
    (match cellWords (rxOf fillWs 0x10 5).words with
    | some ws => headOk (wk.modPort 2 fun q => { q with fecCorr := 1 }) 2 (rxOf fillWs 0 5) ws && decide (fld (wd ws 0) 1 0 = 0) | none => false) = true := by
  decide +kernel
/-- Context 3 holds shard 4 over its two buffers, with no alternate. -/
def noAlt (s : State) : State := s.modCtx 3 fun c => { c with
  job := c.job.map fun j => { j with shards := [shd4] }, w := { shards := [{ shard := 4, cur := 0, alt := none }] } }
theorem meets_Receive_data :
    (match cellWords (rxOf dataWs 0 5).words with
    | some ws =>
      let rx := rxOf dataWs 0 5
      let s1 := wk.modPort 2 fun q => { q with fecCorr := 1 }
      let s2 := allCtxIds.foldl (takeMarks rx.txFrame ws) (takeIndigo 2 rx ws s1)
      let s3 := takeAcks 2 (wd ws 3) (s2.modPort 2 fun q => { q with heardAt := nsNow s2 })
      decide (fld (wd ws 0) 1 0 = 1) && carriesPlan s3 2 && takesPart s3 && (s3.ctx 3).v.live && recordOf s3 2 rx ws == some (3, pl3) && planWin (s3.ctx 3) 3 == some w3 &&
        cellCurrent (s3.ctx 3) rx ws && decide ((cellEnds w3 .data).2 = devNum s3) && decide (s3.pwr.now = 0) &&
        !(s3.ctx 3).x.landed.contains (3, 0, 0) &&
        (let h : HeldCell := { port := 2, txFrame := rx.txFrame, txSlot := rx.txSlot, plan := pl3, flow := rx.flow, words := ws }
         match landCell 3 w3 h s3, landCell 3 w3 h (noAlt s3) with | .ok _, .error e => e.1 == flWait | _, _ => false)
    | none => false) = true := by decide +kernel

/-- The step of a cell that has started nowhere here yet, and a cell of a step that is over. -/
def wkSoon : State := wk.modCtx 3 fun c => { c with v := { started := true, first := some 0 } }
theorem meets_Receive_early :
    (match cellWords (rxOf dataWs 0 5).words with
    | some ws => cellCurrent (wkSoon.ctx 3) (rxOf dataWs 0 5) ws && !(wkSoon.ctx 3).v.live && recordOf wkSoon 2 (rxOf dataWs 0 5) ws == some (3, pl3) &&
        !cellCurrent ((wk.modCtx 3 fun c => { c with v := { started := true, live := true, t := 1 } }).ctx 3) (rxOf dataWs 0 5) ws
    | none => false) = true := by decide +kernel
/-- Device 0 lies between devices 1 and 2; window 3 goes from 1 to 2, its second hop on port 3. -/
def map3 : TopoMap := { map2 with devs := map2.devs ++ [{ dev := 2, coord := [2] }]
                                  links := map2.links ++ [{ devA := 0, portA := 3, devB := 2, portB := 3, delay := 10, asym := 0 }] }
def w3on : WinDecl := { w3 with dst := 2 }
def pl4 : PlanRec := { pl3 with hop := 1, dev := 0, port := 3, k := 6 }
def wkT : State := { (wk.modCtx 3 fun c => { c with job := some { wins := [w3on] }, x := { plan := [pl3, pl4] } }) with
  boot := { phase := 6, cfg := { map := map3 } } }
theorem meets_Receive_transit :
    (match cellWords (rxOf dataWs 0 5).words with
    | some ws => recordOf wkT 2 (rxOf dataWs 0 5) ws == some (3, pl3) && planWin (wkT.ctx 3) 3 == some w3on && cellCurrent (wkT.ctx 3) (rxOf dataWs 0 5) ws &&
        decide ((cellEnds w3on .data).2 ≠ devNum wkT) && nextHop wkT (wkT.ctx 3) pl3 == some pl4 && !(wkT.ctx 3).x.passed.contains (3, 0, 0)
    | none => false) = true := by decide +kernel

/-- R383: a cell goes from 0x0247_5700_0000 + 8n + p to the partner's port, untagged on a direct link. -/
theorem test_cell_frame : ethHead wk 2 (linkPartner wk 2) = ⟨0x02475700000A, 0x024757000002, none, 0⟩ := by decide

/-- A kept cell of port 2, sent in slot 3,900, that failed three times and is to be resent. -/
def kept : SentCell := { ref := { ctx := 3, win := 1, cell := 0, hop := 0, pass := 0, planFrame := 0, planSlot := 3900 }, frame := 0, slot := 3900, words := [], fails := 3 }
def wk2 : State := wk.modPort 2 fun q => { q with sent := [kept], resend := [(0, 3900)] }

theorem meets_Retry_part : takesPart wk2 = true ∧ (wk2.ctx 3).state = 2 ∧ (wk2.ctx 3).job.isSome = true ∧
    (let s := wk2.modCtx 3 fun c => { c with job := none, transit := some { wins := [w1] } }
     (s.ctx 3).job = none ∧ usesPort s (s.ctx 3) 2 = true) := by decide +kernel
theorem meets_Retry : txActive wk2 2 = true ∧ carriesPlan wk2 2 = true ∧ max (nextCell wk2 2) (gapCells wk2 + 3968) - gapCells wk2 < 4095 ∧
    fillerOnly (frameNow wk2) 3968 = false ∧ wk2.pwr.now ≠ 2 ∧ (0, 3900) ∈ (wk2.port 2).resend ∧
    keptCell wk2 2 0 3900 = some kept ∧
    (wk2.port 2).failed = false ∧ (wk2.port 2).sent.find? (fun x => x.frame == 0 && x.slot == 3900 && decide (3 ≤ x.fails)) = some kept ∧
    usesPort wk2 (wk2.ctx 3) 2 = true := by decide +kernel
theorem meets_LinkUp : linkAt wk.boot.cfg.map (devNum wk) (2 : PortId).val = some (1, 2, 10) ∧
    327680 < (((655361 : Nat) : Int) - (10 * 32768 : Nat)).natAbs ∧ ¬ 327680 < (((655360 : Nat) : Int) - (10 * 32768 : Nat)).natAbs := by decide

theorem meets_ServeLocal : winDecl (wk.ctx 3) 2 = some w2 ∧ w2.src = devNum wk ∧ w2.dst = devNum wk ∧ (wk.ctx 3).v.live = true ∧ (wk.ctx 3).state = 2 ∧
    2 ∉ (wk.ctx 3).x.applied ∧ (wk.ctx 3).v.stepFrame + w2.frameMin ≤ frameNow wk ∧ feeder wk (wk.ctx 3) w2 = none ∧
    refWaits (wk.ctx 3) (Ref.ofWord w2.srcRef) = false ∧ (serveAddr wk 3 (Ref.ofWord w2.srcRef) w2.volume).toOption = some 0x800000 ∧
    pubHeld wk 0x809000 w2.volume = false ∧ mirrorAddr (wk.ctx 3) (Ref.ofWord w2.dstRef) = none ∧ refWaits (wk.ctx 3) (Ref.ofWord w2.dstRef) = false ∧ (landAddr wk 3 (Ref.ofWord w2.dstRef) w2.volume).toOption = some 0x809000 ∧
    bankAnswer wk 3 [(0x809000, w2.volume)] = .served := by decide +kernel
theorem meets_ServeLocal_waits : winDecl ((noAlt wk).ctx 3) 2 = some w2 ∧ refWaits ((noAlt wk).ctx 3) (Ref.ofWord w2.dstRef) = true ∧
    (serveAddr (noAlt wk) 3 (Ref.ofWord w2.srcRef) w2.volume).toOption = some 0x800000 := by decide +kernel
/-- A window that comes from device 1 lands where window 2 reads. -/
def w4 : WinDecl := { w3 with win := 4, dstRef := put 1 62 ||| put 1 40 }
def wkFed : State := wk.modCtx 3 fun c => { c with job := some { wins := [w1, w2, w4] } }
theorem meets_ServeLocal_feeds : feeder wkFed (wkFed.ctx 3) w2 = some w4 ∧ hasLanded (wkFed.ctx 3) w4 0 w2.volume = false := by decide +kernel
theorem meets_PlanCompute : planJob (stl.ctx 3) = some { firstStep := 7 } ∧ (stl.ctx 3).state ≠ 2 ∧ (1 : BitVec 256) ≠ 2 ∧
    (some 3 : Option (BitVec 256)) ≠ some 1 ∧ (some 3 : Option (BitVec 256)) ≠ some 2 := by decide

/-! ### Attempts, weights and Shade -/

/-- Context 3 of `wk` with another attempt state. -/
def wkv (v : AttemptSt) (f : Ctx → Ctx) : State := wk.modCtx 3 fun c => f { c with v := v }

theorem meets_StepStart : ((wkv { started := true, first := some 0 } id).ctx 3).job = some { wins := [w1, w2, w3] } ∧
    startDue (wkv { started := true, first := some 0 } id) 3 = true ∧ closeStalls (wkv { started := true, first := some 0 } id) 3 = false ∧
    closesAfter (wkv { started := true, first := some 0 } id) 3 = false ∧ ((wkv { started := true, first := some 0 } id).ctx 3).record = none := by
  decide +kernel

/-- A ramp from 64 ns on: wave 1 was released at 128 ns. -/
def rp (ns : Word) : State := { wkv { live := true } fun c => { c with ramp := { t0 := some 64, released := (Vector.replicate 8 false).set 1 true } } with ind := { ns := ns } }
theorem meets_Ramp : ((rp 128).ctx 3).ramp.t0 = some 64 ∧ 64 + 64 * (1 : Fin 8).val ≤ nsNow (rp 128) ∧ nsNow (rp 128) < 64 + 64 * (2 : Fin 8).val ∧
    ((rp 128).ctx 3).ramp.released[(1 : Fin 8).val] = true ∧ nsNow (rp 128) < 64 + 64 * (1 : Fin 8).val + ceilDiv 256000 (clockMHz (rp 128).ind.cadNow.toNat) ∧
    64 + 64 * (1 : Fin 8).val + ceilDiv 256000 (clockMHz (rp 401).ind.cadNow.toNat) ≤ nsNow (rp 401) := by decide +kernel

/-- Frame 40 of a device whose context 3 has an ended attempt of step 0 of 3, or of step 2, the last, to commit in frame 40. -/
def cm (t : Nat) (halt : Option FrameNo) : State := { (wkv { started := true, live := true, ended := true, t := t, commitAt := some (5, 40), haltAt := halt }
  fun c => { c with job := some { steps := 3 }, w := { shards := [{ shard := 4, cur := 0, alt := some 1, renewed := true, isSealed := true }] } }) with ind := { frame := 40 } }

theorem meets_Commit_seals : sealsDone ((cm 0 none).ctx 3) = true ∧
    sealsDone { (cm 0 none).ctx 3 with w := { shards := [{ shard := 4, cur := 0, alt := some 1, renewed := true }] } } = false := by decide +kernel
theorem meets_Commit : ((cm 0 none).ctx 3).v.commitAt = some (5, 40) ∧ 40 ≤ frameNow (cm 0 none) ∧ ((cm 0 none).ctx 3).v.condemnAt = none ∧
    ((cm 0 none).ctx 3).job = some { steps := 3 } ∧ ((cm 0 none).ctx 3).v.live = true ∧ ((cm 0 none).ctx 3).v.ended = true ∧
    decide (({ steps := 3 } : Job).firstStep + ({ steps := 3 } : Job).steps ≤ ((cm 0 none).ctx 3).v.t + 1) = false ∧
    decide (({ steps := 3 } : Job).firstStep + ({ steps := 3 } : Job).steps ≤ ((cm 2 none).ctx 3).v.t + 1) = true ∧
    closesAfter (cm 2 none) 3 = false ∧
    (∀ x ∈ ((cm 0 none).ctx 3).b.cores ++ ((cm 0 none).ctx 3).b.mirrorCores, ((cm 0 none).core (coreOf x.2)).quarantined = false) ∧
    ((cm 0 (some 41)).ctx 3).v.haltAt = some 41 ∧ 40 < 41 ∧ ((cm 0 (some 40)).ctx 3).v.haltAt = some 40 := by decide +kernel
theorem meets_Commit_transit : (((cm 0 none).modCtx 3 fun c => { c with job := none }).ctx 3).job = none ∧
    (((cm 0 none).modCtx 3 fun c => { c with job := none }).ctx 3).v.haltAt = none := by decide +kernel

/-- The same attempt, number a, condemned at the freeze of frame 40. -/
def cd (a : Nat) : State := { wkv { started := true, live := true, a := a, condemnAt := some 40 } id with ind := { frame := 40 } }
theorem meets_Condemn : instantDue (cd 0) 3 = true ∧ closesAfter (cd 0) 3 = false ∧ ((cd 0).ctx 3).job = some { wins := [w1, w2, w3] } ∧
    (∀ x ∈ ((cd 0).ctx 3).b.cores ++ ((cd 0).ctx 3).b.mirrorCores, ((cd 0).core (coreOf x.2)).quarantined = false) ∧ ((cd 0).ctx 3).v.a < 3 ∧
    3 ≤ ((cd 3).ctx 3).v.a ∧ ((cd 3).ctx 3).state = 2 := by decide +kernel
/-- The record of the attempt, or of the step before it. -/
def orec (t : Nat) : OpenRec := { t := t, attempt := 0, replay := false, stream := 0, gen := 0, startNs := 0, startFrame := 0, facOffset := 0 }
theorem meets_Condemn_record : let s (t : Nat) := ((cd 0).modCtx 3 fun c => { c with record := some (orec t) })
    ((s 0).ctx 3).record = some (orec 0) ∧ (orec 0).t = ((s 0).ctx 3).v.t ∧ (orec 0).attempt = ((s 0).ctx 3).v.a ∧ instantDue (s 9) 3 = true ∧
    (orec 9).t ≠ ((s 9).ctx 3).v.t := by decide +kernel
def cdt : State := (cd 0).modCtx 3 fun c => { c with job := none }
theorem meets_Condemn_transit : instantDue cdt 3 = true ∧ closesAfter cdt 3 = false ∧ (cdt.ctx 3).job = none := by decide +kernel

/-- An attempt that ended in frame 37, with its commit frame 2 past, a resume from frame 40 on, and a deadline of 40 frames. -/
def hz : State := { (wkv { started := true, live := true, ended := true, endFrame := some 37, commitAt := some (5, 2), resumeAt := some 40 }
  fun c => { c with state := 3, job := some { steps := 3 } }) with ind := { state := 1, frame := 40, ns := 10000000, frameStart := 9900000 } }
def dm : State := { wkv { started := true, live := true } fun c => { c with dl := { deadlineA := 40, fbEnA := true } } with ind := { frame := 40 } }
theorem meets_Horizon : (hz.ctx 3).v.endFrame = some 37 ∧ (hz.ctx 3).v.live = true ∧ attemptPending (hz.ctx 3) = true ∧ afterClose hz 3 = true ∧
    (hz.ctx 3).v.resumeAt = some 40 ∧ 40 ≤ frameNow hz ∧ isBright hz = true ∧ (hz.ctx 3).v.toReplay = false ∧ (hz.ctx 3).state = 3 ∧
    takesPart hz = true ∧ jobDone (hz.ctx 3) = false ∧ jobDone ((hz.modCtx 3 fun c => { c with job := some { steps := 0 } }).ctx 3) = true := by decide +kernel
theorem meets_Deadline : (dm.ctx 3).v.live = true ∧ (dm.ctx 3).v.ended = false ∧ (dm.ctx 3).dl.deadlineA ≠ 0 ∧ (dm.ctx 3).dl.missed = false ∧
    (dm.ctx 3).v.stepFrame + (dm.ctx 3).dl.deadlineA.toNat ≤ frameNow dm := by decide +kernel

/-- Shard 4 of context 3: 8 payload bytes in its current buffer, VERSION 5, and its alternate renewed, with or without a header. -/
def pay : List Byte := [1, 2, 3, 4, 5, 6, 7, 8]
def hdrBytes (ver : Word) (ps : List Byte) : List Byte :=
  wordsToBytes ([ver, 0, 0, put 4 44, put 8 24, 0, 0, 0] ++ payloadDigest ps)
def sx (written before : Bool) (ver : Word) : State :=
  ((wkv { started := true, live := true, ended := true } fun c => { c with
    job := some { shards := [shd4] }, b := { bufs := [(1, 0x800000, 512), (2, 0x800200, 512)] }
    w := { shards := [{ shard := 4, cur := 0, alt := some 1, renewed := true, hdrWritten := written, failedBefore := before }] } }).writeB 0x800000
      (hdrBytes 5 pay ++ List.replicate 32 0 ++ pay)).writeB 0x800200 (hdrBytes ver pay ++ List.replicate 32 0 ++ pay)
def sx4 (w b : Bool) : ShardState := { shard := 4, cur := 0, alt := some 1, renewed := true, hdrWritten := w, failedBefore := b }

theorem meets_Seal : [(true, false, 6), (false, false, 6), (true, true, 5)].all (fun (w, b, ver) =>
    let s := sx w b ver
    decide (shardDesc (s.ctx 3) 4 = some shd4 ∧ shardOf (s.ctx 3) 4 = some (sx4 w b) ∧ (sx4 w b).isSealed = false ∧ (s.ctx 3).state = 2 ∧
      (s.ctx 3).v.live = true ∧ sealDue s 3 shd4 = true ∧ shardBuf (s.ctx 3) shd4 0 = some (0x800000, 512) ∧
      shardBuf (s.ctx 3) shd4 1 = some (0x800200, 512) ∧ (s.ctx 3).v.started = true ∧ afterClose s 3 = false)) = true := by decide +kernel
theorem meets_Seal_check :
    (let s := sx true false 6
     let ch := shardHdr s 0x800000
     let nh := shardHdr s 0x800200
     decide (hdrLength nh = hdrLength ch ∧ payloadDigest (shardPayload s 0x800200 (hdrLength nh)) = hdrDigest nh ∧ fld (wd nh 3) 63 44 = 4 ∧
       (wd ch 0).toNat < (wd nh 0).toNat ∧ wd nh 1 = 0 ∧ wd nh 2 = 0)) = true := by decide +kernel
theorem meets_Seal_bad : ¬ (wd (shardHdr (sx true true 5) 0x800000) 0).toNat < (wd (shardHdr (sx true true 5) 0x800200) 0).toNat := by decide +kernel

/-- Ten minutes later one bit of the payload of the current buffer flips. -/
def sy : State := { sx false false 6 with ind := { ns := 600000000000 } }
def syUp : List (Nat × Byte) := [(0x800080, 1)]
/-- The same once its shard is sealed, so that no seal waits for the digest unit. -/
def syDone : State := sy.modCtx 3 fun c => { c with w := { c.w with shards := [{ sx4 false false with isSealed := true }] } }
theorem meets_Scrub_weights :
    (let s1 := syUp.foldl (fun s u => s.writeB u.1 [((s.readB u.1 1).getD 0 0) ^^^ u.2]) syDone
     let s2 := startScrub s1
     digestScrubDue s1 && !digestScrubDue wk && decide (syDone.wscrub.scope = none ∧ wk.wscrub.scope = none ∧ (syDone.ctx 3).state = 2 ∧
       sealWaits s2 = false ∧ sealWaits (startScrub sy) = true ∧ s2.wscrub.scope = some [(3, 4, 0)] ∧ (startScrub wk).wscrub.scope = none ∧
       shardDesc (syDone.ctx 3) 4 = some shd4 ∧ shardBuf (syDone.ctx 3) shd4 0 = some (0x800000, 512) ∧
       payloadDigest (shardPayload s1 0x800000 (hdrLength (shardHdr s1 0x800000))) ≠ hdrDigest (shardHdr s1 0x800000))) = true := by decide +kernel

/-- A command of context 3 on core 5 that has executed, with digests and the checks that wait for their comparisons. -/
def chk (cause : Nat) (mism : Bool) : Check := { cause := cause, checker := some 13, mism := mism, third := if mism then some 21 else none, digC := if mism then [⟨0x0B, 0, 9⟩] else [] }
def cr : Run := { thread := 1, cmd := 2, core := 5, eng := .join, env := [], body := [], executed := true, digP := [⟨0x0B, 0, 7⟩]
                  check := some (chk caShadeTile false), mirror := some (chk caPrivileged false) }
def cf : Run := { cr with executed := false, phase := 5, final := some (chk caFinalStage false), held := some { writes := [(0x800000, [9])] } }
/-- The same with no digest. -/
def cr0 : Run := { cr with digP := [] }
def ck (r : Run) : State := wkv { started := true, live := true } fun c => { c with runs := [r] }

theorem meets_Compare : findRun (ck cr) 3 1 2 = some cr ∧ working (ck cr) 3 cr.core = true ∧ cr.executed = true ∧ awaitsDone cr = false ∧
    cr.check = some (chk caShadeTile false) ∧ openCheck cr.check = true ∧ (1 : BitVec 128) ≠ 0 ∧ cr.digP ≠ [] ∧
    cr.mirror = some (chk caPrivileged false) ∧ openCheck cr.mirror = true ∧
    (∀ y ∈ ((ck cr).ctx 3).runs, y.thread = 1 → y.cmd < 2 → openCheck y.mirror = false) ∧
    secondDigests (checkRun (ck cr) 3 cr).digs 0 ≠ cr.digP ∧ secondDigests (checkRun (ck cr0) 3 cr0).digs 0 = cr0.digP ∧
    secondDigests (mirrorExec (ck cr) 3 cr (chk caPrivileged false)).2 0 ≠ cr.digP ∧
    secondDigests (mirrorExec (ck cr0) 3 cr0 (chk caPrivileged false)).2 0 = cr0.digP := by decide +kernel
/-- A second execution in its turn, or after that of context 1, which waits for the same core; a new s that the second does not find;
banks that are being cleared. -/
theorem meets_Compare_turn : checkMayEnd (ck cr) 3 cr.eng 13 = true ∧ bankAnswer (ck cr) 3 cr.ops.ranges = .served ∧ (checkRun (ck cr) 3 cr).agrees cr = true ∧
    bankAnswer (ck cr) 3 (mirrorOps (ck cr) 3 cr).ranges = .served ∧
    (let r := { cr with again := some 5 }
     (checkRun (ck r) 3 r).agrees r = false) ∧
    (let r := { cr with eng := .me }
     checkMayEnd ((ck r).modCtx 1 fun _ => (ck r).ctx 3) 3 .me 13 = false) := by decide +kernel
theorem meets_FinalStage_turn : checkMayEnd (ck cf) 3 cf.eng 13 = true ∧ bankAnswer (ck cf) 3 cf.ops.ranges = .served ∧ (checkRun (ck cf) 3 cf).agrees cf = true ∧
    secondDigests (checkRun (ck cf) 3 cf).digs 0 ≠ cf.digP ∧ bankAnswer (ck cf) 3 (writeRanges [(0x800000, [9])]) = .served ∧
    (let r := { cf with digP := [] }
     secondDigests (checkRun (ck r) 3 r).digs 0 = r.digP) := by decide +kernel
theorem meets_FinalStage : findRun (ck cf) 3 1 2 = some cf ∧ working (ck cf) 3 cf.core = true ∧ cf.phase = 5 ∧ cf.executed = false ∧
    cf.final = some (chk caFinalStage false) ∧ openCheck cf.final = true ∧ cf.again = none ∧ cf.held = some { writes := [(0x800000, [9])] } ∧
    ({ writes := [(0x800000, [9])] } : Effects).queue = none := by decide +kernel

def cv : Run := { cr with check := some (chk caShadeTile true) }
theorem meets_Verdict : findRun (ck cv) 3 1 2 = some cv ∧ checkOf cv caShadeTile = some (chk caShadeTile true) ∧ (chk caShadeTile true).mism = true ∧
    (chk caShadeTile true).decided = false ∧ attemptPending ((ck cv).ctx 3) = true ∧ (chk caShadeTile true).checker = some 13 ∧
    (chk caShadeTile true).third = some 21 ∧ roleDiff cv.digP (chk caShadeTile true).digC = some (0x0B, 7, 9) ∧ afterClose (ck cv) 3 = false := by
  decide +kernel

/-- A closed record whose anchors differ: the third computation agrees with die 0, with die 1, or with none. -/
def shutR (e0 e1 : BitVec 256) : ShutRec := { bytes := [1], err0 := e0, err1 := e1 }
def sa : State := (wkv {} fun c => { c with shut := [shutR 7 9] })
theorem meets_Anchor : (sa.ctx 3).unanchored = some (shutR 7 9) ∧ (sa.ctx 3).shut = [shutR 7 9] ∧ (shutR 7 9).prev = none ∧ sa.sep.stall = false := by
  decide +kernel
theorem meets_Anchor_third (c : Ctx) (r : ShutRec) (e f : BitVec 256) : (r.dig c e = r.dig c f ↔ e = f) := by
  simp [ShutRec.dig]

/-! ### The dispatcher -/

/-- Thread 1 of context 3 on core 5: eight JOINs (zeros) in a slab of 2,048 lines; the scratchpad of the core is the context's. -/
def thr1 : ThreadDesc := { thread := 1, group := 0, stream := 0, slab := 0, line := 0, ncmd := 8 }
def thrun : ThreadRun := { thread := 1, group := 0, core := 5, next := 0, resident := true }
def dp (f : Ctx → Ctx) : State := (wkv { started := true, live := true } fun c => f { c with
    job := some { threads := [thr1], slabs := [{ slab := 0, kind := 0, group := 0, lines := 2048 }], ctrs := [{ ctr := 6, ramp := false, init := 3 }] }
    b := { c.b with slabs := [{ slab := 0, kind := 0, base := spadBase 5, lines := 2048, group := 0 }], cores := [(0, 5)] }
    threads := [thrun], ctrs := [{ ctr := 6, value := 3 }] }).modCore 5 fun k =>
  { k with own := Vector.replicate 56 { valid := true, ctx := 3 }, chan := Vector.replicate 16 { valid := true, ctx := 3 } }

def zeros (n : Nat) : List Word := List.replicate n 0
theorem meets_Issue :
    (match chooseHead (issuable (dp id) 3 5 .join) with
    | some h => h.t == thrun && envOk ((dp id).ctx 3) h.env h.body && (engOf h.body == some .join)
    | none => false) = true ∧ engCode 6 = some .join ∧ isBright (dp id) = true ∧ ((dp id).core 5).quarantined = false ∧
    ((dp id).ctx 3).ramp.onIssue = false ∧ Eng.join.pat = none ∧ powerLets (dp id) 3 5 0 false = true ∧ findRun (dp id) 3 1 0 = none := by
  decide +kernel

/-- Slot 0 of core 5's ME pattern is lent to context 3, which has no ME command to issue. -/
def lentTo : State := (dp id).modCore 5 fun k => { k with lent := Vector.replicate 4 (some { slot := 0, ctx := 3, at_ := 0 }) }
theorem meets_Issue_lent : engCode 0 = some .me ∧ Eng.me.pat = some 0 ∧ isBright lentTo = true ∧ (lentTo.core 5).quarantined = false ∧
    slotFor lentTo 3 5 0 0 .me = some true ∧ issuable lentTo 3 5 .me = [] := by decide +kernel

/-- A command that has executed and signals counter 6 by 3, or by 4. -/
def sg (dec : Nat) : Run := { cr with env := [0, 0, 0, put 6 44 ||| put dec 32, 0], check := none, mirror := none }
theorem meets_Complete (dec : Nat) (h : dec = 3 ∨ dec = 4) : ((dp fun c => { c with runs := [sg dec] }).ctx 3).runs.filter (fun x => x.thread == 1 && x.cmd == 2) = [sg dec] ∧
    canComplete (sg dec) = true ∧ working (dp fun c => { c with runs := [sg dec] }) 3 5 = true ∧ envSigs (sg dec).env = [(6, dec)] ∧ (sg dec).windows = [] ∧
    ctrRemote (dp id) ((dp id).ctx 3) 6 = false ∧ ((dp id).ctx 3).ctrs.find? (fun k => k.ctr == 6) = some { ctr := 6, value := 3 } := by
  rcases h with rfl | rfl <;> decide +kernel

def jn : Run := { meRun with eng := .join }
theorem meets_Join : Issued (ck jn) 3 1 2 .join jn := by unfold Issued; decide +kernel

/-- Waits beyond the limit of 16,384 frames: of a head command for counter 6, of an issued LCTR, and of a stalled start. -/
def waitHead : State := (dp fun c => { c with threads := [{ thrun with waited := 16385, waitOn := 1 }] }).writeB (spadBase 5 + 8) (leBytes 8 (put 6 44 : Word).toNat)
def lc : Run := { meRun with eng := .le, body := [put 0x3C 56, 0, 0, 0, put 6 44], waited := 16385, waitOn := 5 }
def waitLctr : State := (ck lc).modCtx 3 fun c => { c with job := c.job.map fun j => { j with wins := [{ w3 with sigs := [(6, 1)] }] } }
def stalled : State := { (wkv { started := true, first := some 0 } fun c => { c with dl := { stallWait := 16385 }, shut := [shutR 7 9] }) with
  ind := { frame := 4, state := 1 }, sep := { stall := true, head := 0x1000000000 } }
theorem meets_Timeout_head : waitLimit ((dp id).ctx 3) = 16384 ∧ (waitHead.ctx 3).state = 2 ∧ (waitHead.ctx 3).v.faults = [] ∧ (waitHead.ctx 3).dl.stallWait ≤ 16384 ∧
    (waitHead.ctx 3).threads.find? (fun t => t.thread == 1 && decide (16384 < t.waited)) = some { thrun with waited := 16385, waitOn := 1 } ∧
    (match headOf waitHead (waitHead.ctx 3) { thrun with waited := 16385, waitOn := 1 } with | some h => headWaits waitHead 3 h | none => false) = true := by
  decide +kernel
theorem meets_Timeout_lctr : (waitLctr.ctx 3).threads.find? (fun t => t.thread == 1 && decide (16384 < t.waited)) = none ∧
    (waitLctr.ctx 3).runs.find? (fun r => r.thread == 1 && decide (16384 < r.waited) && runWaits waitLctr 3 r) = some lc ∧
    (waitLctr.ctx 3).state = 2 ∧ (waitLctr.ctx 3).dl.landWait ≤ 16384 := by decide +kernel
theorem meets_Timeout_ctx : landWaiting ((noAlt wk).modCtx 3 fun c => { c with dl := { landWait := 16385 } }) 3 = true ∧
    (stalled.ctx 3).state = 2 ∧ 16384 < (stalled.ctx 3).dl.stallWait ∧ startDue stalled 3 = true ∧ closeStalls stalled 3 = true := by decide +kernel

/-! ### The engines -/

/-- The reference of a headerless operand at a line of slab 0. -/
def opw (line pitch : Nat) : Word := put line 22 ||| put pitch 0

/-- Context 3 of `dp` with issued commands; the slab holds 2 and 3 at line 24, 1 and 4 at line 25 (binary32). -/
def en (r : Run) (f : Ctx → Ctx) : State := ((dp fun c => f { c with runs := [r] }).writeB (spadBase 5 + 64 * 24) [0, 0, 0, 0x40, 0, 0, 0x40, 0x40]).writeB
  (spadBase 5 + 64 * 25) [0, 0, 0x80, 0x3F, 0, 0, 0x80, 0x40]

/-- MM and MMD of 1 × 2 with 2 × 1, declared s, output at line 26. -/
def mmBody (op : Nat) (sv : Int) : List Word :=
  [put op 56 ||| put 0xA 52 ||| put 0xA 48 ||| put 0xA 44 ||| put 1 40 ||| put 2 0, 0, put (twos 16 sv) 0, put (if op = 0x10 then 2 else 4) 0, opw 24 1, opw 25 1,
   opw 26 0, 0, 0, 0, 0] ++ (if op = 0x10 then [0, 0, 0] else [opw 24 1, opw 25 1, put 0xA 60 ||| put 0xA 56 ||| put 2 0]) ++ [0, 0]
def mm (op : Nat) (sv : Int) (ph : Nat) : Run := { thread := 1, cmd := 2, core := 5, eng := .me, env := zeros 8, body := mmBody op sv, phase := ph, s := sv }

def hop1 : WinDecl := { w1 with win := 9, kind := 2, src := 1, dst := 0, chain := 1, dstRef := put 70 6 }
def isOk {α : Type} (x : Chk α) : Bool := match x with | .ok _ => true | .error _ => false
/-- What the checks before issue read of a command. -/
def readOps (r : Run) (s : State) : CmdOps :=
  let e := r.ec s 3
  let got {α : Type} (x : Chk α) (f : α → CmdOps) : CmdOps := match x with | .ok a => f a | .error _ => .none
  match r.eng with
  | .me => got (meRead e r.env r.body) .me
  | .ee => got (eeRead e r.env r.body (heldEntry s 3 r)) .ee
  | .le => got (leRead e r.body) .le
  | .re => got (reRead e r.body) .re
  | .xe => got (xeRead e r.body) .xe
  | _ => .none
/-- A command as it was issued in the state that `mk` makes with it. -/
def issued (mk : Run → State) (r : Run) : Run := { r with ops := readOps r (mk r) }
/-- A command is there, and its engine works. -/
def there (s : State) (r : Run) : Bool := decide (findRun s 3 r.thread r.cmd = some r) && working s 3 r.core && !r.executed

def meOk (op : Nat) (sv : Int) (ph : Nat) (j : Judgement) : Bool :=
  let r := issued (en · id) (mm op sv ph)
  match r.ops with
  | .me o =>
    let s := en r id
    let p := o.products s sv
    let r2 := { r with partials := .sum p }
    let s2 := en r2 id
    let tot := o.totals s2 sv p
    let eff := o.drain (r2.ec s2 3) sv 0 tot
    there s r && r.opcode == op && !pausedByRepeat s 3 r && bankAnswer s 3 o.readRanges == .served &&
      judge tot.flatten sv 0 == j && sInRange sv && bankAnswer s2 3 o.drainRanges == .served && eff.queue.isNone &&
      bankAnswer s2 3 (writeRanges eff.writes) == .served && (ph != 4 || mayJudge r2)
  | _ => false

theorem meets_Matrix : meOk 0x10 0 2 .drain = true ∧ meOk 0x11 0 2 .drain = true ∧ meOk 0x10 0 4 .drain = true ∧
    meOk 0x10 (-100) 4 (.again (-74)) = true ∧ setForRepeat (en (mm 0x10 0 7) id) 3 (mm 0x10 0 7) = true ∧ ({} : Effects).queue = none := by
  decide +kernel
theorem meets_Matrix_faults : sInRange 1024 = false ∧ mayJudge (mm 0x10 1024 4) = true ∧ judge [{ f := 2 ^ 97 }] 1020 0 = .range 1025 := by decide
/-- A core whose banks are being cleared, or belong to another context. -/
def busyCore (s : State) : State := s.modCore 5 fun k => { k with own := Vector.replicate 56 { valid := true, ctx := 3, busy := true } }
def foreignCore (s : State) : State := s.modCore 5 fun k => { k with own := Vector.replicate 56 { valid := true, ctx := 2 } }
def asksBanks (s : State) (rs : List (Nat × Nat)) : Bool :=
  bankAnswer (busyCore s) 3 rs == .waits && (match bankAnswer (foreignCore s) 3 rs with | .foreign _ => true | _ => false)
/-- A tile whose second run calls for the same repeat, and one whose banks are being cleared. -/
def mmCheck (sv : Int) (ph : Nat) (x : Option Int) : Run :=
  { issued (en · id) (mm 0x10 sv ph) with executed := ph != 5, check := some (chk caShadeTile false), final := some (chk caFinalStage false), again := x }
theorem meets_Compare_repeat :
    (let r := mmCheck (-100) 5 (some (-74))
     let s := en r id
     decide (findRun s 3 1 2 = some r) && r.phase == 5 && !r.executed && openCheck r.final && checkMayEnd s 3 .me 13 &&
       bankAnswer s 3 r.ops.ranges == .served && (checkRun s 3 r).agrees r && r.digP == []) = true ∧
    (let r := mmCheck 0 4 none
     let s := busyCore (en r id)
     decide (findRun s 3 1 2 = some r) && r.executed && !awaitsDone r && openCheck r.check && bankAnswer s 3 r.ops.ranges == .waits) = true := by decide +kernel
/-- A second tile of the context repeats on the core. -/
def mmAgain : Run := { mm 0x10 0 2 with cmd := 3, repeats := 1 }
theorem meets_Matrix_paused : pausedByRepeat (en (mm 0x10 0 2) id) 3 (mm 0x10 0 2) = false ∧
    pausedByRepeat ((en (mm 0x10 0 2) id).modCtx 3 fun c => { c with runs := c.runs ++ [mmAgain] }) 3 (mm 0x10 0 2) = true := by decide +kernel
/-- A tile for the queue whose context has no entry left. -/
theorem meets_Matrix_full : queueRoom ((en (mm 0x10 0 4) id).modCore 5 fun k => { k with que := 0 }) 3 5 = false := by decide +kernel

theorem meets_BankAnswers_me :
    (let r := issued (en · id) (mm 0x10 0 2)
     let s := en r id
     there (busyCore s) r && (match r.ops with
     | .me o => asksBanks s o.readRanges && asksBanks s o.drainRanges
     | _ => false)) = true := by decide +kernel

/-- The LAST stage of chain 1, whose other stages are on device 1, with its row in. -/
def lastEnt : ChainEnt := { chain := 1, stage := 1, role := 3, kind := 0, kM1 := 0, thread := 1, cmd := 2, rowsM1 := 0, width := 1, idxBase := 0, idxLen := 0 }
def lastBody : List Word := [wd (mmBody 0x10 0) 0 ||| put 3 38, 0, 0, put 1 48 ||| put 1 32 ||| put 4 0] ++ (mmBody 0x10 0).drop 4
def lastRun (ph : Nat) : Run := { mm 0x10 0 ph with body := lastBody, role := 3, chain := 1, stage := some 1, partials := .sum [[{}]], inRows := [0] }
def enC (wins : List WinDecl) (es : List ChainEnt) (rs : List Run) (f : Ctx → Ctx) : State := en jn fun c => f { c with
  job := c.job.map fun j => { j with chains := es, wins := wins }, runs := rs }
theorem meets_Matrix_last :
    (let r := issued (fun r => enC [hop1] [lastEnt] [r] id) (lastRun 4)
     let s := enC [hop1] [lastEnt] [r] id
     there s r && mayJudge r && r.role == 3 && crossDevice (s.ctx 3) 1 && judge [({ f := 0 } : FElem)] 0 0 == .drain && (match r.ops with
     | .me o => bankAnswer s 3 o.drainRanges == .served
     | _ => false)) = true := by decide +kernel

/-- An element program that copies the elements of n rows from line 24 on to line 27 on: its instructions are at line 30. -/
def epBody (n : Nat) : List Word :=
  [put 0x20 56 ||| put (n - 1) 44 ||| put 2 24 ||| put 1 0, put 30 22 ||| put 3 14, 0, 0, 0, opw 24 1, 0, 0, 0, opw 27 1, 0, 0, put 0xA 60 ||| put 0xA 44, 0, 0, 0]
def epRun (n : Nat) : Run := { thread := 1, cmd := 2, core := 5, eng := .ee, env := zeros 8, body := epBody n }
def enE (r : Run) : State := (en r id).writeB (spadBase 5 + 64 * 30) (wordsToBytes [put 0x7C 56, put 0x30 56, put 0x31 56, put 0x7F 56])
theorem meets_Element :
    (let r := issued enE (epRun 2)
     let s := enE r
     there s r && r.opcode == 0x20 && r.phase == 0 && r.role == 0 && (match r.ops with
     | .ee o =>
       let st := eeRun s (s.ctx 3) o none none r.ee
       let st1 := eeRun s (s.ctx 3) o none (some 1) r.ee
       bankAnswer s 3 o.ranges == .served && asksBanks s o.ranges && st.fault.isNone && st.done o && st1.fault.isNone && !st1.done o
     | _ => false)) = true := by decide +kernel
/-- A program that has met a grid sum no repeat can fit. -/
theorem meets_Element_fault :
    (let r := { issued enE (epRun 2) with ee := { fault := some (flGridRange, 1024) } }
     let s := enE r
     there s r && (match r.ops with
     | .ee o => bankAnswer s 3 o.ranges == .served && (eeRun s (s.ctx 3) o none none r.ee).fault == some (flGridRange, 1024)
     | _ => false)) = true := by decide +kernel

/-- A stage of a chain makes a row with GOUT. -/
def epStage : ChainEnt := { chain := 1, stage := 0, role := 1, kind := 0, kM1 := 0, thread := 1, cmd := 2, rowsM1 := 0, width := 1, idxBase := 0, idxLen := 0 }
def epBody2 : List Word := [put 0x20 56 ||| put 1 24 ||| put 1 0, put 30 22 ||| put 3 14, 0, 0, 0, 0, 0, 0, 0, 0, 0, opw 28 0, put 0xB 36, 0, 0, 0]
def epRun2 : Run := { epRun 1 with body := epBody2, role := 1, chain := 1, stage := some 0 }
def enE2 (r : Run) : State := ((en r fun c => { c with job := c.job.map fun j => { j with chains := [epStage] } }).modCtx 3 fun c =>
  { c with job := c.job.map fun j => { j with chains := [epStage] }, runs := [r] }).writeB (spadBase 5 + 64 * 30) (wordsToBytes [put 0x7C 56, put 0x7D 56, put 0x43 56, put 0x7F 56])
theorem meets_Element_stage :
    (let r := issued enE2 epRun2
     let s := enE2 r
     there s r && r.role != 0 && (match r.ops with
     | .ee o => bankAnswer s 3 o.ranges == .served && (eeRun s (s.ctx 3) o none none r.ee).fault.isNone && (eeRun s (s.ctx 3) o none none r.ee).done o
     | _ => false)) = true := by decide +kernel

/-- Layout commands on the row at line 24, or on a headered tile at line 50. -/
def leBody (op : Nat) : List Word :=
  if op = 0x3C then [put op 56, 0, opw 27 0, 0, put 6 44, 0, 0, 0]
  else if op = 0x33 then [put op 56 ||| put 0xA 52 ||| put 0xA 48 ||| put 2 25, opw 50 0 ||| putB true 21, opw 50 0 ||| putB true 21, 0, 0, 0, 0, 0]
  else [put op 56 ||| put 0xA 52 ||| put 0xA 48 ||| put 2 25, opw 24 1, opw 27 0, if op = 0x31 then opw 40 0 else 0, if op = 0x31 then put 1 32 else 0, 0, 0, 0]
def leRun (op : Nat) : Run := { thread := 1, cmd := 2, core := 5, eng := .le, env := zeros 8, body := leBody op }
def enL (r : Run) : State := ((en r id).modCtx 3 fun c => { c with job := c.job.map fun j => { j with ctrDevs := [(6, 0)] } }).writeB (spadBase 5 + 64 * 50)
  (mkHdr 0xA 1 2 1 {} false false 0).bytes
theorem meets_Layout : [0x30, 0x31, 0x32, 0x33, 0x3C].all (fun op =>
    let r := issued enL (leRun op)
    let s := enL r
    there s r && r.opcode == op && (match r.ops with
    | .le o => bankAnswer s 3 o.ranges == .served && asksBanks s o.ranges && isOk (leIdx s o) &&
        (op != 0x30 || decide (min o.outRows (0 + (some 1).getD o.outRows) < o.outRows)) && (op != 0x3C || settled s 3 r.lctr)
    | _ => false)) = true := by decide +kernel
/-- An index of LGATHER that names no row. -/
theorem meets_Layout_index :
    (let r := issued enL (leRun 0x31)
     let s := (enL r).writeB (spadBase 5 + 64 * 40) [9]
     there s r && (match r.ops with
     | .le o => bankAnswer s 3 o.ranges == .served && (match leIdx s o with | .error x => x.1 != flWait | .ok _ => false)
     | _ => false)) = true := by decide +kernel
/-- A window that signals LCTR's counter has not landed; and the command in a lent slot. -/
theorem meets_Layout_counter :
    (let r := issued enL (leRun 0x3C)
     let l := issued enL { leRun 0x3C with lent := true }
     let s := (enL r).modCtx 3 fun c => { c with job := c.job.map fun j => { j with wins := [{ w3 with sigs := [(6, 1)] }] } }
     there s r && !settled s 3 r.lctr && there (enL l) l && l.lent && (match l.ops with
     | .le o => bankAnswer (enL l) 3 o.ranges == .served
     | _ => false)) = true := by decide +kernel

/-- Reductions of the row at line 24 to line 27, of every opcode, outside a chain. -/
def reBody (op role : Nat) : List Word :=
  let tap := op == 0x59
  let out := decide (op ≤ 0x54) || tap
  let ranks := op == 0x52 || op == 0x53 || op == 0x54
  [put op 56 ||| put (if tap then 0 else 0xA) 52 ||| put (if out then 0xA else 0) 48 ||| put (if op = 0x50 then 1 else 0) 46 ||| put role 44 ||| put (if tap then 0 else 2) 10,
   0, (if role = 0 then 0 else put 1 48) ||| put 2 0, 0, if tap then 0 else opw 24 1, if op = 0x53 then opw 40 0 else 0, 0,
   if role = 0 then opw 27 0 else 0, if ranks && role == 0 then opw 28 0 else 0, (if op = 0x55 then put 1 24 else 0) ||| (if tap then put 3 0 else 0)]
def reRun (op role : Nat) : Run := { thread := 1, cmd := 2, core := 5, eng := .re, env := zeros 8, body := reBody op role, phase := 2, role := role }
theorem meets_Reduction : (List.range 10).all (fun i =>
    let r := issued (en · id) (reRun (0x50 + i) 0)
    let s := en r id
    there s r && r.opcode == 0x50 + i && (match r.ops with
    | .re o =>
      let tap := (assocGet (3, o.channel) (s.core 5).taps).getD {}
      let eff := reFinish (r.ec s 3) o (reOwn s o r.s tap).1 r.s 0
      (o.op == 0x50) == (i == 0) && bankAnswer s 3 o.ranges == .served && asksBanks s o.ranges && bankAnswer s 3 (writeRanges eff.writes) == .served &&
        (i != 0 || (match reSettle s o 9 r.s 0, reSettle s o 9 1024 0 with | .ok _, .error _ => true | _, _ => false))
    | _ => false)) = true := by decide +kernel

/-- A CNT as the first stage and a RSUM as the last stage of chains of one row. -/
def cntEnt (role : Nat) : ChainEnt := { chain := 1, stage := 0, role := role, kind := 4, kM1 := 0, thread := 1, cmd := 2, rowsM1 := 0, width := 1, idxBase := 0, idxLen := 0 }
def bandEnt : ChainEnt := { cntEnt 3 with kind := 5 }
def bandLast : Run := { reRun 0x56 3 with body := (reBody 0x56 3).set 7 (opw 27 0), phase := 3, partials := .words [6], inRows := [0] }
theorem meets_Reduction_chain :
    (let r := issued (fun r => enC [] [cntEnt 1] [r] id) (reRun 0x55 1)
     let s := enC [] [cntEnt 1] [r] id
     there s r && (match r.ops with | .re o => bankAnswer s 3 o.ranges == .served | _ => false)) = true ∧
    ([2, 4].all fun ph =>
      let r := issued (fun r => enC [] [bandEnt] [r] id) { bandLast with phase := ph }
      let s := enC [] [bandEnt] [r] id
      there s r && rowsIn s (s.ctx 3) r && !crossDevice (s.ctx 3) r.chain && r.role == 3 && (match r.ops with
      | .re o => bankAnswer s 3 o.ranges == .served &&
          bankAnswer s 3 (writeRanges (reFinish (r.ec s 3) o r.partials r.s r.repeats).writes) == .served
      | _ => false)) = true := by decide +kernel
/-- A LAST stage whose row has not come. -/
theorem meets_Reduction_waits : rowsIn (enC [{ hop1 with chain := 1 }] [bandEnt] [{ bandLast with inRows := [] }] id)
    ((enC [{ hop1 with chain := 1 }] [bandEnt] [{ bandLast with inRows := [] }] id).ctx 3) { bandLast with inRows := [], chain := 1 } = false := by decide +kernel

/-- Two stages of chain 1 on core 5, words of one row; thread 1 command 2 is before command 3. -/
def stA (kind : Nat) : ChainEnt := { cntEnt 1 with kind := kind, idxBase := 1 }
def stB (kind : Nat) : ChainEnt := { cntEnt 3 with kind := kind, stage := 1, cmd := 3 }
def rA (ph : Nat) : Run := { thread := 1, cmd := 2, core := 5, eng := .re, env := [], body := [], phase := ph, partials := .words [5], chain := 1, role := 1 }
def rB : Run := { rA 3 with cmd := 3, partials := .words [7], role := 3 }
def g0 : RowTags := { chain := 1, stage := 0, row := 0, pass := 0, step := 0 }
def chS : State := enC [] [stA 4, stB 4] [rA 3, rB] id
theorem meets_PartialRow : runsNow chS 3 = true ∧ (chS.ctx 3).v.live = true ∧ g0.step = (chS.ctx 3).v.t ∧
    stageEnt (chS.ctx 3) 1 0 = some (stA 4) ∧ rowReceiver chS (chS.ctx 3) g0 = some (stB 4) ∧ stageRun chS 3 (stB 4) = some rB ∧
    rowStray (stB 4) rB g0 = false ∧ g0.pass = rB.pass ∧ rB.phase = 3 ∧ rB.partials ≠ .none ∧ (chS.core (coreOf rB.core)).quarantined = false ∧
    stageRun chS 3 (stA 4) = some (rA 3) ∧ rowReady chS (chS.ctx 3) (stA 4) (rA 3) g0 = true ∧ (stB 4).kind ≠ 0 ∧
    attemptPending (chS.ctx 3) = true ∧ afterClose chS 3 = false := by decide +kernel
/-- Rows that no stage expects, a row of another step, and stages of a sum chain at different exponents. -/
def chS0 : State := enC [] [stA 0, stB 0] [{ rA 3 with s := 4 }, rB] id
theorem meets_PartialRow_stray : rowReceiver chS (chS.ctx 3) { g0 with chain := 2 } = none ∧ rowStray (stB 4) rB { g0 with row := 1 } = true ∧
    ({ g0 with step := 7 } : RowTags).step ≠ (chS.ctx 3).v.t ∧ rowReceiver chS0 (chS0.ctx 3) g0 = some (stB 0) ∧ (stB 0).kind = 0 ∧
    ({ rA 3 with s := 4 } : Run).sAt 0 ≠ rB.sAt 0 := by decide +kernel

/-- A row from device 1 has landed in cell 0 of hop window 9. -/
def hop2 : WinDecl := { hop1 with dstRef := (⟨0, 0, 64 * 80⟩ : Ref).word }
def chH : State := enC [hop2] [stB 4] [rB] fun c => { c with x := { c.x with landed := [(9, 0, 0)] } }
theorem meets_PartialRow_hop : stageEnt (chH.ctx 3) 1 0 = none ∧ hopIn chH (chH.ctx 3) 1 = some hop2 ∧
    rowReceiver chH (chH.ctx 3) g0 = some (stB 4) ∧ stageRun chH 3 (stB 4) = some rB ∧ rowStray (stB 4) rB g0 = false ∧
    (match landedRow chH 3 (stB 4) hop2 0 0 with
    | some (.ok a) => bankAnswer chH 3 [(a, partialRowBytes 4 1)] == .served && asksBanks chH [(a, partialRowBytes 4 1)]
    | _ => false) = true := by decide +kernel
/-- A landing in no slab, and one whose cell has not come. -/
theorem meets_PartialRow_hop_stops : (match landedRow chH 3 (stB 4) { hop2 with dstRef := (⟨0, 9, 0⟩ : Ref).word } 0 0 with
    | some (.error e) => e.1 != flWait
    | _ => false) = true ∧ (landedRow chH 3 (stB 4) { hop2 with win := 10 } 0 0).isNone = true := by decide +kernel

/-- Stage 0 takes a header word; stage 1, the last, fixes s. -/
def hdA : Run := { rA 1 with eng := .me, hdr := [some 3, some 4, none, none] }
def lastB : ChainEnt := { lastEnt with cmd := 3 }
def hdB : Run := { issued (fun r => enC [] [lastEnt] [r] id) (lastRun 1) with cmd := 3, partials := .none, inRows := [] }
def chD : State := enC [] [{ lastEnt with role := 1, stage := 0, idxBase := 1 }, lastB] [{ hdA with hdrDone := true }, hdB] id
theorem meets_HeaderWord : (let e : ChainEnt := { lastEnt with role := 1, stage := 0, idxBase := 1 }
    let s0 := enC [] [e, lastB] [hdA, hdB] id
    decide (stageEnt (s0.ctx 3) 1 0 = some e) && decide (findRun s0 3 e.thread e.cmd = some hdA) && working s0 3 5 && decide (headerIn s0 3 e = some []) &&
    decide (stageEnt (chD.ctx 3) 1 1 = some lastB) && decide (findRun chD 3 1 3 = some hdB) && decide (headerIn chD 3 lastB = some hdA.hdr) &&
    (finalS hdB (mergeHdr hdA.hdr hdB.hdr)).isSome) = true := by decide +kernel
theorem meets_ReturnWord : [(0, 1), (1, 3), (2, 3)].all (fun (k, ph) =>
    let s := enC [] [stA 0, stB 0] [rA ph, rB] fun c => { c with x := { c.x with rets := [((1, 1), (k, -20, k % 2))] } }
    decide ((stA 0).role ≠ 3) && decide ((returnsFor s 3 (stA 0) (rA ph)).find? (takesReturn s 3 (stA 0) (rA ph)) = some (k, -20, k % 2))) = true := by decide +kernel

/-! ### The movers -/

/-- A DCOPY on channel 0 of 8 bytes from line 24 to line 70; its descriptor is at line 60. -/
def slabRef (line : Nat) : Word := (⟨0, 0, 64 * line⟩ : Ref).word
def dmaRun (op : Nat) (ws : List Word) : Run := { thread := 1, cmd := 2, core := 5, eng := .dma, env := zeros 8, body := put op 56 :: ws }
def dcRun : Run := dmaRun 0x60 [slabRef 60]
def enD (r : Run) : State := ((en r id).writeB (spadBase 5 + 64 * 60) (wordsToBytes [putB true 59, slabRef 24, slabRef 70, put 8 0, 0, 0, 0, 0])).modCore 5 fun k =>
  { k with dma := upd k.dma 0 fun d => { d with state := 1, queue := [(1, 2)] } }
theorem meets_Dcopy :
    (let s := enD dcRun
     let e := dcRun.ec s 3
     there s dcRun && dcRun.opcode == 0x60 && chanHead s dcRun && heldBytes ((s.core 5).dma[dcRun.chan.val]).hold == [] &&
     (match dcopyWalk e dcRun.body with
     | .ok ds => !descsHeld e ds && (match dcopyCheck e ds with
       | .ok ([x], s') =>
         let u := modRun 3 1 2 (fun r => { r with ops := .copy [x] }) (copyPins e [x] s')
         x.d.gather == 0 && !x.d.hdrs && (match x.src, x.dst with
           | [(.mem a 8, _)], [(.mem b 8, _)] => a == spadBase 5 + 64 * 24 && b == spadBase 5 + 64 * 70
           | _, _ => false) &&
         (let src := restParts (·.src) 0 [x]
          let dst := restParts (·.dst) 0 [x]
          let rs := (src ++ dst).filterMap fun y => y.1.range
          readyDescs u 3 0 0 [x] == 1 && !partsWait u 3 src dst && (copyOver (u.ctx 3) dst).isNone && bankAnswer u 3 rs == .served && asksBanks u rs &&
          !partsWait u 3 (subSegs x.src 0 8) (subSegs x.dst 0 8) && (copyOver (u.ctx 3) (subSegs x.dst 0 8)).isNone &&
          bankAnswer u 3 ((subSegs x.src 0 8 ++ subSegs x.dst 0 8).filterMap fun y => y.1.range) == .served) &&
         decide (8 ≤ segsLen x.src) && cutOk x.dst 8 &&
         decide (8 - 0 ≤ (s.core 5).chan[dcRun.chan.val].slices.toNat * 1024)
       | _ => false)
     | .error _ => false)) = true := by decide +kernel
/-- A DCOPY whose descriptor is reserved, and one whose source is in NEXT while its shard has no alternate. -/
def enDn : State := (noAlt (enD dcRun)).writeB (spadBase 5 + 64 * 60) (wordsToBytes [putB true 59, (⟨1, 2, 0⟩ : Ref).word, slabRef 70, put 8 0, 0, 0, 0, 0])
theorem meets_Dcopy_stops :
    (match dcopyWalk ((dmaRun 0x60 [slabRef 61]).ec (enD (dmaRun 0x60 [slabRef 61])) 3) (dmaRun 0x60 [slabRef 61]).body with
     | .error x => x.1 != flWait | .ok _ => false) = true ∧
    (match dcopyWalk (dcRun.ec (busyCore (enD dcRun)) 3) dcRun.body with | .error x => x.1 == flWait | .ok _ => false) = true ∧
    (match dcopyWalk (dcRun.ec enDn 3) dcRun.body with | .ok ds => descsHeld (dcRun.ec enDn 3) ds | .error _ => false) = true := by decide +kernel
/-- A DCOPY from a line to itself. -/
def enDs : State := (enD dcRun).writeB (spadBase 5 + 64 * 60) (wordsToBytes [putB true 59, slabRef 24, slabRef 24, put 8 0, 0, 0, 0, 0])
theorem meets_Dcopy_check :
    (match dcopyWalk (dcRun.ec enDs 3) dcRun.body with
     | .ok ds => !descsHeld (dcRun.ec enDs 3) ds && (match dcopyCheck (dcRun.ec enDs 3) ds with | .error x => x.1 != flWait | .ok _ => false)
     | .error _ => false) = true := by decide +kernel
/-- A DCOPY whose source is a window that has not landed, and one that has filled a local window to its VOLUME since its walk. -/
def segMem (line : Nat) : Seg × Ref := (.mem (spadBase 5 + 64 * line) 8, Ref.ofWord (slabRef line))
def descOf (src dst : Seg × Ref) : DescS := { d := Desc.ofWords [putB true 59, slabRef 24, slabRef 70, put 8 0, 0, 0, 0, 0], ref := Ref.ofWord (slabRef 60), src := [src], dst := [dst] }
def winLand : DescS := descOf (.mem (spadBase 5 + 64 * 80) 8, ⟨2, 3, 0⟩) (segMem 70)
def winOver : DescS := descOf (segMem 24) (.push 2 1216 8 1216 (some 0x809000), ⟨2, 2, 1216⟩)
def enDw : State := (enD dcRun).modCtx 3 fun c => { c with job := c.job.map fun j => { j with wins := [w2, w3] } }
theorem meets_Dcopy_waits : readyDescs enDw 3 0 0 [winLand] = 0 ∧ readyDescs enDw 3 0 0 [winOver] = 1 ∧
    partsWait enDw 3 (restParts (·.src) 0 [winOver]) (restParts (·.dst) 0 [winOver]) = false ∧
    copyOver ((enDw.modCtx 3 fun c => { c with x := { c.x with counts := [((2, 0), 1216)] } }).ctx 3) (restParts (·.dst) 0 [winOver]) = some 2 ∧
    chanHead enDw { dcRun with ops := .copy [winLand] } = true := by decide +kernel
theorem meets_Dsettle : (∀ y ∈ (dmaRun 0x61 []).written, y ∈ ((enD (dmaRun 0x61 [])).ctx 3).x.acked) ∧
    ¬ (∀ y ∈ ({ dmaRun 0x61 [] with written := [(1, 0)] } : Run).written, y ∈ ((enD (dmaRun 0x61 [])).ctx 3).x.acked) ∧ (dmaRun 0x61 []).opcode = 0x61 := by decide +kernel
def dsRun : Run := dmaRun 0x62 [slabRef 24, slabRef 40, slabRef 70]
def dsRun' : Run := { dsRun with body := (put 0x62 56 ||| put 0xA 48 ||| put 1 0) :: dsRun.body.drop 1 }
theorem meets_Dscat :
    (let s := (enD dsRun').modCtx 3 fun c => { c with loose := true }
     there s dsRun' && dsRun'.opcode == 0x62 && chanHead s dsRun' &&
     !(([1, 2, 3].map fun i => Ref.ofWord (wd dsRun'.body i)).any (refWaits (s.ctx 3))) && (match scatterCheck (dsRun'.ec s 3) dsRun'.body with
     | .ok (fmt, sa, da, ixs) =>
       let ops := scatterOps s fmt sa ixs 0 1
       !(ops.any fun x => pubHeld s (da + x.1 * 4) 4) &&
       (ops.any fun x => pubHeld { s with host := { windows := [{ outWin with base := da }] } } (da + x.1 * 4) 4) &&
       fmt == 0xA && da == spadBase 5 + 64 * 70 && ops == [(0, 0x40000000)] && ixs.length == 1 &&
         bankAnswer s 3 ((sa, 4) :: ops.map fun x => (da + x.1 * 4, 4)) == .served && decide (max 0 (min ((some 0).getD ixs.length) ixs.length) < ixs.length)
     | .error _ => false) &&
     (match scatterCheck (dsRun'.ec (enD dsRun') 3) dsRun'.body with | .error x => x.1 != flWait | .ok _ => false)) = true := by decide +kernel

theorem meets_Dscat_waits : ([(⟨1, 2, 0⟩ : Ref).word, slabRef 40, slabRef 70].map Ref.ofWord).any (refWaits ((noAlt (enD dsRun')).ctx 3)) = true := by
  decide +kernel

/-- XSEND, XRET and XBLK of one row of one line, to window 4, which goes to device 1 or stays here. -/
def wx (kind dst : Nat) : WinDecl := { w1 with win := 4, kind := kind, src := 0, dst := dst, volume := 1216, dstRef := slabRef 100 }
def xeBody (op : Nat) : List Word := (put op 56 ||| put 1 32 ||| put 1 0) :: (put 4 44 ||| put 1 32) :: slabRef 24 ::
  (if op = 0x70 then [slabRef 40, slabRef 41, slabRef 90, slabRef 91, put 1 48, 0] else if op = 0x71 then [slabRef 40, 0, 0, 0, 0, 0] else zeros 6)
def xeRun (op : Nat) : Run := { thread := 1, cmd := 2, core := 5, eng := .xe, env := zeros 8, body := xeBody op }
def enX (kind dst : Nat) (r : Run) : State := ((en r id).modCtx 3 fun c => { c with job := c.job.map fun j => { j with wins := [wx kind dst] } }).writeB (spadBase 5 + 64 * 41) [1]
theorem meets_Exchange : [(0x70, 3, 1), (0x71, 4, 1), (0x72, 0, 1), (0x72, 4, 0)].all (fun (op, kind, dst) =>
    let r := issued (enX kind dst) (xeRun op)
    let s := enX kind dst r
    there s r && r.opcode == op && (match r.ops with
    | .xe o =>
      let e := r.ec s 3
      let x := xeDone e o
      let len := o.tokens * o.rowBytes
      o.op == op && bankAnswer s 3 o.ranges == .served && asksBanks s o.ranges && !x.pubHeld s o && (flowOver e.ctx x).isNone && o.wins e.ctx == [wx kind dst] &&
        (op != 0x70 || (let s' : State := { s with host := { windows := [{ outWin with base := o.mask }] } }; x.pubHeld s' o)) &&
        decide (o.idx.length ≤ o.tokens * o.k) && isOk (xeApply e o x s) &&
        (dst == 1 || (!refWaits (s.ctx 3) (Ref.ofWord (slabRef 100)) && (match landAddr s 3 (Ref.ofWord (slabRef 100)) len with
          | .ok b => bankAnswer s 3 [(b, len)] == .served && !pubHeld s b len && (mirrorAddr (s.ctx 3) (Ref.ofWord (slabRef 100))).isNone
          | .error _ => false)))
    | _ => false)) = true := by decide +kernel
/-- The cell of the window has gone out; a local window's landing waits for an alternate, or lies in no slab. -/
def xeLocal (dst : Word) : State := (enX 4 0 (xeRun 0x72)).modCtx 3 fun c => { c with job := c.job.map fun j => { j with wins := [{ wx 4 0 with dstRef := dst }] } }
theorem meets_Exchange_stops :
    (let r := issued (enX 0 1) (xeRun 0x72)
     let s := (enX 0 1 r).modCtx 3 fun c => { c with x := { c.x with sent := [(4, 0, 0)] } }
     match r.ops with
     | .xe o => (flowOver (s.ctx 3) (xeDone (r.ec s 3) o)).isSome && (match xeApply ((xeRun 0x72).ec (noAlt (xeLocal (⟨1, 2, 0⟩ : Ref).word)) 3) o
          (xeDone ((xeRun 0x72).ec (noAlt (xeLocal (⟨1, 2, 0⟩ : Ref).word)) 3) o) (noAlt (xeLocal (⟨1, 2, 0⟩ : Ref).word)) with
          | .error f => f.1 == flWait | .ok _ => false) &&
        (match xeApply ((xeRun 0x72).ec (xeLocal (⟨0, 9, 0⟩ : Ref).word) 3) o (xeDone ((xeRun 0x72).ec (xeLocal (⟨0, 9, 0⟩ : Ref).word) 3) o)
          (xeLocal (⟨0, 9, 0⟩ : Ref).word) with | .error f => f.1 != flWait | .ok _ => false)
     | _ => false) = true := by decide +kernel
theorem meets_Exchange_held : xeHeld ((noAlt (enX 0 1 { xeRun 0x72 with body := (xeBody 0x72).set 2 (⟨1, 2, 0⟩ : Ref).word })).ctx 3)
    ((xeBody 0x72).set 2 (⟨1, 2, 0⟩ : Ref).word) = true := by decide +kernel

end Sys2Proof.Tests
end

section
/-! SUPPORT. Laws of the register map: each register is found at its own address. -/

namespace Sys2Proof.Machine

/-- A place of a run is found at its own offset. -/
theorem place1_at (base stride n : Nat) (i : Fin n) (hs : 0 < stride) : place1 (base + i.val * stride) base stride n = some i := by
  have hi : (base + i.val * stride - base) / stride = i.val := by rw [Nat.add_sub_cancel_left, Nat.mul_div_cancel _ hs]
  simp only [place1, hi, i.isLt, ↓reduceDIte, ↓reduceIte, Fin.eta]

/-- An offset outside a run, or between its places, is none of them. -/
theorem place1_eq_none {o base stride n : Nat} (hs : 0 < stride)
    (h : ¬ (base ≤ o ∧ o < base + n * stride ∧ (o - base) % stride = 0)) : place1 o base stride n = none := by
  unfold place1
  dsimp only
  split
  · next hi =>
    refine if_neg fun he => ?_
    have hlt := Nat.mul_lt_mul_of_pos_right hi hs
    have hmod := Nat.div_add_mod' (o - base) stride
    omega
  · rfl

/-- An offset in one of `n` rows lies before their end, and what it is past the start of its row is the remainder. -/
theorem row_rest {o base stride n : Nat} (hs : 0 < stride) (hi : (o - base) / stride < n) (hb : base ≤ o) :
    o < base + n * stride ∧ o - (base + (o - base) / stride * stride) = (o - base) % stride := by
  have hrows : (o - base) / stride * stride + stride ≤ n * stride := by
    rw [← Nat.succ_mul]; exact Nat.mul_le_mul_right _ hi
  have hmod := Nat.div_add_mod' (o - base) stride
  have hlt := Nat.mod_lt (o - base) hs
  omega

theorem place2_at (base s1 n s2 m : Nat) (i : Fin n) (j : Fin m) (hs : 0 < s2) (hm : m * s2 ≤ s1) :
    place2 (base + i.val * s1 + j.val * s2) base s1 n s2 m = some (i, j) := by
  have hj : j.val * s2 < s1 := Nat.lt_of_lt_of_le (Nat.mul_lt_mul_of_pos_right j.isLt hs) hm
  have hi : (base + i.val * s1 + j.val * s2 - base) / s1 = i.val := by
    rw [Nat.add_assoc, Nat.add_sub_cancel_left, Nat.add_comm, Nat.add_mul_div_right _ _ (by omega), Nat.div_eq_of_lt hj, Nat.zero_add]
  simp only [place2, hi, i.isLt, ↓reduceDIte, place1_at _ _ _ j hs, Option.map_some, Fin.eta]

theorem place2_eq_none {o base s1 n s2 m : Nat} (hs : 0 < s2) (h1 : 0 < s1)
    (h : ¬ (base ≤ o ∧ o < base + n * s1 ∧ (o - base) % s1 < m * s2 ∧ (o - base) % s1 % s2 = 0)) : place2 o base s1 n s2 m = none := by
  unfold place2
  dsimp only
  split
  · next hi =>
    rw [Option.map_eq_none_iff]
    refine place1_eq_none hs fun hin => h ?_
    have hb : base ≤ o := Nat.le_trans (Nat.le_add_right _ _) hin.1
    obtain ⟨hend, hrest⟩ := row_rest h1 hi hb
    rw [hrest] at hin
    omega
  · rfl

theorem place3_at (base s1 n s2 m s3 k : Nat) (i : Fin n) (j : Fin m) (l : Fin k) (hs : 0 < s3) (hk : k * s3 ≤ s2) (hm : m * s2 ≤ s1) :
    place3 (base + i.val * s1 + j.val * s2 + l.val * s3) base s1 n s2 m s3 k = some (i, j, l) := by
  have hj : j.val * s2 + l.val * s3 < s1 := by
    have h1 := Nat.mul_lt_mul_of_pos_right l.isLt hs
    have h2 : j.val * s2 + s2 ≤ m * s2 := by rw [← Nat.succ_mul]; exact Nat.mul_le_mul_right _ j.isLt
    omega
  have hi : (base + i.val * s1 + j.val * s2 + l.val * s3 - base) / s1 = i.val := by
    rw [Nat.add_assoc, Nat.add_assoc, Nat.add_sub_cancel_left, Nat.add_comm, Nat.add_mul_div_right _ _ (by omega), Nat.div_eq_of_lt hj,
      Nat.zero_add]
  simp only [place3, hi, i.isLt, ↓reduceDIte, place2_at _ _ _ _ _ j l hs hk, Option.map_some, Fin.eta]

theorem place3_eq_none {o base s1 n s2 m s3 k : Nat} (hs : 0 < s3) (h2 : 0 < s2) (h1 : 0 < s1)
    (h : ¬ (base ≤ o ∧ o < base + n * s1 ∧ (o - base) % s1 < m * s2 ∧ (o - base) % s1 % s2 < k * s3 ∧ (o - base) % s1 % s2 % s3 = 0)) :
    place3 o base s1 n s2 m s3 k = none := by
  unfold place3
  dsimp only
  split
  · next hi =>
    rw [Option.map_eq_none_iff]
    refine place2_eq_none hs h2 fun hin => h ?_
    have hb : base ≤ o := Nat.le_trans (Nat.le_add_right _ _) hin.1
    obtain ⟨hend, hrest⟩ := row_rest h1 hi hb
    rw [hrest] at hin
    omega
  · rfl

theorem firstSome_cons (x : Option Reg) (l : List (Option Reg)) : firstSome (x :: l) = if x = none then firstSome l else x := by
  cases x <;> rfl

/-- An address in control space is looked up by its offset, in the block that the offset lies in. -/
theorem regAt_ctlBase_add (o : Nat) :
    regAt (ctlBase + o) = if o < 0x1000000 then regPackage o else if o < 0x10000000 then regDie o else regCore o := by
  have hb : ¬ ctlBase + o < ctlBase := Nat.not_lt.2 (Nat.le_add_right _ _)
  simp only [regAt, if_neg hb, Nat.add_sub_cancel_left]

theorem regAt_die {o : Nat} (hl : 0x1000000 ≤ o) (h : o < 0x10000000) : regAt (ctlBase + o) = regDie o := by
  rw [regAt_ctlBase_add, if_neg (Nat.not_lt.2 hl), if_pos h]

theorem regAt_core {o : Nat} (h : 0x10000000 ≤ o) : regAt (ctlBase + o) = regCore o := by
  rw [regAt_ctlBase_add, if_neg (by omega), if_neg (Nat.not_lt.2 h)]

/-- Every register is found at its own address, whatever its indices (R34, R35): the blocks of few registers by evaluation, the bank
and core blocks by arithmetic on the indices, since an offset falls in one run of places alone. -/
theorem regAt_regAddr (r : Reg) : regAt (regAddr r) = some r := by
  cases r with
  | contractRev | owner | wscrub | wscrubStat | rust | bootStatus | bootProg | fuseCtl | pwrLimit | pwrEst | pwrTemp | pwrVf | pwrDroop
  | pwrStat | pwrState | pwrWake | pwrRail | pwrAon | pwrSeq | energyDev | indNs | indPos | indEpoch | indStatus | indOffset | indRef
  | stretchA | stretchB | cadence | facility | ptp | alarm | alarmCtl | sepRing | sepHead | sepFloor | sepStat => rfl
  | ctxMode i | tdcA i | tdcB i | wver i | bootMeas i | vendor i | secId i | energy i | indRoot i | sepFine i | sepCtl i | sepCkpt i
  | fabStatus i | fabErr i | fabFec i | memScrub i | ecc i | ue i | refresh i | retire i | shdQuar i =>
    revert i; decide
  | signer i j | recov i j
  | xeCnt i j | ctxLim i j | dl i j | dlStat i j | ddrCh i j | shdCtl i j | shdSeed i j | shdCnt i j => revert i j; decide
  | stgOwn d g b | stgForce d g b | stgRepair d g b | poolOwn d b | poolForce d b | poolRepair d b =>
    simp (disch := omega) only [regAddr, Reg.offset, regAt_die, regDie, ↓firstSome_cons, ↓reduceIte, reduceCtorEq,
      place1_eq_none, place2_at, place2_eq_none, place3_at, place3_eq_none, Option.map_none, Option.map_some]
  | _ =>
    simp (disch := omega) only [regAddr, Reg.offset, regAt_core, regCore, ↓firstSome_cons, ↓reduceIte, reduceCtorEq,
      place1_at, place1_eq_none, place2_at, place2_eq_none, place3_at, place3_eq_none, Option.map_none, Option.map_some]

end Sys2Proof.Machine
end

section
/-! SUPPORT. Laws of register writes: the judgement of R590 case by case, what a refused write keeps, and which bits of the value
written count. -/

namespace Sys2Proof.Machine

theorem regWriteAt_regAddr (who : Who) (r : Reg) (v : Word) (s : State) : regWriteAt who (regAddr r) v s = regWriteBy who r v s := by
  simp only [regWriteAt, regAt_regAddr]

theorem regWriteBy_notOwner {who : Who} {r : Reg} {v : Word} {s : State} (how : (regGet s r ^^^ v) &&& owMask r ≠ 0) (hw : who ≠ .owner) :
    regWriteBy who r v s = (stNotOwner, s) := if_pos ⟨how, hw⟩

theorem regWriteBy_notRenine {who : Who} {r : Reg} {v : Word} {s : State} (how : (regGet s r ^^^ v) &&& owMask r = 0 ∨ who = .owner)
    (htw : (regGet s r ^^^ v) &&& twMask r ≠ 0) (hw : who ≠ .renine) : regWriteBy who r v s = (stAddressFault, s) :=
  (if_neg fun h => how.elim h.1 h.2).trans (if_pos ⟨htw, hw⟩)

theorem regWriteBy_accepted {who : Who} {r : Reg} {v : Word} {s : State} (how : (regGet s r ^^^ v) &&& owMask r = 0 ∨ who = .owner)
    (htw : (regGet s r ^^^ v) &&& twMask r = 0 ∨ who = .renine) :
    regWriteBy who r v s = regApply r (mergeWrite r (regGet s r) v) s :=
  (if_neg fun h => how.elim h.1 h.2).trans (if_neg fun h => htw.elim h.1 h.2)

/-- The result of a write to a state that takes no effect unless the write is accepted (R590, last sentence). -/
def RefusedKeeps (s : State) (w : Wrote) : Prop := w.1 ≠ stOk → w.2 = s

theorem RefusedKeeps.refuse (st : Nat) (s : State) : RefusedKeeps s (refuse st s) := fun _ => rfl
theorem RefusedKeeps.unchanged (st : Nat) (s : State) : RefusedKeeps s (st, s) := fun _ => rfl
theorem RefusedKeeps.accepted (s t : State) : RefusedKeeps s (stOk, t) := fun h => absurd rfl h
theorem RefusedKeeps.ite {s : State} {p : Prop} [Decidable p] {a b : Wrote} (ha : RefusedKeeps s a) (hb : RefusedKeeps s b) :
    RefusedKeeps s (if p then a else b) := by
  split
  · exact ha
  · exact hb
theorem RefusedKeeps.refuseElse {s : State} {p : Prop} [Decidable p] {st : Nat} {b : Wrote} (hb : RefusedKeeps s b) :
    RefusedKeeps s (if p then Machine.refuse st s else b) := .ite (.refuse st s) hb

theorem bankWrite_refusedKeeps (force : Bool) (p : Place) (v : Word) (s : State) : RefusedKeeps s (bankWrite force p v s) := by
  unfold bankWrite
  split
  · exact .unchanged _ _
  · exact .refuseElse <| .refuseElse <| .refuseElse <| .refuseElse <| .refuseElse <| .refuseElse <| .accepted _ _

theorem vfWrite_refusedKeeps (v : Word) (s : State) : RefusedKeeps s (vfWrite v s) := .refuseElse (.accepted _ _)

theorem stateWrite_refusedKeeps (v : Word) (s : State) : RefusedKeeps s (stateWrite v s) :=
  .refuseElse <| .refuseElse <| .refuseElse <| .refuseElse <| .refuseElse <| .accepted _ _

theorem abortWrite_refusedKeeps (c : CoreId) (v : Word) (s : State) : RefusedKeeps s (abortWrite c v s) :=
  .refuseElse (.accepted _ _)

theorem regApply_refusedKeeps (r : Reg) (v : Word) (s : State) : RefusedKeeps s (regApply r v s) := by
  cases r with
  | ctxMode n => exact .refuseElse <| .refuseElse <| .refuseElse <| .accepted _ _
  | meSplit c | eeSplit c | ctxLim d n | dmaChan c h => exact .refuseElse <| .refuseElse <| .accepted _ _
  | wscrub | pwrLimit | cadence | sepFloor | memScrub d | stgRepair d g b | poolRepair d b | bankRepair c b | shdCtl d n | ipat c e h
  | dbgCtrl c => exact .refuseElse <| .accepted _ _
  | stgOwn d g b | stgForce d g b | poolOwn d b | poolForce d b | bankOwn c b | bankForce c b => exact bankWrite_refusedKeeps _ _ v s
  | pwrVf => exact vfWrite_refusedKeeps v s
  | pwrState => exact stateWrite_refusedKeeps v s
  | dmaAbort c => exact abortWrite_refusedKeeps c v s
  | _ => exact .accepted _ _

theorem regWriteBy_refusedKeeps (who : Who) (r : Reg) (v : Word) (s : State) : RefusedKeeps s (regWriteBy who r v s) :=
  .refuseElse <| .refuseElse <| regApply_refusedKeeps _ _ s

/-- Two values that agree under a mask agree under each part of it. -/
theorem and_eq_and_of_subset {m w u v : Word} (hm : w &&& m = m) (h : u &&& w = v &&& w) : u &&& m = v &&& m := by
  rw [← hm, ← BitVec.and_assoc, ← BitVec.and_assoc, h]

theorem writeMask_and_owMask (r : Reg) : writeMask r &&& owMask r = owMask r := by
  ext i hi
  simp only [writeMask, BitVec.getElem_and, BitVec.getElem_or]
  cases (owMask r)[i]
  · rw [Bool.and_false]
  · simp only [Bool.true_or, Bool.and_true]

theorem writeMask_and_twMask (r : Reg) : writeMask r &&& twMask r = twMask r := by
  ext i hi
  simp only [writeMask, BitVec.getElem_and, BitVec.getElem_or]
  cases (twMask r)[i]
  · rw [Bool.and_false]
  · simp only [Bool.or_true, Bool.true_or, Bool.and_true]

/-- Values that agree under a mask differ from a third in the same bits under it. -/
theorem xor_and_congr {m u v : Word} (h : u &&& m = v &&& m) (cur : Word) : (cur ^^^ u) &&& m = (cur ^^^ v) &&& m := by
  have hdistrib (x : Word) : (cur ^^^ x) &&& m = (cur &&& m) ^^^ (x &&& m) := by
    ext i; simp only [BitVec.getElem_and, BitVec.getElem_xor, Bool.and_xor_distrib_right]
  rw [hdistrib, hdistrib, h]

theorem regWriteBy_congr {r : Reg} {u v : Word} (h : u &&& writeMask r = v &&& writeMask r) (who : Who) (s : State) :
    regWriteBy who r u s = regWriteBy who r v s := by
  have how := xor_and_congr (and_eq_and_of_subset (writeMask_and_owMask r) h) (regGet s r)
  have htw := xor_and_congr (and_eq_and_of_subset (writeMask_and_twMask r) h) (regGet s r)
  simp only [regWriteBy, mergeWrite, how, htw, h]

theorem regGet_alarmCtl (s : State) : regGet s .alarmCtl = putB s.ind.alarmFired 1 ||| putB s.ind.alarmEn 0 := rfl

theorem bit_regGet_alarmCtl (s : State) : bit (regGet s .alarmCtl) 0 = s.ind.alarmEn := by
  rw [regGet_alarmCtl]
  generalize s.ind.alarmFired = fired, s.ind.alarmEn = en
  revert fired en
  decide

/-- A bit inside a mask is the same in two values that agree under the mask. -/
theorem bit_eq_of_and_eq {m u v : Word} {i : Nat} (hm : m.getLsbD i = true) (h : u &&& m = v &&& m) : bit u i = bit v i := by
  have hb : u.getLsbD i = v.getLsbD i := by simpa only [BitVec.getLsbD_and, hm, Bool.and_true] using congrArg (·.getLsbD i) h
  exact hb

theorem regApply_alarmCtl {s : State} {v : Word} (h : bit v 0 = s.ind.alarmEn) (cur : Word) :
    regApply .alarmCtl (mergeWrite .alarmCtl cur v) s =
      (stOk, { s with ind := { s.ind with alarmFired := s.ind.alarmFired && !bit v 1 } }) := by
  simp only [regApply, bit_mergeWrite .alarmCtl cur v 0 (by decide), bit_mergeWrite .alarmCtl cur v 1 (by decide), h]

theorem regWriteBy_alarmCtl {s : State} {v : Word} (h : regGet s .alarmCtl &&& owMask .alarmCtl = v &&& owMask .alarmCtl) (who : Who) :
    regWriteBy who .alarmCtl v s = (stOk, { s with ind := { s.ind with alarmFired := s.ind.alarmFired && !bit v 1 } }) := by
  have how : (regGet s .alarmCtl ^^^ v) &&& owMask .alarmCtl = 0 := by
    rw [← xor_and_congr h, BitVec.xor_self]; exact BitVec.zero_and
  have hen : bit v 0 = s.ind.alarmEn := by
    rw [← bit_regGet_alarmCtl, bit_eq_of_and_eq (m := owMask .alarmCtl) (by decide) h]
  rw [regWriteBy_accepted (.inl how) (.inl BitVec.and_zero), regApply_alarmCtl hen]

end Sys2Proof.Machine
end

section
/-! PROOFS. The statements about register writes. -/

open Sys2Proof.Machine

namespace Sys2Proof

/-- Settles O8: the two refusals of R590, then the register's own rule on the merged word; what is refused keeps the state, and
only the bits of the write mask are looked at. -/
theorem registerWritesAreJudgedWhole : Obligations.RegisterWritesAreJudgedWhole := by
  intro who r v s
  simp only [regWriteAt_regAddr]
  exact ⟨regWriteBy_notOwner, regWriteBy_notRenine, regWriteBy_accepted, regWriteBy_refusedKeeps who r v s,
    fun u hu => regWriteBy_congr hu who s, fun h => regWriteBy_alarmCtl h who⟩

end Sys2Proof
end

section
/-! SUPPORT. Laws of byte strings read as little-endian numbers: cutting such a number gives its bytes back, and an XOR at a
byte's place changes that byte alone. -/

namespace Sys2Proof.Machine

theorem leNat_lt (bs : List Byte) : leNat bs < 256 ^ bs.length := by
  induction bs with
  | nil => exact Nat.one_pos
  | cons b bs ih =>
    have hb := b.isLt
    rw [leNat, List.length_cons, Nat.pow_succ]
    omega

theorem leBytes_leNat (bs : List Byte) : leBytes bs.length (leNat bs) = bs := by
  induction bs with
  | nil => rfl
  | cons b bs ih =>
    have hb := b.isLt
    have hlow : BitVec.ofNat 8 (b.toNat + 256 * leNat bs) = b := BitVec.eq_of_toNat_eq (by rw [BitVec.toNat_ofNat]; omega)
    have hrest : (b.toNat + 256 * leNat bs) / 256 = leNat bs := by omega
    rw [leNat, List.length_cons, leBytes, hlow, hrest, ih]

/-- The bytes of a number below the word's size pass through the word unchanged. -/
theorem leBytes_ofNat_leNat {n : Nat} {bs : List Byte} (h : bs.length = n) :
    leBytes n (BitVec.ofNat (8 * n) (leNat bs)).toNat = bs := by
  subst h
  have hlt : leNat bs < 2 ^ (8 * bs.length) := by rw [Nat.pow_mul]; exact leNat_lt bs
  rw [BitVec.toNat_ofNat, Nat.mod_eq_of_lt hlt, leBytes_leNat]

/-- The first byte of a list is the lowest of the word. -/
theorem ofNat_leNat_cons (w : Nat) (b : Byte) (bs : List Byte) :
    BitVec.ofNat (w + 8) (leNat (b :: bs)) = BitVec.ofNat w (leNat bs) ++ b := by
  have hb := b.isLt
  have hlow : (b.toNat + 256 * leNat bs) % 256 = b.toNat := by omega
  have hrest : (b.toNat + 256 * leNat bs) / 256 = leNat bs := by omega
  have hpow : 2 ^ (w + 8) = 256 * 2 ^ w := (Nat.pow_add 2 w 8).trans (Nat.mul_comm _ _)
  have hshift (n : Nat) : n <<< 8 = n * 256 := Nat.shiftLeft_eq n 8
  apply BitVec.eq_of_toNat_eq
  calc (BitVec.ofNat (w + 8) (leNat (b :: bs))).toNat
      = (b.toNat + 256 * leNat bs) % (256 * 2 ^ w) := by rw [BitVec.toNat_ofNat, hpow, leNat]
    _ = leNat bs % 2 ^ w * 256 + b.toNat := by rw [Nat.mod_mul, hlow, hrest, Nat.add_comm, Nat.mul_comm]
    _ = (BitVec.ofNat w (leNat bs) ++ b).toNat := by
        rw [BitVec.toNat_append, ← Nat.shiftLeft_add_eq_or_of_lt hb, hshift, BitVec.toNat_ofNat]

/-- The lowest byte and the rest are XORed apart from each other. -/
theorem xor_byte_add (b c : Byte) (x y : Nat) :
    (b.toNat + 256 * x) ^^^ (c.toNat + 256 * y) = (b ^^^ c).toNat + 256 * (x ^^^ y) := by
  have hlow (b : Byte) (x : Nat) : (b.toNat + 256 * x) % 256 = b.toNat := by have := b.isLt; omega
  have hrest (b : Byte) (x : Nat) : (b.toNat + 256 * x) / 256 = x := by have := b.isLt; omega
  have hmod : ((b.toNat + 256 * x) ^^^ (c.toNat + 256 * y)) % 256 = (b.toNat + 256 * x) % 256 ^^^ (c.toNat + 256 * y) % 256 :=
    Nat.xor_mod_two_pow (n := 8)
  have hdiv : ((b.toNat + 256 * x) ^^^ (c.toNat + 256 * y)) / 256 = (b.toNat + 256 * x) / 256 ^^^ (c.toNat + 256 * y) / 256 :=
    Nat.xor_div_two_pow (n := 8)
  rw [← Nat.mod_add_div ((b.toNat + 256 * x) ^^^ (c.toNat + 256 * y)) 256, hmod, hdiv, hlow, hlow, hrest, hrest, BitVec.toNat_xor]

theorem ofNat_leNat_singleton (b : Byte) : BitVec.ofNat 8 (leNat [b]) = b := by
  rw [leNat, leNat, Nat.mul_zero, Nat.add_zero, BitVec.ofNat_toNat, BitVec.setWidth_eq]

theorem leNat_xor_byte {bs : List Byte} {k : Nat} (hk : k < bs.length) (e : Byte) :
    leNat bs ^^^ e.toNat <<< (8 * k) = leNat (bs.modify k (· ^^^ e)) := by
  induction bs generalizing k with
  | nil => exact absurd hk (Nat.not_lt_zero k)
  | cons b bs ih =>
    cases k with
    | zero =>
      have h := xor_byte_add b e (leNat bs) 0
      rwa [Nat.mul_zero, Nat.add_zero, Nat.xor_zero] at h
    | succ k =>
      have hshift : e.toNat <<< (8 * (k + 1)) = (0#8).toNat + 256 * e.toNat <<< (8 * k) := by
        rw [Nat.mul_succ, Nat.shiftLeft_add, Nat.shiftLeft_eq _ 8, BitVec.toNat_ofNat, Nat.zero_mod, Nat.zero_add, Nat.mul_comm]
      rw [hshift, leNat, xor_byte_add, ih (Nat.lt_of_succ_lt_succ hk), List.modify_succ_cons, leNat, BitVec.xor_zero]

end Sys2Proof.Machine
end

section
/-! SUPPORT. The arithmetic of Umber (R327): doubling is linear and one-to-one, gmul is bilinear and commutative, its
products by the powers of α are repeated doublings, and so the multipliers of R328 tell the data bytes apart. -/

namespace Sys2Proof.Machine

theorem ite_xor_bool {w : Nat} (p q : Bool) (x : BitVec w) :
    (if p ^^ q then x else 0) = (if p then x else 0) ^^^ (if q then x else 0) := by
  cases p <;> cases q <;> simp

theorem ite_xor_distrib {w : Nat} (p : Bool) (x y : BitVec w) :
    (if p then x ^^^ y else 0) = (if p then x else 0) ^^^ (if p then y else 0) := by
  cases p <;> simp

theorem gfDouble_eq_xor (a : Byte) : gfDouble a = a <<< 1 ^^^ (if a.msb then 0x1D else 0) := by
  rw [gfDouble]
  split
  · rfl
  · exact BitVec.xor_zero.symm

theorem gfDouble_xor (a b : Byte) : gfDouble (a ^^^ b) = gfDouble a ^^^ gfDouble b := by
  rw [gfDouble_eq_xor, gfDouble_eq_xor, gfDouble_eq_xor, BitVec.msb_xor, BitVec.shiftLeft_xor_distrib, ite_xor_bool]
  ac_rfl

theorem gfDouble_zero : gfDouble 0 = 0 := by decide

theorem gfDouble_ite (p : Bool) (a : Byte) : gfDouble (if p then a else 0) = if p then gfDouble a else 0 := by
  rw [apply_ite gfDouble, gfDouble_zero]

/-- Doubling loses no byte: the polynomial 0x11D has a constant term. -/
theorem eq_zero_of_gfDouble : ∀ {a : Byte}, gfDouble a = 0 → a = 0 := by decide

theorem gmulAux_xor_right (n : Nat) (a b c : Byte) : gmulAux n a (b ^^^ c) = gmulAux n a b ^^^ gmulAux n a c := by
  induction n generalizing a b c with
  | zero => exact BitVec.xor_zero.symm
  | succ n ih =>
    rw [gmulAux, gmulAux, gmulAux, BitVec.getLsbD_xor, BitVec.ushiftRight_xor_distrib, ih, ite_xor_bool]
    ac_rfl

theorem gmulAux_xor_left (n : Nat) (a b c : Byte) : gmulAux n (a ^^^ b) c = gmulAux n a c ^^^ gmulAux n b c := by
  induction n generalizing a b c with
  | zero => exact BitVec.xor_zero.symm
  | succ n ih =>
    rw [gmulAux, gmulAux, gmulAux, gfDouble_xor, ih, ite_xor_distrib]
    ac_rfl

theorem gmulAux_gfDouble (n : Nat) (a b : Byte) : gmulAux n (gfDouble a) b = gfDouble (gmulAux n a b) := by
  induction n generalizing a b with
  | zero => exact gfDouble_zero.symm
  | succ n ih => rw [gmulAux, gmulAux, gfDouble_xor, gfDouble_ite, ih]

theorem gmul_xor_right (a b c : Byte) : gmul a (b ^^^ c) = gmul a b ^^^ gmul a c := gmulAux_xor_right 8 a b c

theorem gmul_xor_left (a b c : Byte) : gmul (a ^^^ b) c = gmul a c ^^^ gmul b c := gmulAux_xor_left 8 a b c

theorem gmul_gfDouble_left (a b : Byte) : gmul (gfDouble a) b = gfDouble (gmul a b) := gmulAux_gfDouble 8 a b

theorem gmul_one_left : ∀ b : Byte, gmul 1 b = b := by decide

theorem repeat_gfDouble_add (m n : Nat) (a : Byte) :
    Nat.repeat gfDouble (m + n) a = Nat.repeat gfDouble m (Nat.repeat gfDouble n a) := by
  induction m with
  | zero => rw [Nat.zero_add, Nat.repeat]
  | succ m ih => rw [Nat.succ_add, Nat.repeat, Nat.repeat, ih]

theorem repeat_gfDouble_succ (n : Nat) (a : Byte) : Nat.repeat gfDouble (n + 1) a = Nat.repeat gfDouble n (gfDouble a) :=
  repeat_gfDouble_add n 1 a

/-- A product by a power of α is a repeated doubling. -/
theorem gmul_repeat_left (n : Nat) (b : Byte) : gmul (Nat.repeat gfDouble n 1) b = Nat.repeat gfDouble n b := by
  induction n with
  | zero => exact gmul_one_left b
  | succ n ih => rw [Nat.repeat, Nat.repeat, gmul_gfDouble_left, ih]

theorem gmulAux_zero_left (n : Nat) (b : Byte) : gmulAux n 0 b = 0 := by
  induction n generalizing b with
  | zero => rfl
  | succ n ih => rw [gmulAux, gfDouble_zero, ih, ite_self]; exact BitVec.xor_zero

theorem gmul_zero_left (b : Byte) : gmul 0 b = 0 := gmulAux_zero_left 8 b

/-- Two factors of a product change places. -/
theorem gmul_gmulAux_right_comm (n : Nat) (a b c : Byte) : gmul (gmulAux n a b) c = gmulAux n (gmul a c) b := by
  induction n generalizing a b with
  | zero => exact gmulAux_zero_left 8 c
  | succ n ih => rw [gmulAux, gmulAux, gmul_xor_left, ih, apply_ite (gmul · c), gmul_zero_left, gmul_gfDouble_left]

theorem gmul_comm (a b : Byte) : gmul a b = gmul b a :=
  calc gmul a b = gmul (gmul 1 a) b := by rw [gmul_one_left]
    _ = gmul (gmul 1 b) a := gmul_gmulAux_right_comm 8 1 a b
    _ = gmul b a := by rw [gmul_one_left]

theorem gmulAux_zero_right (n : Nat) (a : Byte) : gmulAux n a 0 = 0 := by
  induction n generalizing a with
  | zero => rfl
  | succ n ih => exact (congrArg (0 ^^^ ·) (ih (gfDouble a))).trans BitVec.xor_zero

theorem twoPow_succ_ushiftRight : ∀ k : Fin 7, BitVec.twoPow 8 (k + 1) >>> 1 = BitVec.twoPow 8 k := by decide

/-- The one set bit of a factor, at place `k`, doubles `k` times. -/
theorem gmulAux_twoPow {n k : Nat} (hk : k < n) (hn : n ≤ 8) (a : Byte) : gmulAux n a (BitVec.twoPow 8 k) = Nat.repeat gfDouble k a := by
  induction k generalizing n a with
  | zero =>
    obtain _ | n := n
    · contradiction
    · exact (congrArg (a ^^^ ·) (gmulAux_zero_right n (gfDouble a))).trans BitVec.xor_zero
  | succ k ih =>
    obtain _ | n := n
    · contradiction
    · have hbit : (BitVec.twoPow 8 (k + 1)).getLsbD 0 = false := by simp
      rw [gmulAux, hbit, twoPow_succ_ushiftRight ⟨k, by omega⟩, ih (Nat.lt_of_succ_lt_succ hk) (Nat.le_of_succ_le hn),
        repeat_gfDouble_succ]
      exact BitVec.zero_xor

theorem natCast_one_shiftLeft : ∀ k : Fin 8, ((1 <<< k.val : Nat) : Byte) = BitVec.twoPow 8 k := by decide

theorem eq_zero_of_repeat_gfDouble {n : Nat} {a : Byte} (h : Nat.repeat gfDouble n a = 0) : a = 0 := by
  induction n with
  | zero => exact h
  | succ n ih => exact ih (eq_zero_of_gfDouble h)

theorem gfDouble_injective {a b : Byte} (h : gfDouble a = gfDouble b) : a = b :=
  BitVec.xor_eq_zero_iff.1 (eq_zero_of_gfDouble ((gfDouble_xor a b).trans (h ▸ BitVec.xor_self)))

theorem repeat_gfDouble_injective {n : Nat} {a b : Byte} (h : Nat.repeat gfDouble n a = Nat.repeat gfDouble n b) : a = b := by
  induction n with
  | zero => exact h
  | succ n ih => exact ih (gfDouble_injective h)

/-- The Zech logarithms of 1 to 7: the powers of α that α + 1 to α^7 + 1 are. -/
def zech : List Nat := [25, 50, 223, 100, 138, 191, 112]

theorem repeat_zech : ∀ j : Fin 7, Nat.repeat gfDouble (j.val + 1) 1 ^^^ 1 = Nat.repeat gfDouble (zech.getD j 0) 1 := by decide +kernel

/-- One to seven doublings move every byte but zero: what they add to a byte is its product by a power of α. -/
theorem eq_zero_of_repeat_gfDouble_eq_self (j : Fin 7) {e : Byte} (h : Nat.repeat gfDouble (j.val + 1) e = e) : e = 0 := by
  have hsum : gmul (Nat.repeat gfDouble (zech.getD j 0) 1) e = 0 := by
    rw [← repeat_zech, gmul_xor_left, gmul_repeat_left, gmul_one_left, h]
    exact BitVec.xor_self
  exact eq_zero_of_repeat_gfDouble (gmul_repeat_left (zech.getD j 0) e ▸ hsum)

/-- The multipliers of R328 are α^8 to α^15. -/
theorem umberM_eq_repeat : ∀ i : Fin 8, umberM.getD i 0 = Nat.repeat gfDouble (i.val + 8) 1 := by decide

theorem gmul_umberM (i : Fin 8) (e : Byte) : gmul (umberM.getD i 0) e = Nat.repeat gfDouble (i.val + 8) e := by
  rw [umberM_eq_repeat, gmul_repeat_left]

/-- Two multipliers are at most seven doublings apart, so no error has the same product by two of them. -/
theorem gmul_umberM_ne {i k : Fin 8} (hik : i < k) {e : Byte} (he : e ≠ 0) :
    gmul (umberM.getD i 0) e ≠ gmul (umberM.getD k 0) e := by
  intro h
  obtain ⟨j, hj⟩ := Nat.exists_eq_add_of_lt (Fin.lt_def.1 hik)
  have hpow : Nat.repeat gfDouble (i.val + 8) (Nat.repeat gfDouble (j + 1) e) = Nat.repeat gfDouble (i.val + 8) e := by
    rw [← repeat_gfDouble_add, ← gmul_umberM i, h, gmul_umberM]
    exact congrArg (Nat.repeat gfDouble · e) (by omega)
  exact he (eq_zero_of_repeat_gfDouble_eq_self ⟨j, by omega⟩ (repeat_gfDouble_injective hpow))

theorem gmul_umberM_ne_zero (k : Fin 8) {e : Byte} (he : e ≠ 0) : gmul (umberM.getD k 0) e ≠ 0 := by
  rw [gmul_umberM]
  exact fun h => he (eq_zero_of_repeat_gfDouble h)

theorem umberLocate_gmul (k : Fin 8) {e : Byte} (he : e ≠ 0) : umberLocate e (gmul (umberM.getD k 0) e) = some k.val := by
  rw [umberLocate, List.find?_range_eq_some]
  refine ⟨beq_self_eq_true _, List.mem_range.2 k.isLt, fun i hi => ?_⟩
  rw [Bool.not_eq_true', beq_eq_false_iff_ne]
  exact (gmul_umberM_ne (i := ⟨i, by omega⟩) (k := k) hi he).symm

end Sys2Proof.Machine
end

section
/-! SUPPORT. The Umber word (R327, R328) and its decoding (R329): a word as its bytes, the check bytes of data with one byte in
error, and the decode by what its syndromes are. -/

namespace Sys2Proof.Machine

theorem foldl_xor_modify {l : List Byte} {k : Nat} (hk : k < l.length) (a e : Byte) :
    (l.modify k (· ^^^ e)).foldl (· ^^^ ·) a = l.foldl (· ^^^ ·) a ^^^ e := by
  have hinit (l : List Byte) (a : Byte) : l.foldl (· ^^^ ·) (a ^^^ e) = l.foldl (· ^^^ ·) a ^^^ e := by
    rw [BitVec.xor_comm, List.foldl_assoc, BitVec.xor_comm]
  induction l generalizing k a with
  | nil => exact absurd hk (Nat.not_lt_zero k)
  | cons x l ih =>
    cases k with
    | zero => rw [List.modify_zero_cons, List.foldl_cons, List.foldl_cons, ← BitVec.xor_assoc, hinit]
    | succ k => rw [List.modify_succ_cons, List.foldl_cons, List.foldl_cons, ih (Nat.lt_of_succ_lt_succ hk)]

theorem umberC0_modify {d : List Byte} {k : Nat} (hk : k < d.length) (e : Byte) : umberC0 (d.modify k (· ^^^ e)) = umberC0 d ^^^ e :=
  foldl_xor_modify hk 0 e

theorem zipWith_gmul_modify (d ms : List Byte) (k : Nat) (e : Byte) :
    (d.modify k (· ^^^ e)).zipWith gmul ms = (d.zipWith gmul ms).modify k (· ^^^ gmul (ms.getD k 0) e) := by
  induction d generalizing ms k with
  | nil => rw [List.modify_nil, List.zipWith_nil_left, List.modify_nil]
  | cons x d ih =>
    cases ms with
    | nil => rw [List.zipWith_nil_right, List.zipWith_nil_right, List.modify_nil]
    | cons m ms =>
      cases k with
      | zero =>
        rw [List.modify_zero_cons, List.zipWith_cons_cons, List.zipWith_cons_cons, List.modify_zero_cons, List.getD_cons_zero,
          gmul_xor_left, gmul_comm e m]
      | succ k =>
        rw [List.modify_succ_cons, List.zipWith_cons_cons, List.zipWith_cons_cons, List.modify_succ_cons, List.getD_cons_succ, ih]

theorem umberC1_modify {d : List Byte} (hd : d.length = 8) (k : Fin 8) (e : Byte) :
    umberC1 (d.modify k (· ^^^ e)) = umberC1 d ^^^ gmul (umberM.getD k 0) e := by
  have hk : k.val < (d.zipWith gmul umberM).length := by rw [List.length_zipWith, hd]; exact k.isLt
  rw [umberC1, zipWith_gmul_modify, foldl_xor_modify hk, umberC1]

/-- The word that holds eight data bytes and two check bytes, whatever they are. -/
def umberWord (d : List Byte) (c0 c1 : Byte) : BitVec 80 := BitVec.ofNat 80 (leNat (d ++ [c0, c1]))

theorem umberEncode_eq_umberWord {d : List Byte} (hd : d.length = 8) : umberEncode d = umberWord d (umberC0 d) (umberC1 d) := by
  have hpad : padTo 8 (d.take 8) = d := by
    rw [List.take_of_length_le (Nat.le_of_eq hd), padTo, hd, Nat.sub_self, List.replicate_zero, List.append_nil]
  rw [umberEncode, hpad, umberWord]

theorem umberWord_eq_append (d0 d1 d2 d3 d4 d5 d6 d7 c0 c1 : Byte) :
    umberWord [d0, d1, d2, d3, d4, d5, d6, d7] c0 c1 = c1 ++ c0 ++ d7 ++ d6 ++ d5 ++ d4 ++ d3 ++ d2 ++ d1 ++ d0 := by
  simp only [umberWord, List.cons_append, List.nil_append]
  rw [ofNat_leNat_cons 72, ofNat_leNat_cons 64, ofNat_leNat_cons 56, ofNat_leNat_cons 48, ofNat_leNat_cons 40,
    ofNat_leNat_cons 32, ofNat_leNat_cons 24, ofNat_leNat_cons 16, ofNat_leNat_cons 8, ofNat_leNat_singleton]

theorem umberC0_eight (d0 d1 d2 d3 d4 d5 d6 d7 : Byte) :
    umberC0 [d0, d1, d2, d3, d4, d5, d6, d7] = d0 ^^^ d1 ^^^ d2 ^^^ d3 ^^^ d4 ^^^ d5 ^^^ d6 ^^^ d7 := by
  simp only [umberC0, List.foldl_cons, List.foldl_nil, BitVec.ofNat_eq_ofNat, BitVec.zero_xor]

theorem umberC1_eight (d0 d1 d2 d3 d4 d5 d6 d7 : Byte) :
    umberC1 [d0, d1, d2, d3, d4, d5, d6, d7] = gmul 0x1D d0 ^^^ gmul 0x3A d1 ^^^ gmul 0x74 d2 ^^^ gmul 0xE8 d3 ^^^
      gmul 0xCD d4 ^^^ gmul 0x87 d5 ^^^ gmul 0x13 d6 ^^^ gmul 0x26 d7 := by
  rw [gmul_comm _ d0, gmul_comm _ d1, gmul_comm _ d2, gmul_comm _ d3, gmul_comm _ d4, gmul_comm _ d5, gmul_comm _ d6, gmul_comm _ d7]
  simp only [umberC1, umberM, List.zipWith_cons_cons, List.zipWith_nil_right, List.foldl_cons, List.foldl_nil,
    BitVec.ofNat_eq_ofNat, BitVec.zero_xor]

theorem modify_append_left {α : Type} {l : List α} {k : Nat} (hk : k < l.length) (r : List α) (f : α → α) :
    (l ++ r).modify k f = l.modify k f ++ r := by
  induction l generalizing k with
  | nil => exact absurd hk (Nat.not_lt_zero k)
  | cons x l ih =>
    cases k with
    | zero => rw [List.cons_append, List.modify_zero_cons, List.modify_zero_cons, List.cons_append]
    | succ k =>
      rw [List.cons_append, List.modify_succ_cons, List.modify_succ_cons, ih (Nat.lt_of_succ_lt_succ hk), List.cons_append]

theorem modify_append_right {α : Type} {l : List α} {n : Nat} (hl : l.length = n) (r : List α) (k : Nat) (f : α → α) :
    (l ++ r).modify (n + k) f = l ++ r.modify k f := by
  subst hl
  induction l with
  | nil => rw [List.nil_append, List.nil_append, List.length_nil, Nat.zero_add]
  | cons x l ih => rw [List.cons_append, List.length_cons, Nat.add_right_comm, List.modify_succ_cons, ih, List.cons_append]

/-- What an error did to a byte, the same error undoes. -/
theorem set_modify_xor {l : List Byte} {k : Nat} (hk : k < l.length) (e : Byte) :
    (l.modify k (· ^^^ e)).set k ((l.modify k (· ^^^ e)).getD k 0 ^^^ e) = l := by
  induction l generalizing k with
  | nil => exact absurd hk (Nat.not_lt_zero k)
  | cons x l ih =>
    cases k with
    | zero => rw [List.modify_zero_cons, List.getD_cons_zero, List.set_cons_zero, BitVec.xor_assoc, BitVec.xor_self, BitVec.xor_zero]
    | succ k => rw [List.modify_succ_cons, List.getD_cons_succ, List.set_cons_succ, ih (Nat.lt_of_succ_lt_succ hk)]

theorem xor_xor_left_cancel (a b : Byte) : a ^^^ b ^^^ a = b := by
  rw [BitVec.xor_comm a b, BitVec.xor_assoc, BitVec.xor_self, BitVec.xor_zero]

/-- The stored word of R327 and R328, byte by byte. -/
theorem umberEncode_eq_append (d0 d1 d2 d3 d4 d5 d6 d7 : Byte) :
    umberEncode [d0, d1, d2, d3, d4, d5, d6, d7] =
      (gmul 0x1D d0 ^^^ gmul 0x3A d1 ^^^ gmul 0x74 d2 ^^^ gmul 0xE8 d3 ^^^ gmul 0xCD d4 ^^^ gmul 0x87 d5 ^^^
        gmul 0x13 d6 ^^^ gmul 0x26 d7) ++
      (d0 ^^^ d1 ^^^ d2 ^^^ d3 ^^^ d4 ^^^ d5 ^^^ d6 ^^^ d7) ++ d7 ++ d6 ++ d5 ++ d4 ++ d3 ++ d2 ++ d1 ++ d0 := by
  rw [umberEncode_eq_umberWord rfl, umberWord_eq_append, umberC0_eight, umberC1_eight]

section
variable {d : List Byte} (hd : d.length = 8)
include hd

theorem umberWord_xor_byte (c0 c1 : Byte) {k : Nat} (hk : k < 10) (e : Byte) :
    umberWord d c0 c1 ^^^ BitVec.ofNat 80 (e.toNat <<< (8 * k)) = BitVec.ofNat 80 (leNat ((d ++ [c0, c1]).modify k (· ^^^ e))) := by
  rw [umberWord, ← BitVec.ofNat_xor, leNat_xor_byte (by rw [List.length_append, hd]; exact hk)]

theorem umberWord_xor_data (c0 c1 : Byte) (k : Fin 8) (e : Byte) :
    umberWord d c0 c1 ^^^ BitVec.ofNat 80 (e.toNat <<< (8 * k.val)) = umberWord (d.modify k (· ^^^ e)) c0 c1 := by
  rw [umberWord_xor_byte hd c0 c1 (by omega), modify_append_left (by omega), umberWord]

theorem umberWord_xor_c0 (c0 c1 e : Byte) :
    umberWord d c0 c1 ^^^ BitVec.ofNat 80 (e.toNat <<< (8 * 8)) = umberWord d (c0 ^^^ e) c1 := by
  rw [umberWord_xor_byte hd c0 c1 (by decide), modify_append_right hd [c0, c1] 0, List.modify_zero_cons, umberWord]

theorem umberWord_xor_c1 (c0 c1 e : Byte) :
    umberWord d c0 c1 ^^^ BitVec.ofNat 80 (e.toNat <<< (8 * 9)) = umberWord d c0 (c1 ^^^ e) := by
  rw [umberWord_xor_byte hd c0 c1 (by decide), modify_append_right hd [c0, c1] 1, List.modify_succ_cons, List.modify_zero_cons, umberWord]

theorem leBytes_umberWord (c0 c1 : Byte) : leBytes 10 (umberWord d c0 c1).toNat = d ++ [c0, c1] :=
  leBytes_ofNat_leNat (by rw [List.length_append, hd]; rfl)

theorem take_eight (c0 c1 : Byte) : (d ++ [c0, c1]).take 8 = d := List.take_left' hd

theorem getD_eight (c0 c1 : Byte) : (d ++ [c0, c1]).getD 8 0 = c0 := by
  rw [List.getD_eq_getElem?_getD, List.getElem?_append_right (by omega), hd]
  rfl

theorem getD_nine (c0 c1 : Byte) : (d ++ [c0, c1]).getD 9 0 = c1 := by
  rw [List.getD_eq_getElem?_getD, List.getElem?_append_right (by omega), hd]
  rfl

/-! The decode of a word by its syndromes, which are what its check bytes differ by from those of its data. -/

theorem umberDecode_clean : umberDecode (umberWord d (umberC0 d) (umberC1 d)) = (d, none, .clean) := by
  simp only [umberDecode, leBytes_umberWord hd, take_eight hd, getD_eight hd, getD_nine hd, BitVec.xor_self]
  exact if_pos ⟨rfl, rfl⟩

theorem umberDecode_c0 {s0 : Byte} (h0 : s0 ≠ 0) :
    umberDecode (umberWord d (umberC0 d ^^^ s0) (umberC1 d)) = (d, some 8, .corrected) := by
  simp only [umberDecode, leBytes_umberWord hd, take_eight hd, getD_eight hd, getD_nine hd, BitVec.xor_self, xor_xor_left_cancel]
  exact (if_neg fun h => h0 h.1).trans ((if_neg h0).trans (if_pos rfl))

theorem umberDecode_c1 {s1 : Byte} (h1 : s1 ≠ 0) :
    umberDecode (umberWord d (umberC0 d) (umberC1 d ^^^ s1)) = (d, some 9, .corrected) := by
  simp only [umberDecode, leBytes_umberWord hd, take_eight hd, getD_eight hd, getD_nine hd, BitVec.xor_self, xor_xor_left_cancel]
  exact (if_neg fun h => h1 h.2).trans (if_pos rfl)

theorem umberDecode_located {s0 s1 : Byte} {i : Nat} (h0 : s0 ≠ 0) (h1 : s1 ≠ 0) (hi : umberLocate s0 s1 = some i) :
    umberDecode (umberWord d (umberC0 d ^^^ s0) (umberC1 d ^^^ s1)) = (d.set i (d.getD i 0 ^^^ s0), some i, .corrected) := by
  simp only [umberDecode, leBytes_umberWord hd, take_eight hd, getD_eight hd, getD_nine hd, xor_xor_left_cancel, hi]
  exact (if_neg fun h => h0 h.1).trans ((if_neg h0).trans (if_neg h1))

theorem umberDecode_data (k : Fin 8) {e : Byte} (he : e ≠ 0) :
    umberDecode (umberWord (d.modify k (· ^^^ e)) (umberC0 d) (umberC1 d)) = (d, some k.val, .corrected) := by
  have hd' : (d.modify k (· ^^^ e)).length = 8 := by rw [List.length_modify, hd]
  have h := umberDecode_located hd' he (gmul_umberM_ne_zero k he) (umberLocate_gmul k he)
  rwa [umberC0_modify (by omega), umberC1_modify hd, BitVec.xor_assoc, BitVec.xor_assoc, BitVec.xor_self, BitVec.xor_self,
    BitVec.xor_zero, BitVec.xor_zero, set_modify_xor (by omega)] at h

theorem umberDecode_byteError (k : Fin 10) (e : Byte) :
    umberDecode (umberEncode d ^^^ BitVec.ofNat 80 (e.toNat <<< (8 * k.val))) =
      if e = 0 then (d, none, .clean) else (d, some k.val, .corrected) := by
  rw [umberEncode_eq_umberWord hd]
  split
  · next he =>
    rw [he, BitVec.ofNat_eq_ofNat, BitVec.toNat_ofNat, Nat.zero_mod, Nat.zero_shiftLeft, BitVec.xor_zero, umberDecode_clean hd]
  · next he =>
    obtain ⟨k, hk⟩ := k
    obtain hk8 | rfl | rfl : k < 8 ∨ k = 8 ∨ k = 9 := by omega
    · rw [umberWord_xor_data hd _ _ ⟨k, hk8⟩, umberDecode_data hd ⟨k, hk8⟩ he]
    · rw [umberWord_xor_c0 hd, umberDecode_c0 hd he]
    · rw [umberWord_xor_c1 hd, umberDecode_c1 hd he]

end
end Sys2Proof.Machine
end

section
/-! PROOFS. The statement about Umber. -/

open Sys2Proof.Machine

namespace Sys2Proof

/-- Settles O38: the encoded word is its ten bytes; gmul is bilinear and its products by powers of α are repeated doublings; an error
in one byte makes syndromes that name the byte, for no error has one product by two multipliers. -/
theorem umberCorrectsEverySingleByteError : Obligations.UmberCorrectsEverySingleByteError := by
  refine ⟨umberEncode_eq_append, ⟨gmul_xor_right, fun a k => ?_, by decide⟩, by decide,
    fun d k e hd => umberDecode_byteError hd k e⟩
  rw [natCast_one_shiftLeft]
  exact gmulAux_twoPow k.isLt (Nat.le_refl 8) a

end Sys2Proof
end
